-- ==== Sys2Proof/Word.lean ====
section
/-! DEFINITION. The word types of the Troam 4 and their plainest arithmetic. -/

namespace Sys2Proof

/-- A register of one thread, and an instruction word (R20, R46). -/
abbrev Word := BitVec 32

/-- An address, a 64-bit count or a register pair (R43, R119, R322). -/
abbrev DWord := BitVec 64

/-- One byte of memory (R6). -/
abbrev Byte := BitVec 8

/-- One bit per thread of a crew: an active mask or a predicate (R31, R33). -/
abbrev Mask := BitVec 32

/-- The pair whose low register is `lo` and high register `hi` (R65, R119). -/
def pairOf (lo hi : Word) : DWord := hi ++ lo

/-- Bits 31:0 of a pair. -/
def loWord (x : DWord) : Word := x.setWidth 32

/-- Bits 63:32 of a pair. -/
def hiWord (x : DWord) : Word := x.extractLsb' 32 32

end Sys2Proof
end

