-- ==== Sys2Proof/Machine/Flags.lean ====
section
/-! DEFINITION. Number formats, exact values, rounding and the sticky flags (R88 to R105), and the stochastic-rounding
generator (R103, R104). -/

namespace Sys2Proof.Machine

/-- The sticky flags an operation raises (R98). -/
structure Flags where
  nv : Bool := false
  dz : Bool := false
  ov : Bool := false
  uf : Bool := false
  nx : Bool := false
  sa : Bool := false
  deriving DecidableEq, Repr

/-- The OR over threads, passes and packed elements (R98). -/
def Flags.or (x y : Flags) : Flags :=
  ⟨x.nv || y.nv, x.dz || y.dz, x.ov || y.ov, x.uf || y.uf, x.nx || y.nx, x.sa || y.sa⟩

/-- The OR of a list of flag sets. -/
def Flags.all (l : List Flags) : Flags := l.foldl Flags.or {}

/-- The flags at their places in FMODE, bits 8 to 13 (R97). -/
def Flags.word (x : Flags) : Word :=
  BitVec.setWidth 32
    (BitVec.ofBool x.sa ++ BitVec.ofBool x.nx ++ BitVec.ofBool x.uf ++ BitVec.ofBool x.ov ++ BitVec.ofBool x.dz ++
      BitVec.ofBool x.nv) <<< 8

/-- The rounding modes by their FMODE.RND values (R97, R103). -/
inductive Mode where
  | rne | rz | rp | rm | ro | sr
  deriving DecidableEq, Repr

/-- The mode of a value 1 to 6 of RND; the reserved values 0 and 7 never reach it (R97, R144, R253) and read as RNE. -/
def Mode.ofRnd : Nat → Mode
  | 2 => .rz | 3 => .rp | 4 => .rm | 5 => .ro | 6 => .sr | _ => .rne

/-- A floating format (R89, Table 2): widths, bias, whether the all-ones exponent holds infinity and NaNs (IEEE 754),
and the canonical NaN if there is one (R90, Table 3). -/
structure Fmt where
  bits : Nat
  frac : Nat
  bias : Nat
  ieee : Bool
  nan : Option Nat
  deriving DecidableEq, Repr

def fp32 : Fmt := ⟨32, 23, 127, true, some 0x7FC00000⟩
def fp16 : Fmt := ⟨16, 10, 15, true, some 0x7E00⟩
def bf16 : Fmt := ⟨16, 7, 127, true, some 0x7FC0⟩
def e4m3 : Fmt := ⟨8, 3, 7, false, some 0x7F⟩
def e5m2 : Fmt := ⟨8, 2, 15, true, some 0x7E⟩
def e2m1 : Fmt := ⟨4, 1, 1, false, none⟩

/-- Bits of the exponent field. -/
def Fmt.expBits (f : Fmt) : Nat := f.bits - 1 - f.frac
/-- The exponent EMIN of the smallest normal value. -/
def Fmt.emin (f : Fmt) : Int := 1 - f.bias
/-- The code, sign cleared, of the largest finite value. -/
def Fmt.maxCode (f : Fmt) : Nat :=
  if f.ieee then (2 ^ f.expBits - 1) * 2 ^ f.frac - 1 else if f.nan.isSome then 0x7E else 2 ^ (f.bits - 1) - 1
/-- The code of infinity, sign cleared. -/
def Fmt.infCode (f : Fmt) : Nat := (2 ^ f.expBits - 1) * 2 ^ f.frac
/-- The sign bit of a negative code. -/
def Fmt.signBit (f : Fmt) (neg : Bool) : Nat := if neg then 2 ^ (f.bits - 1) else 0
/-- Whether DAZ and FTZO act on the format (R99). -/
def Fmt.flushable (f : Fmt) : Bool := f == fp32 || f == fp16 || f == bf16
/-- The canonical NaN, 0 where the format has none. -/
def Fmt.nanCode (f : Fmt) : Nat := f.nan.getD 0

/-- An exact value: a NaN, a signed infinity, or (−1)^neg × m × 2^e, zeros signed (R89, R90). -/
inductive Exact where
  | nan
  | inf (neg : Bool)
  | fin (neg : Bool) (m : Nat) (e : Int)
  deriving DecidableEq, Repr

/-- The value a code of a format stands for (R89). -/
def Fmt.value (f : Fmt) (code : Nat) : Exact :=
  let neg := code.testBit (f.bits - 1)
  let e := code / 2 ^ f.frac % 2 ^ f.expBits
  let m := code % 2 ^ f.frac
  if f.ieee && e == 2 ^ f.expBits - 1 then (if m == 0 then .inf neg else .nan)
  else if !f.ieee && f.nan.isSome && code % 2 ^ (f.bits - 1) == 0x7F then .nan
  else if e == 0 then .fin neg m (1 - f.bias - f.frac)
  else .fin neg (2 ^ f.frac + m) (e - f.bias - f.frac)

/-- DAZ on a code: a subnormal operand becomes a zero of its sign (R99). -/
def Fmt.daz (f : Fmt) (on : Bool) (code : Nat) : Nat :=
  if on && f.flushable && code / 2 ^ f.frac % 2 ^ f.expBits == 0 then f.signBit (code.testBit (f.bits - 1)) else code

/-- A magnitude m × 2^e cut at unit 2^q: the quotient t and the discarded fraction rem / 2^sh (R100). -/
structure Cut where
  t : Nat
  rem : Nat
  sh : Nat
  deriving DecidableEq, Repr

/-- Cuts m × 2^e at 2^q. -/
def cut (m : Nat) (e q : Int) : Cut :=
  if q ≤ e then ⟨m <<< (e - q).toNat, 0, 0⟩
  else let sh := (q - e).toNat; ⟨m >>> sh, m % 2 ^ sh, sh⟩

/-- The rounding step of R100: whether t keeps, and its new value. -/
def Cut.round (c : Cut) (mode : Mode) (neg : Bool) (rand : Word) : Nat :=
  if c.rem == 0 then c.t else
  match mode with
  | .rne => if 2 * c.rem > 2 ^ c.sh || (2 * c.rem == 2 ^ c.sh && c.t % 2 == 1) then c.t + 1 else c.t
  | .rz => c.t
  | .rp => if neg then c.t else c.t + 1
  | .rm => if neg then c.t + 1 else c.t
  | .ro => c.t ||| 1
  | .sr => if (c.rem <<< 32) / 2 ^ c.sh + rand.toNat ≥ 2 ^ 32 then c.t + 1 else c.t

/-- How a floating result is rounded: mode, saturation of conversions, flush of results, the random word (R100). -/
structure Rnd where
  mode : Mode
  sat : Bool := false
  ftzo : Bool := false
  rand : Word := 0
  deriving DecidableEq, Repr

/-- Floor(Log2(m × 2^e)) for m nonzero. -/
def floorLog2 (m : Nat) (e : Int) : Int := (Nat.log2 m : Int) + e

/-- RoundTo(fmt, x, mode) with the flags it sets (R100). -/
def roundTo (f : Fmt) (x : Exact) (r : Rnd) : Nat × Flags :=
  match x with
  | .nan => (f.nanCode, {})
  | .inf neg =>
    if f.ieee then (f.signBit neg + f.infCode, {})
    else if f.nan.isSome && !r.sat then (f.nanCode, { ov := true })
    else (f.signBit neg + f.maxCode, { ov := true, sa := true })
  | .fin neg m e =>
    if m == 0 then (f.signBit neg, {}) else
    let ex := max (floorLog2 m e) f.emin
    let c := cut m e (ex - f.frac)
    let inexact := c.rem != 0
    let fl : Flags := { nx := inexact, uf := inexact && decide (floorLog2 m e < f.emin) }
    let t := c.round r.mode neg r.rand
    let code := (ex - f.emin).toNat * 2 ^ f.frac + t
    if code > f.maxCode then
      let toMax := r.sat || f == e2m1 || r.mode == .rz || r.mode == .ro || (r.mode == .rp && neg) ||
        (r.mode == .rm && !neg)
      if toMax then (f.signBit neg + f.maxCode, { fl with ov := true, nx := true, sa := true })
      else if f.ieee then (f.signBit neg + f.infCode, { fl with ov := true, nx := true })
      else (f.nanCode, { fl with ov := true, nx := true })
    else if r.ftzo && f.flushable && code != 0 && code < 2 ^ f.frac then
      (f.signBit neg, { fl with uf := true, nx := true })
    else (f.signBit neg + code, fl)

/-- An integer format (R88). -/
structure IntFmt where
  bits : Nat
  signed : Bool
  deriving DecidableEq, Repr

/-- The least value of an integer format. -/
def IntFmt.lo (f : IntFmt) : Int := if f.signed then -(2 ^ (f.bits - 1) : Nat) else 0
/-- The greatest value of an integer format. -/
def IntFmt.hi (f : IntFmt) : Int := if f.signed then (2 ^ (f.bits - 1) : Nat) - 1 else (2 ^ f.bits : Nat) - 1
/-- The value of an integer code. -/
def IntFmt.value (f : IntFmt) (code : Nat) : Int :=
  let c := code % 2 ^ f.bits
  if f.signed && c ≥ 2 ^ (f.bits - 1) then (c : Int) - (2 ^ f.bits : Nat) else c

/-- The exact value of an integer. -/
def Exact.ofInt (i : Int) : Exact := .fin (i < 0) i.natAbs 0

/-- A conversion to an integer format (R101): value and flags. -/
def roundToInt (f : IntFmt) (x : Exact) (r : Rnd) : Int × Flags :=
  let bound (neg : Bool) : Int × Flags := (if neg then f.lo else f.hi, { nv := true, sa := true })
  match x with
  | .nan => (0, { nv := true })
  | .inf neg => bound neg
  | .fin neg m e =>
    let c := cut m e 0
    let t := c.round r.mode neg r.rand
    let v : Int := if neg then -(t : Int) else t
    if v < f.lo || f.hi < v then bound neg else (v, { nx := c.rem != 0 })

/-- The product of two exact values (R102): NaN with NV for 0 × ∞, NaN alone for a NaN operand. -/
def Exact.mul : Exact → Exact → Exact × Flags
  | .nan, _ => (.nan, {})
  | _, .nan => (.nan, {})
  | .inf s, .inf t => (.inf (s != t), {})
  | .inf s, .fin t m _ => if m == 0 then (.nan, { nv := true }) else (.inf (s != t), {})
  | .fin t m _, .inf s => if m == 0 then (.nan, { nv := true }) else (.inf (s != t), {})
  | .fin s m e, .fin t n k => (.fin (s != t) (m * n) (e + k), {})

/-- The negation of a value. -/
def Exact.neg : Exact → Exact
  | .nan => .nan
  | .inf s => .inf (!s)
  | .fin s m e => .fin (!s) m e

/-- Whether a value is a NaN. -/
def Exact.isNan : Exact → Bool
  | .nan => true
  | _ => false

/-- Whether a value is an infinity of the given sign. -/
def Exact.isInf (neg : Bool) : Exact → Bool
  | .inf s => s == neg
  | _ => false

/-- The least exponent of the finite terms. -/
def minExp (l : List Exact) : Int :=
  l.foldl (fun k x => match x with | .fin _ m e => if m == 0 then k else min k e | _ => k) 0

/-- A finite value as a multiple of 2^k, for k at most its exponent. -/
def Exact.scaled (k : Int) : Exact → Int
  | .fin s m e => let n : Int := (m <<< (e - k).toNat : Nat); if m == 0 then 0 else if s then -n else n
  | _ => 0

/-- Whether a term is a negative zero. -/
def Exact.isNegZero : Exact → Bool
  | .fin s m _ => s && m == 0
  | _ => false

/-- Whether a term is a positive zero. -/
def Exact.isPosZero : Exact → Bool
  | .fin s m _ => !s && m == 0
  | _ => false

/-- The exact sum of terms with the special cases and zero signs of R102: under `rm` an inexactly signed zero is −0. -/
def Exact.sum (rm : Bool) (l : List Exact) : Exact × Flags :=
  if l.any Exact.isNan then (.nan, {})
  else if l.any (Exact.isInf false) then (if l.any (Exact.isInf true) then (.nan, { nv := true }) else (.inf false, {}))
  else if l.any (Exact.isInf true) then (.inf true, {})
  else
    let k := minExp l
    let s := l.foldl (fun n x => n + x.scaled k) 0
    if s == 0 then
      (.fin (if l.all Exact.isNegZero then true else if l.all Exact.isPosZero then false else rm) 0 0, {})
    else (.fin (s < 0) s.natAbs k, {})

/-- D + x × y as one exact value (R102, R125): a NaN operand gives a NaN without NV. -/
def Exact.fma (rm : Bool) (d x y : Exact) : Exact × Flags :=
  if d.isNan || x.isNan || y.isNan then (.nan, {}) else
  let p := x.mul y
  if p.1.isNan then p else Exact.sum rm [d, p.1]

/-- Numeric comparison of two values that are no NaN: −1, 0 or 1, zeros equal (R90, R127). -/
def Exact.cmp (x y : Exact) : Int :=
  match x, y with
  | .inf s, .inf t => if s == t then 0 else if s then -1 else 1
  | .inf s, _ => if s then -1 else 1
  | _, .inf t => if t then 1 else -1
  | a, b => let k := minExp [a, b]; (a.scaled k - b.scaled k).sign

/-- One forward step of the generator (R103). -/
def lfsrForward (s : Word) : Word :=
  let t := s >>> 1
  if s.getLsbD 0 then t ^^^ 0x80200003 else t

/-- One backward step (R103). -/
def lfsrBackward (s : Word) : Word :=
  if s.getLsbD 31 then ((s ^^^ 0x80200003) <<< 1) ||| 1 else s <<< 1

/-- The mixing function (R104). -/
def mix (s n : Word) : Word :=
  let x := s ^^^ (n * 0x9E3779B9)
  let x := x ^^^ (x >>> 16)
  let x := x * 0x85EBCA6B
  x ^^^ (x >>> 13)

/-- RandomWord for thread t and packed element i (R104). -/
def randomWord (s : Word) (t i : Nat) : Word := mix s (BitVec.ofNat 32 (t + 32 * i))

/-- A format of the index of R105, Table 7, widened with the copy engine's binary32 and BYTE (R232). -/
inductive NumFmt where
  | flt (f : Fmt)
  | int (f : IntFmt)
  deriving DecidableEq, Repr

/-- The format of index k of R105, Table 7. -/
def NumFmt.ofIndex : Nat → Option NumFmt
  | 1 => some (.flt fp16) | 2 => some (.flt bf16) | 3 => some (.flt e4m3) | 4 => some (.flt e5m2)
  | 5 => some (.flt e2m1) | 6 => some (.int ⟨32, true⟩) | 7 => some (.int ⟨32, false⟩) | 8 => some (.int ⟨16, true⟩)
  | 9 => some (.int ⟨16, false⟩) | 10 => some (.int ⟨8, true⟩) | 11 => some (.int ⟨8, false⟩)
  | 12 => some (.int ⟨4, true⟩) | _ => none

/-- Width of an element in bits. -/
def NumFmt.bits : NumFmt → Nat
  | .flt f => f.bits
  | .int f => f.bits

/-- The exact value of an element's code. -/
def NumFmt.value : NumFmt → Nat → Exact
  | .flt f, c => f.value (c % 2 ^ f.bits)
  | .int f, c => .ofInt (f.value c)

/-- A value rounded to a format, as the code in the element's bits (R100, R101). A NaN to E2M1 gives 0 and NV (R101). -/
def NumFmt.round (f : NumFmt) (x : Exact) (r : Rnd) : Nat × Flags :=
  match f with
  | .flt g => if x.isNan && g.nan.isNone then (0, { nv := true }) else roundTo g x r
  | .int g => let v := roundToInt g x r; ((v.1 % (2 ^ g.bits : Nat)).toNat, v.2)

/-- A result code widened to a register: copies of the sign bit for signed integers, zeros otherwise (R105). -/
def NumFmt.widen (f : NumFmt) (code : Nat) : Word :=
  match f with
  | .int g => if g.signed then BitVec.ofInt 32 (g.value code) else BitVec.ofNat 32 code
  | .flt _ => BitVec.ofNat 32 code

/-- FMODE fields as an instruction reads them (R97). -/
structure FEnv where
  mode : Mode
  sat : Bool
  ftzo : Bool
  daz : Bool
  /-- the generator's state after the forward step where the instruction is stochastic (R103) -/
  lfsr : Word
  deriving DecidableEq, Repr

/-- The rounding of element i of thread t; conversions alone heed SAT (R100). -/
def FEnv.rnd (e : FEnv) (conv : Bool) (t i : Nat) : Rnd :=
  ⟨e.mode, conv && e.sat, e.ftzo, if e.mode == .sr then randomWord e.lfsr t i else 0⟩

/-- The value of a register word as binary32 under DAZ. -/
def FEnv.val32 (e : FEnv) (w : Word) : Exact := fp32.value (fp32.daz e.daz w.toNat)

/-- Rounds to binary32 and joins the flags of the operation. -/
def FEnv.to32 (e : FEnv) (t : Nat) (x : Exact × Flags) : Word × Flags :=
  let r := roundTo fp32 x.1 (e.rnd false t 0)
  (BitVec.ofNat 32 r.1, x.2.or r.2)

/-- A NaN of binary32 (R90). -/
def nan32 : Word := 0x7FC00000

/-- CVT of one thread by conversion code (R105, R131). -/
def convert (code : Nat) (e : FEnv) (t : Nat) (a : Word) : Word × Flags :=
  if code == 0 then
    match e.val32 a with
    | .nan => (nan32, {})
    | .inf s => (BitVec.ofNat 32 (fp32.signBit s + fp32.infCode), {})
    | .fin s m k =>
      if m == 0 then (BitVec.ofNat 32 (fp32.signBit s), {})
      else if 23 ≤ floorLog2 m k then (BitVec.ofNat 32 (fp32.daz e.daz a.toNat), {})
      else
        let c := cut m k 0
        let n := c.round e.mode s (e.rnd true t 0).rand
        let r := roundTo fp32 (.fin s n 0) ⟨.rne, false, false, 0⟩
        (BitVec.ofNat 32 r.1, { nx := c.rem != 0 })
  else if code ≤ 0x0C then
    match NumFmt.ofIndex code with
    | some f =>
      let r := f.round (e.val32 a) { e.rnd true t 0 with ftzo := e.ftzo }
      (f.widen r.1, r.2)
    | none => (0, {})
  else if code == 0x20 then
    let r := roundTo bf16 (fp16.value (fp16.daz e.daz (a.toNat % 65536))) (e.rnd true t 0)
    (BitVec.ofNat 32 r.1, r.2)
  else if code == 0x21 then
    let r := roundTo fp16 (bf16.value (bf16.daz e.daz (a.toNat % 65536))) (e.rnd true t 0)
    (BitVec.ofNat 32 r.1, r.2)
  else
    match NumFmt.ofIndex (code - 0x10) with
    | some (.flt f) =>
      let r := roundTo fp32 (f.value (f.daz e.daz (a.toNat % 2 ^ f.bits))) (e.rnd true t 0)
      (BitVec.ofNat 32 r.1, r.2)
    | some (.int f) =>
      let r := roundTo fp32 (.ofInt (f.value a.toNat)) (e.rnd true t 0)
      (BitVec.ofNat 32 r.1, r.2)
    | none => (0, {})

end Sys2Proof.Machine
end

