-- ==== Sys2Proof/Syntax.lean ====
section
/-! DEFINITION. The instruction words of the Troam 4 and the steps of the device that are no word, one constructor per
row of the opcode table. A word's constructor carries the fields of its format as they stand in the word (R52). -/

namespace Sys2Proof

/-- Format G (R52): general. -/
structure GFields where
  d : BitVec 7
  a : BitVec 7
  b : BitVec 7
  uni : Bool
  f : Bool
  c : Bool
  deriving DecidableEq, Repr

/-- Format G of majors 0x2C to 0x31, where bits 2:1 are the width field (R53). -/
structure AFields where
  d : BitVec 7
  a : BitVec 7
  b : BitVec 7
  w : BitVec 2
  c : Bool
  deriving DecidableEq, Repr

/-- Format F (R52): floating. -/
structure FFields where
  rnd : BitVec 3
  d : BitVec 7
  a : BitVec 7
  b : BitVec 7
  f : Bool
  c : Bool
  deriving DecidableEq, Repr

/-- Format I (R52): immediate. -/
structure IFields where
  d : BitVec 7
  imm : BitVec 16
  c : Bool
  deriving DecidableEq, Repr

/-- Format M (R52): memory. -/
structure MFields where
  d : BitVec 7
  a : BitVec 7
  off : BitVec 7
  cls : BitVec 2
  sp : BitVec 2
  c : Bool
  deriving DecidableEq, Repr

/-- Format B (R52): branch. -/
structure BFields where
  inv : Bool
  p : BitVec 3
  off : BitVec 21
  c : Bool
  deriving DecidableEq, Repr

/-- Format S (R52): system. The sub-op is the constructor's, with its selector bits where it has some. -/
structure SFields where
  a : BitVec 7
  b : BitVec 7
  imm : BitVec 5
  c : Bool
  deriving DecidableEq, Repr

/-- Format X (R52, R61): prefix. -/
structure XFields where
  patA : BitVec 7
  patB : BitVec 7
  mods : BitVec 4
  guard : BitVec 4
  res : BitVec 3
  c : Bool
  deriving DecidableEq, Repr

/-- A crew by its workgroup (the model's number for it) and its logical index (R15). -/
structure CrewRef where
  wg : Nat
  idx : Nat
  deriving DecidableEq, Repr

/-- Where a crew is placed: scheduler, slot, and the number of the wake share it receives (R259, R340). -/
structure Spot where
  sched : Nat
  slot : Nat
  share : Nat
  deriving DecidableEq, Repr

/-- What an access arriving over a fabric port does (R176). -/
inductive RemoteOp where
  /-- reads that many bytes -/
  | read (len : Nat)
  /-- writes these bytes -/
  | write (bytes : List Byte)
  deriving DecidableEq, Repr

/-- How the boot sequence ends: it reaches READY, or it stops with a code of Table 2 (R372). -/
inductive BootResult where
  | ready
  | stopped (code : BitVec 8)
  deriving DecidableEq, Repr

/-- Where an uncorrectable error of on-chip state lies (R352, Table 5). -/
inductive Upset where
  /-- s registers, predicates, MASK, mask stack, CF, IC, FMODE, LFSR, queue state, counts held on chip -/
  | crewState
  /-- a latch of a crew -/
  | latch (crew n : Nat)
  /-- a word of the scratchpad -/
  | scratch (word : Nat)
  /-- an element word of an accumulator tile -/
  | tile (n elem : Nat)
  /-- a column of a weight slot -/
  | slot (n col : Nat)
  deriving DecidableEq, Repr

/-- The place of an uncorrectable error of on-chip state: the workgroup and the unit (R352). -/
structure UpsetAt where
  wg : Nat
  unit : Upset
  deriving DecidableEq, Repr

/-- What the debug interface reads or writes of a halted crew (R358). -/
inductive DebugItem where
  /-- one thread of a v or o register by code point -/
  | reg (code : BitVec 7) (thread : BitVec 5)
  /-- the tag of a v or o register: 0 U, 1 A, 2 G -/
  | tag (code : BitVec 7)
  | pred (n : BitVec 3)
  | spred (n : BitVec 2)
  | sreg (n : BitVec 5)
  | fmode
  /-- the value of a mailbox -/
  | mailbox (n : BitVec 2)
  /-- the full bit of a mailbox -/
  | mailboxFull (n : BitVec 2)
  | pc
  /-- DIR, and the target count of a walk under way, 0 where there is none (R323): read only -/
  | dir
  | target
  deriving DecidableEq, Repr

/-- A watchpoint (R359): a scratchpad range of one WGID, or a global range, and the kinds it matches. -/
structure Watchpoint where
  /-- 0 global, 1 scratchpad, 2 the multicast-reduce window (R58) -/
  space : Nat
  wgid : Word
  base : Nat
  size : Nat
  onRead : Bool
  onWrite : Bool
  deriving DecidableEq, Repr

/-- Every row of the opcode table: the instruction words, then the steps that are no word. -/
inductive Instr where
  /-- IADD (R114). Adds two 32-bit operands modulo 2^32, or adds a to d in the update form. -/
  | iadd (f : GFields)
  /-- ISUB (R114). Subtracts two 32-bit operands modulo 2^32. -/
  | isub (f : GFields)
  /-- IMUL (R114). Writes the low 32 bits of the product of two operands. -/
  | imul (f : GFields)
  /-- IMULH (R114). Writes the high 32 bits of the signed product. -/
  | imulh (f : GFields)
  /-- IMULHU (R114). Writes the high 32 bits of the unsigned product. -/
  | imulhu (f : GFields)
  /-- IMAD (R115). Adds the product of a and b to d modulo 2^32. -/
  | imad (f : GFields)
  /-- IMIN (R114). Writes the signed minimum of two operands. -/
  | imin (f : GFields)
  /-- IMAX (R114). Writes the signed maximum of two operands. -/
  | imax (f : GFields)
  /-- UMIN (R114). Writes the unsigned minimum of two operands. -/
  | umin (f : GFields)
  /-- UMAX (R114). Writes the unsigned maximum of two operands. -/
  | umax (f : GFields)
  /-- IABS (R114). Writes the absolute value of a signed operand modulo 2^32. -/
  | iabs (f : GFields)
  /-- INEG (R114). Writes the two's complement negation of an operand. -/
  | ineg (f : GFields)
  /-- AND (R116). Writes the bitwise AND of two operands. -/
  | and (f : GFields)
  /-- OR (R116). Writes the bitwise OR of two operands. -/
  | or (f : GFields)
  /-- XOR (R116). Writes the bitwise XOR of two operands. -/
  | xor (f : GFields)
  /-- ANDN (R116). Writes a AND NOT b. -/
  | andn (f : GFields)
  /-- SHL (R116). Shifts left by the whole of b, giving 0 for amounts of 32 or more. -/
  | shl (f : GFields)
  /-- SHR (R116). Shifts right logically by the whole of b. -/
  | shr (f : GFields)
  /-- SAR (R116). Shifts right arithmetically by the whole of b. -/
  | sar (f : GFields)
  /-- ROT (R116). Rotates a left by b[4:0]. -/
  | rot (f : GFields)
  /-- BFE (R117). Extracts a bit field under a control word, optionally sign-extended. -/
  | bfe (f : GFields)
  /-- BFI (R117). Inserts the low bits of a into d at a position given by a control word. -/
  | bfi (f : GFields)
  /-- POPC (R116). Writes the number of one bits of a. -/
  | popc (f : GFields)
  /-- CLZ (R116). Writes the number of leading zero bits of a. -/
  | clz (f : GFields)
  /-- BREV (R118). Reverses the bit order of a. -/
  | brev (f : GFields)
  /-- MOV (R118). Copies a to d. -/
  | mov (f : GFields)
  /-- LEA (R119). Adds a sign-extended 32-bit value to a 64-bit register pair. -/
  | lea (f : GFields)
  /-- LEAU (R119). Adds a zero-extended 32-bit value to a 64-bit register pair. -/
  | leau (f : GFields)
  /-- SWAP (R120). Exchanges two registers in each active thread. -/
  | swap (f : GFields)
  /-- NOT (R118). Writes the bitwise complement of a. -/
  | not (f : GFields)
  /-- ADD64 (R119). Adds two 64-bit register pairs modulo 2^64. -/
  | add64 (f : GFields)
  /-- ICMP_EQ (R123). Writes a predicate bit per thread that is set when the operands are equal. -/
  | icmpEq (f : GFields)
  /-- ICMP_NE (R123). Writes a predicate set when the operands differ. -/
  | icmpNe (f : GFields)
  /-- ICMP_LT (R123). Writes a predicate set when a is less than b as signed values. -/
  | icmpLt (f : GFields)
  /-- ICMP_LE (R123). Writes a predicate set when a is at most b as signed values. -/
  | icmpLe (f : GFields)
  /-- ICMP_ULT (R123). Writes a predicate set when a is less than b as unsigned values. -/
  | icmpUlt (f : GFields)
  /-- ICMP_ULE (R123). Writes a predicate set when a is at most b as unsigned values. -/
  | icmpUle (f : GFields)
  /-- ITEST (R123). Writes a predicate set when a AND b is nonzero. -/
  | itest (f : GFields)
  /-- PAND (R124). Combines two predicates bitwise with AND. -/
  | pand (f : GFields)
  /-- POR (R124). Combines two predicates bitwise with OR. -/
  | por (f : GFields)
  /-- PXOR (R124). Combines two predicates bitwise with XOR. -/
  | pxor (f : GFields)
  /-- PNOT (R124). Writes the complement of a predicate. -/
  | pnot (f : GFields)
  /-- FCMP_EQ (R127). Writes a predicate set when two binary32 operands are numerically equal. -/
  | fcmpEq (f : GFields)
  /-- FCMP_LT (R127). Writes a predicate set when a is less than b, setting NV on a NaN. -/
  | fcmpLt (f : GFields)
  /-- FCMP_LE (R127). Writes a predicate set when a is at most b, setting NV on a NaN. -/
  | fcmpLe (f : GFields)
  /-- FCMP_UN (R127). Writes a predicate set when either operand is a NaN. -/
  | fcmpUn (f : GFields)
  /-- FADD (R125). Adds binary32 operands and rounds once. -/
  | fadd (f : FFields)
  /-- FSUB (R125). Subtracts binary32 operands and rounds once. -/
  | fsub (f : FFields)
  /-- FMUL (R125). Multiplies binary32 operands and rounds once. -/
  | fmul (f : FFields)
  /-- FFMA (R125). Computes d + a × b in binary32, rounded once. -/
  | ffma (f : FFields)
  /-- FMIN (R128). Writes the smaller binary32 operand, with -0 below +0 and a NaN ignored. -/
  | fmin (f : GFields)
  /-- FMAX (R128). Writes the larger binary32 operand. -/
  | fmax (f : GFields)
  /-- FABS (R128). Clears the sign bit, returning the canonical NaN for a NaN. -/
  | fabs (f : GFields)
  /-- FNEG (R128). Inverts the sign bit, returning the canonical NaN for a NaN. -/
  | fneg (f : GFields)
  /-- HADD2 (R129). Adds two packed binary16 elements each. -/
  | hadd2 (f : FFields)
  /-- HFMA2 (R129). Fused multiply-add on two packed binary16 elements. -/
  | hfma2 (f : FFields)
  /-- BADD2 (R129). Adds two packed BF16 elements each. -/
  | badd2 (f : FFields)
  /-- BFMA2 (R129). Fused multiply-add on two packed BF16 elements. -/
  | bfma2 (f : FFields)
  /-- RCP (R130). Writes the correctly rounded reciprocal. -/
  | rcp (f : GFields)
  /-- RSQ (R130). Writes the correctly rounded reciprocal square root. -/
  | rsq (f : GFields)
  /-- SQRT (R130). Writes the correctly rounded square root. -/
  | sqrt (f : GFields)
  /-- EX2 (R130). Writes the correctly rounded 2^x. -/
  | ex2 (f : GFields)
  /-- LG2 (R130). Writes the correctly rounded base-2 logarithm. -/
  | lg2 (f : GFields)
  /-- SIN (R130). Writes the correctly rounded sine. -/
  | sin (f : GFields)
  /-- COS (R130). Writes the correctly rounded cosine. -/
  | cos (f : GFields)
  /-- TANH (R130). Writes the correctly rounded hyperbolic tangent. -/
  | tanh (f : GFields)
  /-- CVT (R131). Converts a under the conversion code in field b. -/
  | cvt (f : FFields)
  /-- PACK (R133). Converts a binary32 value and writes it into one packed element of d. -/
  | pack (f : GFields)
  /-- UNPK (R134). Reads one packed element and writes its exact binary32 value. -/
  | unpk (f : GFields)
  /-- SCAL (R135). Multiplies a binary32 value by a BS10 block scale. -/
  | scal (f : GFields)
  /-- DOT2 (R136). Adds the dot product of two packed INT16 pairs to d. -/
  | dot2 (f : GFields)
  /-- DOT4 (R136). Adds the dot product of four packed INT8 elements to d. -/
  | dot4 (f : GFields)
  /-- DOT8 (R136). Adds the dot product of eight packed INT4 elements to d. -/
  | dot8 (f : GFields)
  /-- DOT4F (R137). Adds four exact E4M3 products to binary32 d and rounds once. -/
  | dot4f (f : GFields)
  /-- SHFL (R138). Gives each thread the value of a thread chosen by b. -/
  | shfl (f : GFields)
  /-- VOTE (R138). Writes the mask of active threads whose operands differ. -/
  | vote (f : GFields)
  /-- MATCH (R138). Writes the mask of active threads with equal operand pairs. -/
  | matchAny (f : GFields)
  /-- RAND (R140). Steps the LFSR and writes a mixed pseudo-random word per thread. -/
  | rand (f : GFields)
  /-- REDL_ADD (R138). Writes the integer sum over active threads plus b. -/
  | redlAdd (f : GFields)
  /-- REDL_FADD (R139). Writes the exact floating sum over active threads, rounded once. -/
  | redlFadd (f : GFields)
  /-- SCANL_ADD (R138). Writes the inclusive integer prefix sum over active threads. -/
  | scanlAdd (f : GFields)
  /-- SCANL_FADD (R139). Writes the inclusive exact floating prefix sum, rounded once. -/
  | scanlFadd (f : GFields)
  /-- REDL_MIN (R138). Writes the signed minimum over active threads and b. -/
  | redlMin (f : GFields)
  /-- REDL_MAX (R138). Writes the signed maximum over active threads and b. -/
  | redlMax (f : GFields)
  /-- SCANL_MIN (R138). Writes the inclusive prefix signed minimum. -/
  | scanlMin (f : GFields)
  /-- SCANL_MAX (R138). Writes the inclusive prefix signed maximum. -/
  | scanlMax (f : GFields)
  /-- IADDI (R121). Adds a sign-extended 16-bit immediate to d. -/
  | iaddi (f : IFields)
  /-- IMULI (R121). Multiplies d by a sign-extended immediate. -/
  | imuli (f : IFields)
  /-- MOVIL (R121). Writes a zero-extended 16-bit immediate to d. -/
  | movil (f : IFields)
  /-- MOVIH (R121). Writes an immediate into bits 31:16 of d, keeping bits 15:0. -/
  | movih (f : IFields)
  /-- ANDI (R121). ANDs d with a zero-extended immediate. -/
  | andi (f : IFields)
  /-- ORI (R121). ORs d with a zero-extended immediate. -/
  | ori (f : IFields)
  /-- XORI (R121). XORs d with a zero-extended immediate. -/
  | xori (f : IFields)
  /-- ROTI (R121). Rotates d left by imm[4:0]. -/
  | roti (f : IFields)
  /-- LOOP (R330). Decrements an s register counter and branches while it is nonzero. -/
  | loop (f : IFields)
  /-- SMOVIL (R121). Writes a zero-extended immediate to an s register. -/
  | smovil (f : IFields)
  /-- SMOVIH (R121). Writes an immediate into bits 31:16 of an s register. -/
  | smovih (f : IFields)
  /-- SADDI (R121). Adds a sign-extended immediate to an s register. -/
  | saddi (f : IFields)
  /-- LD_8 (R205). Loads one byte per active thread, zero-extended. -/
  | ld8 (f : MFields)
  /-- LD_16 (R205). Loads two bytes per active thread, zero-extended. -/
  | ld16 (f : MFields)
  /-- LD_32 (R205). Loads four bytes per active thread. -/
  | ld32 (f : MFields)
  /-- LD_64 (R205). Loads eight bytes per active thread into a register pair. -/
  | ld64 (f : MFields)
  /-- LD_128 (R205). Loads sixteen bytes per active thread into a register quad. -/
  | ld128 (f : MFields)
  /-- ST_8 (R205). Stores the low byte of a register per active thread. -/
  | st8 (f : MFields)
  /-- ST_16 (R205). Stores the low two bytes of a register per active thread. -/
  | st16 (f : MFields)
  /-- ST_32 (R205). Stores four bytes per active thread, or contributes to a multicast-reduce round. -/
  | st32 (f : MFields)
  /-- ST_64 (R205). Stores eight bytes per active thread from a pair. -/
  | st64 (f : MFields)
  /-- ST_128 (R205). Stores sixteen bytes per active thread from a quad. -/
  | st128 (f : MFields)
  /-- XCHG (R210). Exchanges a register with an aligned memory word per thread in ascending order. -/
  | xchg (f : MFields)
  /-- ATOM_ADD (R214). Global atomic integer add, returning the old value. -/
  | atomAdd (f : AFields)
  /-- ATOM_FADD (R215). Global atomic binary32 add rounded under RNE. -/
  | atomFadd (f : AFields)
  /-- ATOM_AND (R214). Global atomic bitwise AND. -/
  | atomAnd (f : AFields)
  /-- ATOM_OR (R214). Global atomic bitwise OR. -/
  | atomOr (f : AFields)
  /-- ATOM_XOR (R214). Global atomic bitwise XOR. -/
  | atomXor (f : AFields)
  /-- ATOM_IMIN (R214). Global atomic signed minimum. -/
  | atomImin (f : AFields)
  /-- ATOM_IMAX (R214). Global atomic signed maximum. -/
  | atomImax (f : AFields)
  /-- ATOM_EXCH (R214). Global atomic exchange. -/
  | atomExch (f : AFields)
  /-- ATOM_UMIN (R214). Global atomic unsigned minimum. -/
  | atomUmin (f : AFields)
  /-- ATOM_UMAX (R214). Global atomic unsigned maximum. -/
  | atomUmax (f : AFields)
  /-- ATOM_CAS (R213). Global atomic compare-and-swap. -/
  | atomCas (f : AFields)
  /-- ATOM_ADD_SCR (R214). Scratchpad atomic integer add. -/
  | atomAddScr (f : AFields)
  /-- ATOM_FADD_SCR (R215). Scratchpad atomic binary32 add. -/
  | atomFaddScr (f : AFields)
  /-- ATOM_AND_SCR (R214). Scratchpad atomic bitwise AND. -/
  | atomAndScr (f : AFields)
  /-- ATOM_OR_SCR (R214). Scratchpad atomic bitwise OR. -/
  | atomOrScr (f : AFields)
  /-- ATOM_XOR_SCR (R214). Scratchpad atomic bitwise XOR. -/
  | atomXorScr (f : AFields)
  /-- ATOM_IMIN_SCR (R214). Scratchpad atomic signed minimum. -/
  | atomIminScr (f : AFields)
  /-- ATOM_IMAX_SCR (R214). Scratchpad atomic signed maximum. -/
  | atomImaxScr (f : AFields)
  /-- ATOM_EXCH_SCR (R214). Scratchpad atomic exchange. -/
  | atomExchScr (f : AFields)
  /-- ATOM_UMIN_SCR (R214). Scratchpad atomic unsigned minimum. -/
  | atomUminScr (f : AFields)
  /-- ATOM_UMAX_SCR (R214). Scratchpad atomic unsigned maximum. -/
  | atomUmaxScr (f : AFields)
  /-- ATOM_CAS_SCR (R213). Scratchpad atomic compare-and-swap. -/
  | atomCasScr (f : AFields)
  /-- BRA (R328). Branches when the predicate holds in every thread of MASK. -/
  | bra (f : BFields)
  /-- BRA_ANY (R328). Branches when the predicate holds in any thread of MASK. -/
  | braAny (f : BFields)
  /-- BRP (R328). Branches on a scalar predicate. -/
  | brp (f : BFields)
  /-- CALL (R329). Writes the return packet to s31 and branches. -/
  | call (f : BFields)
  /-- DIVR (R332). Pushes MASK, narrows it by the predicate, and branches when none remain. -/
  | divr (f : BFields)
  /-- FLIP (R332). Switches MASK to the remaining threads of the top entry, branching when none. -/
  | flip (f : BFields)
  /-- TRAP (R303). Raises a trap delivered to the handler or the fault queue. -/
  | trap (f : SFields)
  /-- RFT (R304). Returns from the trap handler to TPC. -/
  | rft (f : SFields)
  /-- HALT (R308). Halts a target crew or workgroup, or kills its workgroup or fault domain. -/
  | halt (f : SFields)
  /-- RESUME (R309). Clears HALTED on the target crew, replaying a parked instruction. -/
  | resume (f : SFields)
  /-- MFSR (R305). Reads a system register into a vector register. -/
  | mfsr (f : SFields)
  /-- MTSR (R305). Writes a system register from the leader thread. -/
  | mtsr (f : SFields)
  /-- TLBI_PAGE (R313). Removes cached translations covering one virtual address of a region. -/
  | tlbiPage (f : SFields)
  /-- TLBI_SIZE (R313). Removes cached translations covering an aligned range of a size code. -/
  | tlbiSize (f : SFields)
  /-- TLBI_REGION (R313). Removes every translation tagged with a region's page-table root. -/
  | tlbiRegion (f : SFields)
  /-- TLBI_ALL (R313). Removes every cached translation in the package. -/
  | tlbiAll (f : SFields)
  /-- MFS (R142). Reads a special register into every active thread. -/
  | mfs (f : SFields)
  /-- MTS (R144). Writes FMODE from the leader thread. -/
  | mts (f : SFields)
  /-- SEED (R141). Loads the stochastic-rounding LFSR from the leader thread. -/
  | seed (f : SFields)
  /-- FENCE_ACQ (R222). Acquire fence of a given scope on the crew's own accesses. -/
  | fenceAcq (sel : BitVec 3) (f : SFields)
  /-- FENCE_REL (R222). Release fence of a given scope on the crew's own accesses. -/
  | fenceRel (sel : BitVec 3) (f : SFields)
  /-- FENCE (R222). Full fence of a given scope. -/
  | fence (sel : BitVec 3) (f : SFields)
  /-- PUBL (R225). Swaps the visible and shadow frames of a shadow set as a package-scope release. -/
  | publ (f : SFields)
  /-- CPYQ (R238). Issues a copy command that converts a box and pushes it into a queue. -/
  | cpyq (sel : BitVec 2) (f : SFields)
  /-- GATH (R238). Issues a gather command copying one block per active thread. -/
  | gath (sel : BitVec 2) (f : SFields)
  /-- MMA (R155). Multiplies activation rows by a weight slot and accumulates into a tile. -/
  | mma (sel : BitVec 3) (f : SFields)
  /-- MMA_Z (R155). Matrix multiply starting each written tile row from zero. -/
  | mmaZ (sel : BitVec 3) (f : SFields)
  /-- MTILE (R165). Hands a whole tile product to the sequencer, blocking the crew. -/
  | mtile (sel : BitVec 3) (f : SFields)
  /-- MTILE_Z (R165). Tile sequencer product starting from zero. -/
  | mtileZ (sel : BitVec 3) (f : SFields)
  /-- WLOAD (R153). Loads a weight image of a given format into a slot. -/
  | wload (sel : BitVec 4) (f : SFields)
  /-- WLOAD_S24 (R153). Loads a 2:4 sparse weight image into a slot. -/
  | wloadS24 (sel : BitVec 3) (f : SFields)
  /-- ACCRD (R160). Reads tile element pairs into a register pair once the rows are final. -/
  | accrd (f : SFields)
  /-- ACCWR (R161). Writes tile element pairs from a register pair. -/
  | accwr (f : SFields)
  /-- ACCZ (R162). Zeroes the tile rows of the active threads. -/
  | accz (f : SFields)
  /-- WMARK (R158). Reads a tile's row watermark. -/
  | wmark (f : SFields)
  /-- PERTURB (R167). Arms a tile with one error-injection addend. -/
  | perturb (f : SFields)
  /-- WTAB (R154). Loads the codebook tables of a slot. -/
  | wtab (f : SFields)
  /-- TOPK (R171). Selects the top K scores from scratchpad on the transform pipe. -/
  | topk (sel : BitVec 2) (f : SFields)
  /-- TOPK_M (R172). Merges two runs of scored entries and selects the top K. -/
  | topkM (sel : BitVec 2) (f : SFields)
  /-- DECODE_CB (R173). Decodes 3-bit codebook indices to BF16 pairs. -/
  | decodeCb (f : SFields)
  /-- DECODE_S24 (R173). Expands 2:4 sparse values to dense 16-bit pairs. -/
  | decodeS24 (f : SFields)
  /-- DECODE_WN (R173). Extracts unsigned n-bit fields from a bit stream. -/
  | decodeWn (sel : BitVec 3) (f : SFields)
  /-- DECODE_SWN (R173). Extracts signed n-bit fields from a bit stream. -/
  | decodeSwn (sel : BitVec 3) (f : SFields)
  /-- CPY (R229). Issues a box copy command to the core's copy engine. -/
  | cpy (sel : BitVec 6) (f : SFields)
  /-- GIVE (R278). Returns the top register blocks of the crew to the pool. -/
  | give (f : SFields)
  /-- TAKE (R279). Claims register blocks, waiting until they are granted. -/
  | take (f : SFields)
  /-- BARR (R283). Arrives at a barrier object with a membership mask and byte count. -/
  | barr (f : SFields)
  /-- BWAIT (R285). Waits until a barrier phase has completed. -/
  | bwait (f : SFields)
  /-- BWAIT_S (R286). Waits on a barrier phase or runs on speculatively. -/
  | bwaitS (f : SFields)
  /-- FETCHW (R291). Withdraws the lowest unplaced workgroup of the launch. -/
  | fetchw (f : SFields)
  /-- DQPUSH (R292). Pushes an entry at the owner end of the core's deque. -/
  | dqpush (f : SFields)
  /-- DQPOP (R292). Removes an entry at the owner end of the core's deque. -/
  | dqpop (f : SFields)
  /-- DQSTEAL (R292). Removes an entry at the steal end of another core's deque. -/
  | dqsteal (f : SFields)
  /-- YIELD (R293). Blocks the crew for up to 2^n cycles or until a workgroup event. -/
  | yield (f : SFields)
  /-- QMAP (R275). Installs a queue mapping word. -/
  | qmap (f : SFields)
  /-- QRESET (R275). Empties a queue. -/
  | qreset (f : SFields)
  /-- ARRIVE (R335). Marks a join point and records how it was reached. -/
  | arrive (f : SFields)
  /-- MERGE (R332). Pops the mask stack into MASK. -/
  | merge (f : SFields)
  /-- RET (R329). Continues at the packet named by s31. -/
  | ret (f : SFields)
  /-- EXIT (R333). Marks the active threads exited. -/
  | exit (f : SFields)
  /-- NOP (R334). Does nothing but count. -/
  | nop (f : SFields)
  /-- BKPT (R334). Halts the crew when an attached debugger has enabled breakpoint n. -/
  | bkpt (f : SFields)
  /-- REWIND (R343). Walks the crew back to a target instruction count. -/
  | rewind (f : SFields)
  /-- COMMIT (R342). Raises the commit count and frees older wake records. -/
  | commit (f : SFields)
  /-- PREFIX (R61). Sets crossbar patterns, modifiers and guard for the following word. -/
  | pfx (f : XFields)
  /-- ILLEGAL_ENCODING (R70). A crew reaches a word that is not an assigned encoding, or that holds a forbidden field value, and the word raises ILLEGAL_INSTRUCTION, ILLEGAL_OPERAND or ILLEGAL_PACKET. -/
  | illegalEncoding (w : Word)
  /-- QUEUE_GRANT (R273). A waiting queue or mailbox request is granted and its instruction proceeds. -/
  | queueGrant (c : CrewRef)
  /-- BWAIT_RETURN (R285). A blocked BWAIT finds its phase complete and returns as an acquire. -/
  | bwaitReturn (c : CrewRef)
  /-- TAKE_GRANT (R280). A waiting TAKE is granted zeroed register blocks. -/
  | takeGrant (c : CrewRef)
  /-- FETCHW_REPLY (R291). The Cox replies to FETCHW and the record is written. -/
  | fetchwReply (c : CrewRef)
  /-- YIELD_WAKE (R293). A yielding crew's time elapses or a workgroup event wakes it. -/
  | yieldWake (c : CrewRef)
  /-- TRANSFORM_REPLY (R168). The transform pipe replies and writes the pending destination registers. -/
  | transformReply (c : CrewRef)
  /-- WTAB_TRANSFER (R154). A table transfer completes once the old table's users drain. -/
  | wtabTransfer (wg : Nat)
  /-- MATRIX_ROW_FINAL (R157). A pending tile row write is applied in full, advancing the watermark. -/
  | matrixRowFinal (wg : Nat)
  /-- ACCRD_WAIT_END (R160). A waiting ACCRD finds its rows below the watermark, reads and retires. -/
  | accrdWaitEnd (c : CrewRef)
  /-- MTILE_STEP (R165). The tile sequencer applies one K-chunk step, retiring MTILE after the last. -/
  | mtileStep (wg : Nat)
  /-- COPY_WRITE (R243). The copy engine writes destination bytes in order and counts them into a barrier. -/
  | copyWrite (id : Nat)
  /-- CPYQ_ELEMENT_PUSH (R238). A queue copy pushes one element once the queue has room. -/
  | cpyqElementPush (id : Nat)
  /-- COPY_COMPLETE (R240). A copy command completes and writes its status word. -/
  | copyComplete (id : Nat)
  /-- COPY_END_EARLY (R244). A copy command ends on a fault, race, error or kill, writing status and a record. -/
  | copyEndEarly (id : Nat)
  /-- CREW_EXITED (R333). A fully exited crew enters EXITED once no register is pending. -/
  | crewExited (c : CrewRef)
  /-- NODE_START (R258). The Cox starts the next READY node in priority order. -/
  | nodeStart (node : Nat)
  /-- BULK_COPY_END (R257). A bulk-copy node's copy ends and its STATUS is written. -/
  | bulkCopyEnd (node : Nat)
  /-- WORKGROUP_PLACE (R259). The Cox places the next workgroup of a launch on a core. -/
  | workgroupPlace (node core : Nat) (spots : List Spot) (shadow : Option (Nat × List Spot))
  /-- WORKGROUP_SAVE (R316). A workgroup is pre-empted and written to its region's save area. -/
  | workgroupSave (wg addr : Nat)
  /-- WORKGROUP_RESTORE (R319). A saved workgroup is restored on a core. -/
  | workgroupRestore (wg core : Nat) (spots : List Spot)
  /-- REVERSE_STEP (R344). One reverse step of a walk undoes one instruction. -/
  | reverseStep (c : CrewRef)
  /-- LATCH_LOSS_REPLAY (R348). A read of an invalid latch walks back to its producer and re-executes. -/
  | latchLossReplay (c : CrewRef)
  /-- REGISTER_ERROR_RECOVERY (R351). An uncorrectable register word is repaired by a planned walk and re-execution. -/
  | registerErrorRecovery (c : CrewRef) (code : BitVec 7) (bad : Mask)
  /-- STATE_ERROR_KILL (R352). An uncorrectable error in on-chip state: in crew state it kills the workgroup. -/
  | stateErrorKill (at_ : UpsetAt)
  /-- SCRUB_ERROR_REPORT (R352). The background scrub reports a failing memory unit to the error log. -/
  | scrubErrorReport (addr : Nat)
  /-- TIMING_REPLAY (R355). A timing-margin detection repeats a pass at half clock. -/
  | timingReplay (core : Nat)
  /-- CORE_REMOVAL (R355). A repeated detection saves every resident workgroup and removes the core. -/
  | coreRemoval (core : Nat) (saves : List (Nat × Nat))
  /-- WATCHDOG_EXPIRED (R295). A workgroup's hang counter expires and its crews raise WATCHDOG_EXPIRED. -/
  | watchdogExpired (wg : Nat)
  /-- FAULT_QUEUE_RECHECK (R349). The device re-examines full fault-queue slots to write a waiting record. -/
  | faultQueueRecheck (region : Nat)
  /-- PC_SAMPLE (R360). Each scheduler samples one resident crew and writes a PC sample. -/
  | pcSample (core sched : Nat)
  /-- DVFS_ADJUST (R266). The power controller moves voltage and frequency between cores. -/
  | dvfsAdjust (src dst mhz : Nat)
  /-- MCR_ROUND_DELIVERY (R379). A complete multicast-reduce round is summed and delivered to every member. -/
  | mcrRoundDelivery (group off : Nat)
  /-- DOORBELL_SERVE (R376). The Cox serves a queued doorbell as an atomic step on its node. -/
  | doorbellServe
  /-- ATTESTATION_REPORT_WRITTEN (R381). The signed attestation report is written and ATTSTAT becomes 2. -/
  | attestationReportWritten
  /-- FLIT_RECEIVE (R356). A link receives a flit, correcting it or requesting replay. -/
  | flitReceive (link : Nat) (good : Bool)
  /-- LINK_RETRAIN_DOWN (R356). Too many replays make a link retrain one rate step down. -/
  | linkRetrainDown (link : Nat)
  /-- LINK_RETRAIN_UP (R356). A link that ran 2^30 cycles within the limit retrains one step up. -/
  | linkRetrainUp (link : Nat)
  /-- LINK_RETRAIN_DONE (R356). A retrain ends, writing LINK_DEGRADED or taking the link down. -/
  | linkRetrainDone (link : Nat) (ok : Bool)
  /-- REMOTE_ACCESS (R176). An access arrives over a fabric port from a remote device. -/
  | remoteAccess (addr : Nat) (a : RemoteOp)
  /-- POWER_ON_RESET (R372). Power-good or cold reset runs the boot sequence. -/
  | powerOnReset (boot : BootResult)
  /-- WARM_RESET (R373). A write of 1 to RSTCTL kills all work and repeats boot steps 4 and 5. -/
  | warmReset
  /-- COLD_RESET (R373). A write of 2 to RSTCTL makes a cold reset. -/
  | coldReset (boot : BootResult)
  /-- THERMAL_SHUTDOWN (R382). At 110 deg C the hardware removes power from the compute dies and HBM4. -/
  | thermalShutdown
  /-- POWER_ALARM_RAISE (R382). Power, temperature or FORCE raises the alarm and narrows every core. -/
  | powerAlarmRaise (watts celsius : Nat)
  /-- POWER_ALARM_CLEAR (R382). The alarm clears once power, temperature and FORCE are back in bounds. -/
  | powerAlarmClear (watts celsius : Nat)
  /-- CONTROL_NODE_READ (R374). The control node reads physical memory through its port. -/
  | controlNodeRead (addr len : Nat)
  /-- CONTROL_NODE_WRITE (R374). The control node writes physical memory through its port. -/
  | controlNodeWrite (addr : Nat) (bytes : List Byte)
  /-- MGMT_REGISTER_WRITE (R374). A write to a management register that has no behaviour of its own. -/
  | mgmtRegisterWrite (off size : Nat) (val : DWord)
  /-- DBELL (R376). A doorbell write queues a graph node address at a priority. -/
  | dbell (prio : BitVec 4) (val : DWord)
  /-- GRPINST (R378). Installs a multicast-reduce group from a descriptor. -/
  | grpinst (addr : DWord)
  /-- GRPREMOVE (R378). Removes a multicast-reduce group. -/
  | grpremove (addr : DWord)
  /-- GRPSTAT_READ (R9). Reads and clears the group install status. -/
  | grpstatRead
  /-- CTLSTAT_READ (R9). Reads and clears the result of the last CTLOP. -/
  | ctlstatRead
  /-- ATTSTAT_READ (R9). Reads and clears the attestation status. -/
  | attstatRead
  /-- ERRLOST_READ (R9). Reads and clears the count of overwritten error-log records. -/
  | errlostRead
  /-- CTLOP_RESUME (R377). The control node resumes a crew. -/
  | ctlopResume (val : DWord)
  /-- CTLOP_HALT_CREW (R377). The control node halts a crew as HALT 0. -/
  | ctlopHaltCrew (val : DWord)
  /-- CTLOP_HALT_WORKGROUP (R377). The control node halts a workgroup as HALT 1. -/
  | ctlopHaltWorkgroup (val : DWord)
  /-- CTLOP_KILL_WORKGROUP (R377). The control node kills a workgroup as HALT 2. -/
  | ctlopKillWorkgroup (val : DWord)
  /-- CTLOP_KILL_FAULT_DOMAIN (R377). The control node kills a fault domain as HALT 3. -/
  | ctlopKillFaultDomain (val : DWord)
  /-- ATTREQ (R381). Starts an attestation report at a physical address. -/
  | attreq (addr : DWord)
  /-- DEBUG_HALT_CREW (R358). The debug interface halts a crew with REASON 5. -/
  | debugHaltCrew (c : CrewRef)
  /-- DEBUG_HALT_WORKGROUP (R358). The debug interface halts a workgroup with REASON 5. -/
  | debugHaltWorkgroup (wg : Nat)
  /-- DEBUG_RESUME (R358). The debug interface resumes a crew. -/
  | debugResume (c : CrewRef)
  /-- DEBUG_STEP (R358). The debug interface resumes a crew for n instructions. -/
  | debugStep (c : CrewRef) (n : Nat)
  /-- DEBUG_STEP_END (R358). The step count is reached or a wait intervenes, and the crew halts. -/
  | debugStepEnd (c : CrewRef)
  /-- DEBUG_BACK (R358). The debug interface walks a halted crew back to a target count. -/
  | debugBack (c : CrewRef) (target : DWord)
  /-- DEBUG_READ_STATE (R358). The debug interface reads a halted crew's state. -/
  | debugReadState (c : CrewRef) (item : DebugItem)
  /-- DEBUG_WRITE_STATE (R358). The debug interface writes a halted crew's state, mailboxes or PC. -/
  | debugWriteState (c : CrewRef) (item : DebugItem) (val : DWord)
  /-- DEBUG_READ_WAKE (R358). The debug interface reads a crew's retained wake records. -/
  | debugReadWake (c : CrewRef)
  /-- DEBUG_BREAKPOINT_ON (R358). Enables breakpoint n for the attached subtree. -/
  | debugBreakpointOn (n : BitVec 5)
  /-- DEBUG_BREAKPOINT_OFF (R358). Disables breakpoint n for the attached subtree. -/
  | debugBreakpointOff (n : BitVec 5)
  /-- DEBUG_WATCHPOINT_SET (R359). Sets a watchpoint on an address range. -/
  | debugWatchpointSet (w : BitVec 2) (p : Watchpoint)
  /-- DEBUG_WATCHPOINT_CLEAR (R359). Clears a watchpoint. -/
  | debugWatchpointClear (w : BitVec 2)
  /-- DEBUG_ATTACH (R358). The debug interface attaches to a region and its subtree, which changes how BKPT and mailbox stalls behave there. -/
  | debugAttach (region : Nat)
  /-- DEBUG_DETACH (R358). The debug interface detaches from its region, so that BKPT acts as NOP and unserviceable mailbox accesses raise MAILBOX_STALL again. -/
  | debugDetach
  deriving DecidableEq, Repr

end Sys2Proof
end

