-- ==== Sys2Proof/Machine/Codes.lean ====
section
/-! DEFINITION. Names the spec gives to fields and faults, with their numbers in fault records (R71, R350). -/

namespace Sys2Proof.Machine

/-- The field a fault names (R71, Table 16). -/
inductive Field where
  | none | major | minor | subop | rnd | cls | space | width | d | a | b | imm | predicate | uni | fresh | chain
  | patA | patB | mods | guard | res
  deriving DecidableEq, Repr

/-- The code of a field in a fault record (R71). -/
def Field.num : Field → Nat
  | .none => 0 | .major => 1 | .minor => 2 | .subop => 3 | .rnd => 4 | .cls => 5 | .space => 6 | .width => 7
  | .d => 8 | .a => 9 | .b => 10 | .imm => 11 | .predicate => 12 | .uni => 13 | .fresh => 14 | .chain => 15
  | .patA => 16 | .patB => 17 | .mods => 18 | .guard => 19 | .res => 20

/-- The fault codes (R350, Table 2). -/
inductive Code where
  | trap | illegalPacket | illegalInstruction | illegalOperand | regUnallocated | matrixUnallocated | privileged
  | controlInvalid | arriveMissing | addressRange | alignment | scratchBound | pageFault | pagePermission
  | pageTableInvalid | attributeConflict | shadowAccess | publishInvalid | memoryRace | memoryUncorrectable
  | mcrDuplicate | layoutInvalid | copyOverlap | blockScaleInvalid | sparseMetadata | weightEmpty | queueUnmapped
  | queueBusy | mailboxStall | regClaimLimit | regClaimDeadlock | barrierInvalid | barrierMask | barrierBytes
  | fetchMode | dequeFull | allBlocked | watchdogExpired | maskStackOverflow | maskStackEmpty | rewindPastCommit
  | wakeFull | latchLost | trapState | targetAbsent | targetDenied | targetState | regionInvalid | launchInvalid
  | launchUnplaceable | graphInvalid | workgroupKilled | registerUncorrectable | stateUncorrectable
  | redundantMismatch | linkDegraded | linkDown
  deriving DecidableEq, Repr

/-- The number of a fault code (R350). -/
def Code.num : Code → Nat
  | .trap => 0x01 | .illegalPacket => 0x10 | .illegalInstruction => 0x11 | .illegalOperand => 0x12
  | .regUnallocated => 0x13 | .matrixUnallocated => 0x14 | .privileged => 0x15 | .controlInvalid => 0x16
  | .arriveMissing => 0x17 | .addressRange => 0x20 | .alignment => 0x21 | .scratchBound => 0x22 | .pageFault => 0x23
  | .pagePermission => 0x24 | .pageTableInvalid => 0x25 | .attributeConflict => 0x26 | .shadowAccess => 0x27
  | .publishInvalid => 0x28 | .memoryRace => 0x29 | .memoryUncorrectable => 0x2A | .mcrDuplicate => 0x2B
  | .layoutInvalid => 0x2C | .copyOverlap => 0x2D | .blockScaleInvalid => 0x30 | .sparseMetadata => 0x31
  | .weightEmpty => 0x32 | .queueUnmapped => 0x40 | .queueBusy => 0x41 | .mailboxStall => 0x42
  | .regClaimLimit => 0x43 | .regClaimDeadlock => 0x44 | .barrierInvalid => 0x45 | .barrierMask => 0x46
  | .barrierBytes => 0x47 | .fetchMode => 0x48 | .dequeFull => 0x49 | .allBlocked => 0x4A | .watchdogExpired => 0x4B
  | .maskStackOverflow => 0x50 | .maskStackEmpty => 0x51 | .rewindPastCommit => 0x52 | .wakeFull => 0x53
  | .latchLost => 0x54 | .trapState => 0x55 | .targetAbsent => 0x56 | .targetDenied => 0x57 | .targetState => 0x58
  | .regionInvalid => 0x60 | .launchInvalid => 0x61 | .launchUnplaceable => 0x62 | .graphInvalid => 0x63
  | .workgroupKilled => 0x64 | .registerUncorrectable => 0x70 | .stateUncorrectable => 0x71
  | .redundantMismatch => 0x72 | .linkDegraded => 0x73 | .linkDown => 0x74

/-- Every fault code: a code not listed is never written (R350). -/
def Code.listed : List Code :=
  [.trap, .illegalPacket, .illegalInstruction, .illegalOperand, .regUnallocated, .matrixUnallocated, .privileged,
    .controlInvalid, .arriveMissing, .addressRange, .alignment, .scratchBound, .pageFault, .pagePermission] ++
  [.pageTableInvalid, .attributeConflict, .shadowAccess, .publishInvalid, .memoryRace, .memoryUncorrectable,
    .mcrDuplicate, .layoutInvalid, .copyOverlap, .blockScaleInvalid, .sparseMetadata, .weightEmpty, .queueUnmapped] ++
  [.queueBusy, .mailboxStall, .regClaimLimit, .regClaimDeadlock, .barrierInvalid, .barrierMask, .barrierBytes,
    .fetchMode, .dequeFull, .allBlocked, .watchdogExpired, .maskStackOverflow, .maskStackEmpty, .rewindPastCommit] ++
  [.wakeFull, .latchLost, .trapState, .targetAbsent, .targetDenied, .targetState, .regionInvalid, .launchInvalid,
    .launchUnplaceable, .graphInvalid, .workgroupKilled, .registerUncorrectable, .stateUncorrectable] ++
  [.redundantMismatch, .linkDegraded, .linkDown]

/-- The DETAIL bits that a code's records may hold (R350, Table 3): every other bit is 0. -/
def Code.detailBits : Code → Nat
  | .trap | .allBlocked | .watchdogExpired => 0x1F
  | .memoryRace => 2 ^ 128 - 1
  | .registerUncorrectable => 0xFFFFFFFF0000007F
  | .rewindPastCommit => 2 ^ 128 - 1
  | .regClaimLimit | .regClaimDeadlock => 2 ^ 49 - 1
  | .barrierBytes => 2 ^ 27 - 1 + (2 ^ 27 - 1) * 2 ^ 32
  | .workgroupKilled | .redundantMismatch => 2 ^ 64 - 1
  | .linkDegraded | .linkDown => 0xF1F
  | _ => 0

/-- What a 7-bit register field names: the namespaces of R63 on the vector side, of R29 under UNI. -/
inductive Kind where
  | v | o | q | l | m | s | zero | lane | none | bad
  deriving DecidableEq, Repr

/-- Whether an instruction reads a field, writes it, or both. -/
inductive Dir where
  | rd | wr | rw
  deriving DecidableEq, Repr

/-- What a register field must name (R64, R65): the namespaces, the number of registers, and the use. -/
structure Role where
  kinds : List Kind
  n : Nat
  dir : Dir
  deriving DecidableEq, Repr

/-- A register field of an instruction with its role. -/
structure Opnd where
  field : Field
  code : BitVec 7
  role : Role
  deriving DecidableEq, Repr

/-- How a format G instruction uses its fields (R53, R113, R119, R120, R123, R124). -/
inductive GKind where
  | arith | unary | accum | cmp | predBin | predUn | lea | add64 | swap
  deriving DecidableEq, Repr

/-- How a format F instruction uses its fields (R56). -/
inductive FKind where
  | arith | fma | cvt
  deriving DecidableEq, Repr

/-- How a format I instruction uses its fields (R57). -/
inductive IKind where
  | vec | rot | loop | scalar
  deriving DecidableEq, Repr

/-- A format M access (R58). -/
inductive MKind where
  | ld | st | xchg
  deriving DecidableEq, Repr

/-- An instruction word by its format, with what the checks of R72 need of it. -/
inductive View where
  /-- format G: the kind, whether UNI and whether prefix modifiers are admitted -/
  | fmtG (k : GKind) (uniOk modsOk : Bool) (f : GFields)
  /-- an atomic: its permitted widths in registers, compare-and-swap, scratchpad -/
  | atom (widths : List Nat) (cas scr : Bool) (f : AFields)
  | fmtF (k : FKind) (f : FFields)
  | fmtI (k : IKind) (f : IFields)
  /-- format M with the access size in bytes -/
  | fmtM (k : MKind) (size : Nat) (f : MFields)
  /-- format B; true for BRP -/
  | fmtB (scalar : Bool) (f : BFields)
  /-- format S: roles of a and b (none: must hold none), whether imm5 is admitted, whether imm5 names a register that
  cannot be written -/
  | fmtS (ra rb : Option Role) (immOk immRO : Bool) (f : SFields)
  | fmtX (f : XFields)
  /-- no word -/
  | event
  deriving DecidableEq, Repr

end Sys2Proof.Machine
end

