-- ==== Sys2Proof/Machine/Operands.lean ====
section
/-! DEFINITION. Every operand form of the instruction words: what each register field names, which fields admit which
values, and the order in which violations are reported (R50 to R65, R70 to R72). -/

namespace Sys2Proof.Machine

/-- What a code point names on the vector side (R63). -/
def vecKind (c : BitVec 7) : Kind :=
  let n := c.toNat
  if n < 96 then .v else if n < 104 then .o else if n < 112 then .q else if n < 116 then .l
  else if n < 120 then .m else if n = 120 then .zero else if n = 121 then .lane else if n = 127 then .none else .bad

/-- What a code point names under UNI (R29, Table 5). -/
def uniKind (c : BitVec 7) : Kind :=
  let n := c.toNat
  if n < 32 then .s else if n < 116 then .bad else if n < 120 then .m else if n = 120 then .zero
  else if n = 127 then .none else .bad

/-- What a code point names, by side. -/
def kindOf (uni : Bool) (c : BitVec 7) : Kind := if uni then uniKind c else vecKind c

/-- A source of formats G and F (R64): q pops, l, m, zero and lane read. -/
def anySrc : Role := ⟨[.v, .o, .q, .l, .m, .s, .zero, .lane], 1, .rd⟩
/-- A destination of formats G and F (R64): q pushes, l shifts (R26), zero discards. -/
def anyDst : Role := ⟨[.v, .o, .q, .l, .m, .s, .zero], 1, .wr⟩
/-- A destination that is read (R113). -/
def readDst : Role := ⟨[.v, .o, .s], 1, .rw⟩
/-- A vector register whose new value an engine writes later (R228). -/
def vecReg : Role := ⟨[.v, .o], 1, .wr⟩
/-- An aligned group of v or o registers (R65). -/
def vecGroup (n : Nat) (d : Dir) : Role := ⟨[.v, .o], n, d⟩
/-- A source pair of v or o registers. -/
def vecPairSrc : Role := vecGroup 2 .rd
/-- A pair of v, o or s registers (R119). -/
def anyPair (d : Dir) : Role := ⟨[.v, .o, .s], 2, d⟩
/-- A scratchpad address or other per-thread source without pops and mailboxes (R64, R151). -/
def threadAddr : Role := ⟨[.v, .o, .l, .zero, .lane], 1, .rd⟩
/-- The register MFS of TAGS inspects (R143). -/
def tagSrc : Role := threadAddr
/-- A source read from the leader (R141, R144, R151, R228, R269). -/
def leadSrc : Role := ⟨[.v, .o, .l, .m, .zero], 1, .rd⟩
/-- The operand of REWIND (R327). -/
def rewindSrc : Role := ⟨[.v, .o, .zero], 2, .rd⟩
/-- The operand of COMMIT (R327). -/
def commitSrc : Role := ⟨[.v, .o, .zero, .none], 2, .rd⟩

/-- 64-bit special registers: IC, WAKEP, CYC (R142). -/
def specialWide (imm : BitVec 5) : Bool := imm == 0 || imm == 5 || imm == 7
/-- The destination of MFS (R142). -/
def specialDst (imm : BitVec 5) : Role :=
  if specialWide imm then vecGroup 2 .wr else ⟨[.v, .o, .m, .zero], 1, .wr⟩
/-- 64-bit system registers: TVEC, TPC, TADDR, TPCX, TIC, TNODE (R305). -/
def sysWide (imm : BitVec 5) : Bool :=
  imm == 0 || imm == 1 || imm == 3 || imm == 9 || imm == 10 || imm == 11
/-- The destination of MFSR (R302). -/
def sysDst (imm : BitVec 5) : Role := vecGroup (if sysWide imm then 2 else 1) .wr
/-- The source of MTSR (R302). -/
def sysSrc (imm : BitVec 5) : Role := if sysWide imm then vecPairSrc else leadSrc
/-- System registers MTSR may not write (R305). -/
def sysReadOnly (imm : BitVec 5) : Bool := !(imm == 0 || imm == 1 || imm == 4 || imm == 9)
/-- imm5 of WLOAD (R151): bit 4 zero; the N code only with weight formats 12 to 14. -/
def wloadImmOk (fmt : BitVec 4) (imm : BitVec 5) : Bool :=
  if fmt == 12 || fmt == 13 || fmt == 14 then imm.toNat < 16 else imm.toNat < 4

/-- The format, kind and fields of each instruction word. -/
def view : Instr → View
  | .iadd f => .fmtG .arith true false f
  | .isub f => .fmtG .arith true false f
  | .imul f => .fmtG .arith true false f
  | .imulh f => .fmtG .arith true false f
  | .imulhu f => .fmtG .arith true false f
  | .imad f => .fmtG .accum true false f
  | .imin f => .fmtG .arith true false f
  | .imax f => .fmtG .arith true false f
  | .umin f => .fmtG .arith true false f
  | .umax f => .fmtG .arith true false f
  | .iabs f => .fmtG .unary true false f
  | .ineg f => .fmtG .unary true false f
  | .and f => .fmtG .arith true false f
  | .or f => .fmtG .arith true false f
  | .xor f => .fmtG .arith true false f
  | .andn f => .fmtG .arith true false f
  | .shl f => .fmtG .arith true false f
  | .shr f => .fmtG .arith true false f
  | .sar f => .fmtG .arith true false f
  | .rot f => .fmtG .arith true false f
  | .bfe f => .fmtG .arith true false f
  | .bfi f => .fmtG .accum true false f
  | .popc f => .fmtG .unary true false f
  | .clz f => .fmtG .unary true false f
  | .brev f => .fmtG .unary true false f
  | .mov f => .fmtG .unary true false f
  | .lea f => .fmtG .lea true false f
  | .leau f => .fmtG .lea true false f
  | .swap f => .fmtG .swap true false f
  | .not f => .fmtG .unary true false f
  | .add64 f => .fmtG .add64 true false f
  | .icmpEq f => .fmtG .cmp true false f
  | .icmpNe f => .fmtG .cmp true false f
  | .icmpLt f => .fmtG .cmp true false f
  | .icmpLe f => .fmtG .cmp true false f
  | .icmpUlt f => .fmtG .cmp true false f
  | .icmpUle f => .fmtG .cmp true false f
  | .itest f => .fmtG .cmp true false f
  | .pand f => .fmtG .predBin true false f
  | .por f => .fmtG .predBin true false f
  | .pxor f => .fmtG .predBin true false f
  | .pnot f => .fmtG .predUn true false f
  | .fcmpEq f => .fmtG .cmp false true f
  | .fcmpLt f => .fmtG .cmp false true f
  | .fcmpLe f => .fmtG .cmp false true f
  | .fcmpUn f => .fmtG .cmp false true f
  | .fadd f => .fmtF .arith f
  | .fsub f => .fmtF .arith f
  | .fmul f => .fmtF .arith f
  | .ffma f => .fmtF .fma f
  | .fmin f => .fmtG .arith false true f
  | .fmax f => .fmtG .arith false true f
  | .fabs f => .fmtG .unary false true f
  | .fneg f => .fmtG .unary false true f
  | .hadd2 f => .fmtF .arith f
  | .hfma2 f => .fmtF .fma f
  | .badd2 f => .fmtF .arith f
  | .bfma2 f => .fmtF .fma f
  | .rcp f => .fmtG .unary false false f
  | .rsq f => .fmtG .unary false false f
  | .sqrt f => .fmtG .unary false false f
  | .ex2 f => .fmtG .unary false false f
  | .lg2 f => .fmtG .unary false false f
  | .sin f => .fmtG .unary false false f
  | .cos f => .fmtG .unary false false f
  | .tanh f => .fmtG .unary false false f
  | .cvt f => .fmtF .cvt f
  | .pack f => .fmtG .accum false false f
  | .unpk f => .fmtG .arith false false f
  | .scal f => .fmtG .arith false false f
  | .dot2 f => .fmtG .accum false false f
  | .dot4 f => .fmtG .accum false false f
  | .dot8 f => .fmtG .accum false false f
  | .dot4f f => .fmtG .accum false false f
  | .shfl f => .fmtG .arith false false f
  | .vote f => .fmtG .arith false false f
  | .matchAny f => .fmtG .arith false false f
  | .rand f => .fmtG .arith false false f
  | .redlAdd f => .fmtG .arith false false f
  | .redlFadd f => .fmtG .arith false false f
  | .scanlAdd f => .fmtG .arith false false f
  | .scanlFadd f => .fmtG .arith false false f
  | .redlMin f => .fmtG .arith false false f
  | .redlMax f => .fmtG .arith false false f
  | .scanlMin f => .fmtG .arith false false f
  | .scanlMax f => .fmtG .arith false false f
  | .iaddi f => .fmtI .vec f
  | .imuli f => .fmtI .vec f
  | .movil f => .fmtI .vec f
  | .movih f => .fmtI .vec f
  | .andi f => .fmtI .vec f
  | .ori f => .fmtI .vec f
  | .xori f => .fmtI .vec f
  | .roti f => .fmtI .rot f
  | .loop f => .fmtI .loop f
  | .smovil f => .fmtI .scalar f
  | .smovih f => .fmtI .scalar f
  | .saddi f => .fmtI .scalar f
  | .ld8 f => .fmtM .ld 1 f
  | .ld16 f => .fmtM .ld 2 f
  | .ld32 f => .fmtM .ld 4 f
  | .ld64 f => .fmtM .ld 8 f
  | .ld128 f => .fmtM .ld 16 f
  | .st8 f => .fmtM .st 1 f
  | .st16 f => .fmtM .st 2 f
  | .st32 f => .fmtM .st 4 f
  | .st64 f => .fmtM .st 8 f
  | .st128 f => .fmtM .st 16 f
  | .xchg f => .fmtM .xchg 4 f
  | .atomAdd f => .atom [1, 2] false false f
  | .atomFadd f => .atom [1] false false f
  | .atomAnd f => .atom [1, 2] false false f
  | .atomOr f => .atom [1, 2] false false f
  | .atomXor f => .atom [1, 2] false false f
  | .atomImin f => .atom [1, 2] false false f
  | .atomImax f => .atom [1, 2] false false f
  | .atomExch f => .atom [1, 2, 4] false false f
  | .atomUmin f => .atom [1, 2] false false f
  | .atomUmax f => .atom [1, 2] false false f
  | .atomCas f => .atom [1, 2] true false f
  | .atomAddScr f => .atom [1, 2] false true f
  | .atomFaddScr f => .atom [1] false true f
  | .atomAndScr f => .atom [1, 2] false true f
  | .atomOrScr f => .atom [1, 2] false true f
  | .atomXorScr f => .atom [1, 2] false true f
  | .atomIminScr f => .atom [1, 2] false true f
  | .atomImaxScr f => .atom [1, 2] false true f
  | .atomExchScr f => .atom [1, 2, 4] false true f
  | .atomUminScr f => .atom [1, 2] false true f
  | .atomUmaxScr f => .atom [1, 2] false true f
  | .atomCasScr f => .atom [1, 2] true true f
  | .bra f => .fmtB false f
  | .braAny f => .fmtB false f
  | .brp f => .fmtB true f
  | .call f => .fmtB false f
  | .divr f => .fmtB false f
  | .flip f => .fmtB false f
  | .trap f => .fmtS none none true false f
  | .rft f => .fmtS none none (f.imm == 0) false f
  | .halt f => .fmtS none none (f.imm.toNat ≤ 3) false f
  | .resume f => .fmtS none none (f.imm == 0) false f
  | .mfsr f => .fmtS (some (sysDst f.imm)) none (f.imm.toNat ≤ 11) false f
  | .mtsr f => .fmtS (some (sysSrc f.imm)) none (f.imm.toNat ≤ 11) (sysReadOnly f.imm) f
  | .tlbiPage f => .fmtS (some vecPairSrc) (some leadSrc) (f.imm == 0) false f
  | .tlbiSize f => .fmtS (some vecPairSrc) (some leadSrc) (f.imm.toNat ≤ 6) false f
  | .tlbiRegion f => .fmtS none (some leadSrc) (f.imm == 0) false f
  | .tlbiAll f => .fmtS none none (f.imm == 0) false f
  | .mfs f => .fmtS (some (specialDst f.imm)) (if f.imm == 6 then some tagSrc else none) (f.imm.toNat ≤ 11) false f
  | .mts f => .fmtS (some leadSrc) none (f.imm.toNat ≤ 11) (f.imm != 3) f
  | .seed f => .fmtS (some leadSrc) none (f.imm == 0) false f
  | .fenceAcq _ f => .fmtS none none (f.imm == 0) false f
  | .fenceRel _ f => .fmtS none none (f.imm == 0) false f
  | .fence _ f => .fmtS none none (f.imm == 0) false f
  | .publ f => .fmtS (some vecPairSrc) none (f.imm == 0) false f
  | .cpyq _ f => .fmtS (some leadSrc) (some vecReg) true false f
  | .gath _ f => .fmtS (some leadSrc) (some (vecGroup 2 .rw)) true false f
  | .mma _ f => .fmtS (some threadAddr) none true false f
  | .mmaZ _ f => .fmtS (some threadAddr) none true false f
  | .mtile _ f => .fmtS (some leadSrc) none true false f
  | .mtileZ _ f => .fmtS (some leadSrc) none true false f
  | .wload sel f => .fmtS (some leadSrc) none (wloadImmOk sel f.imm) false f
  | .wloadS24 _ f => .fmtS (some leadSrc) none (f.imm.toNat < 4) false f
  | .accrd f => .fmtS (some (vecGroup 2 .wr)) (some threadAddr) (f.imm.toNat % 4 == 0) false f
  | .accwr f => .fmtS (some vecPairSrc) (some threadAddr) (f.imm.toNat % 4 == 0) false f
  | .accz f => .fmtS none none (f.imm.toNat % 4 == 0) false f
  | .wmark f => .fmtS (some (vecGroup 1 .wr)) none (f.imm.toNat % 4 == 0) false f
  | .perturb f => .fmtS (some leadSrc) (some leadSrc) (f.imm.toNat % 4 == 0) false f
  | .wtab f => .fmtS (some leadSrc) none (f.imm.toNat < 4) false f
  | .topk _ f => .fmtS (some (vecGroup 4 .wr)) (some vecPairSrc) (f.imm == 0) false f
  | .topkM _ f => .fmtS (some (vecGroup 4 .wr)) (some vecPairSrc) (f.imm == 0) false f
  | .decodeCb f => .fmtS (some (vecGroup 1 .wr)) (some vecPairSrc) true false f
  | .decodeS24 f => .fmtS (some (vecGroup 1 .wr)) (some vecPairSrc) true false f
  | .decodeWn _ f => .fmtS (some (vecGroup 1 .wr)) (some vecPairSrc) true false f
  | .decodeSwn _ f => .fmtS (some (vecGroup 1 .wr)) (some vecPairSrc) true false f
  | .cpy _ f => .fmtS (some leadSrc) (some vecReg) true false f
  | .give f => .fmtS none none (1 ≤ f.imm.toNat ∧ f.imm.toNat ≤ 12) false f
  | .take f => .fmtS none none (1 ≤ f.imm.toNat ∧ f.imm.toNat ≤ 12) false f
  | .barr f => .fmtS (some leadSrc) (some vecPairSrc) (f.imm == 0) false f
  | .bwait f => .fmtS (some leadSrc) (some leadSrc) (f.imm == 0) false f
  | .bwaitS f => .fmtS (some leadSrc) (some leadSrc) (f.imm == 0) false f
  | .fetchw f => .fmtS (some leadSrc) none (f.imm == 0) false f
  | .dqpush f => .fmtS (some vecPairSrc) none (f.imm == 0) false f
  | .dqpop f => .fmtS (some (vecGroup 2 .wr)) none (f.imm == 0) false f
  | .dqsteal f => .fmtS (some (vecGroup 2 .wr)) none (f.imm == 0) false f
  | .yield f => .fmtS none none true false f
  | .qmap f => .fmtS (some leadSrc) none (f.imm.toNat < 8) false f
  | .qreset f => .fmtS none none (f.imm.toNat < 8) false f
  | .arrive f => .fmtS none none (f.imm == 0) false f
  | .merge f => .fmtS none none (f.imm == 0) false f
  | .ret f => .fmtS none none (f.imm == 0) false f
  | .exit f => .fmtS none none (f.imm == 0) false f
  | .nop f => .fmtS none none (f.imm == 0) false f
  | .bkpt f => .fmtS none none true false f
  | .rewind f => .fmtS (some rewindSrc) none (f.imm == 0) false f
  | .commit f => .fmtS (some commitSrc) none (f.imm == 0) false f
  | .pfx f => .fmtX f
  | .queueGrant _ => .event
  | .bwaitReturn _ => .event
  | .takeGrant _ => .event
  | .fetchwReply _ => .event
  | .yieldWake _ => .event
  | .transformReply _ => .event
  | .wtabTransfer _ => .event
  | .matrixRowFinal _ => .event
  | .accrdWaitEnd _ => .event
  | .mtileStep _ => .event
  | .copyWrite _ => .event
  | .cpyqElementPush _ => .event
  | .copyComplete _ => .event
  | .copyEndEarly _ => .event
  | .crewExited _ => .event
  | .nodeStart _ => .event
  | .bulkCopyEnd _ => .event
  | .workgroupPlace _ _ _ _ => .event
  | .workgroupSave _ _ => .event
  | .workgroupRestore _ _ _ => .event
  | .reverseStep _ => .event
  | .latchLossReplay _ => .event
  | .registerErrorRecovery _ _ _ => .event
  | .stateErrorKill _ => .event
  | .scrubErrorReport _ => .event
  | .timingReplay _ => .event
  | .coreRemoval _ _ => .event
  | .watchdogExpired _ => .event
  | .faultQueueRecheck _ => .event
  | .pcSample _ _ => .event
  | .dvfsAdjust _ _ _ => .event
  | .mcrRoundDelivery _ _ => .event
  | .flitReceive _ _ => .event
  | .linkRetrainDown _ => .event
  | .linkRetrainUp _ => .event
  | .linkRetrainDone _ _ => .event
  | .remoteAccess _ _ => .event
  | .powerOnReset _ => .event
  | .warmReset => .event
  | .coldReset _ => .event
  | .thermalShutdown => .event
  | .powerAlarmRaise _ _ => .event
  | .powerAlarmClear _ _ => .event
  | .controlNodeRead _ _ => .event
  | .controlNodeWrite _ _ => .event
  | .mgmtRegisterWrite _ _ _ => .event
  | .dbell _ _ => .event
  | .doorbellServe => .event
  | .grpinst _ => .event
  | .grpremove _ => .event
  | .grpstatRead => .event
  | .ctlstatRead => .event
  | .attstatRead => .event
  | .errlostRead => .event
  | .ctlopResume _ => .event
  | .ctlopHaltCrew _ => .event
  | .ctlopHaltWorkgroup _ => .event
  | .ctlopKillWorkgroup _ => .event
  | .ctlopKillFaultDomain _ => .event
  | .attreq _ => .event
  | .attestationReportWritten => .event
  | .debugHaltCrew _ => .event
  | .debugHaltWorkgroup _ => .event
  | .debugResume _ => .event
  | .debugStep _ _ => .event
  | .debugStepEnd _ => .event
  | .debugBack _ _ => .event
  | .debugReadState _ _ => .event
  | .debugWriteState _ _ _ => .event
  | .debugReadWake _ => .event
  | .debugBreakpointOn _ => .event
  | .debugBreakpointOff _ => .event
  | .debugWatchpointSet _ _ => .event
  | .debugWatchpointClear _ => .event
  | .illegalEncoding _ => .event
  | .debugAttach _ => .event
  | .debugDetach => .event

/-- Whether the word executes on the scalar side (R54, R122). -/
def View.uni : View → Bool
  | .fmtG _ _ _ f => f.uni
  | .fmtI .scalar _ => true
  | .fmtI .loop _ => true
  | _ => false

/-- Whether a format G or F word is in the update form, b holding none (R53). -/
def View.update : View → Bool
  | .fmtG k _ _ f => f.b == 127 && !(k == .unary || k == .predUn || k == .accum || k == .cmp || k == .swap)
  | .fmtF .arith f => f.b == 127
  | _ => false

/-- The accepted namespaces of the data register of a load (R64, R206). -/
def loadDst (size : Nat) : Role :=
  if size ≤ 2 then ⟨[.v, .o, .zero], 1, .wr⟩
  else if size = 4 then ⟨[.v, .o, .q, .m, .zero], 1, .wr⟩
  else ⟨[.v, .o, .zero], size / 4, .wr⟩

/-- The accepted namespaces of the data register of a store (R64, R206). -/
def storeSrc (size : Nat) : Role :=
  if size ≤ 2 then ⟨[.v, .o, .l, .zero, .lane], 1, .rd⟩
  else if size = 4 then anySrc
  else ⟨[.v, .o, .zero], size / 4, .rd⟩

/-- The width of an atomic in registers, 0 for the reserved width (R53). -/
def atomRegs (w : BitVec 2) : Nat := if w == 0 then 1 else if w == 1 then 2 else if w == 2 then 4 else 0

/-- The register fields of a word in the order d, a, b, with their roles; predicate fields, the conversion code of CVT
and fields that must hold none are not among them (R53 to R65 and the operand tables of the chapters). DESIGN CHOICE (log
33): an operand b of a 64- or 128-bit atomic that is zero, a latch, a mailbox or lane raises ILLEGAL_OPERAND; R64 accepts
these for a source, R211 asks for a pair or a quad. -/
def View.operands : View → List Opnd
  | .fmtG k _ _ f =>
    let upd := f.b == 127
    match k with
    | .arith =>
      if upd then [⟨.d, f.d, readDst⟩, ⟨.a, f.a, anySrc⟩]
      else [⟨.d, f.d, anyDst⟩, ⟨.a, f.a, anySrc⟩, ⟨.b, f.b, anySrc⟩]
    | .unary => [⟨.d, f.d, anyDst⟩, ⟨.a, f.a, anySrc⟩]
    | .accum => [⟨.d, f.d, readDst⟩, ⟨.a, f.a, anySrc⟩, ⟨.b, f.b, anySrc⟩]
    | .cmp => [⟨.a, f.a, anySrc⟩, ⟨.b, f.b, anySrc⟩]
    | .predBin | .predUn => []
    | .lea =>
      if upd then [⟨.d, f.d, anyPair .rw⟩, ⟨.a, f.a, anySrc⟩]
      else [⟨.d, f.d, anyPair .wr⟩, ⟨.a, f.a, anyPair .rd⟩, ⟨.b, f.b, anySrc⟩]
    | .add64 =>
      if upd then [⟨.d, f.d, anyPair .rw⟩, ⟨.a, f.a, anyPair .rd⟩]
      else [⟨.d, f.d, anyPair .wr⟩, ⟨.a, f.a, anyPair .rd⟩, ⟨.b, f.b, anyPair .rd⟩]
    | .swap => [⟨.d, f.d, readDst⟩, ⟨.a, f.a, readDst⟩]
  | .atom _ cas scr f =>
    let n := atomRegs f.w
    let nb := if cas then 2 * n else n
    let d : List Opnd := if f.d == 120 || f.d == 127 then [] else [⟨.d, f.d, vecGroup n .wr⟩]
    let b : Opnd := ⟨.b, f.b, if nb = 1 then anySrc else vecGroup nb .rd⟩
    d ++ [⟨.a, f.a, if scr then threadAddr else vecPairSrc⟩, b]
  | .fmtF k f =>
    match k with
    | .arith =>
      if f.b == 127 then [⟨.d, f.d, readDst⟩, ⟨.a, f.a, anySrc⟩]
      else [⟨.d, f.d, anyDst⟩, ⟨.a, f.a, anySrc⟩, ⟨.b, f.b, anySrc⟩]
    | .fma => [⟨.d, f.d, readDst⟩, ⟨.a, f.a, anySrc⟩, ⟨.b, f.b, anySrc⟩]
    | .cvt => [⟨.d, f.d, anyDst⟩, ⟨.a, f.a, anySrc⟩]
  | .fmtI k f => if k == .loop || k == .scalar then [⟨.d, f.d, ⟨[.s], 1, .rw⟩⟩] else [⟨.d, f.d, readDst⟩]
  | .fmtM k size f =>
    let d : Opnd := ⟨.d, f.d, match k with
      | .ld => loadDst size
      | .st => storeSrc size
      | .xchg => readDst⟩
    [d, ⟨.a, f.a, if f.sp == 1 then threadAddr else vecPairSrc⟩]
  | .fmtS ra rb _ _ f =>
    (match ra with | some r => [⟨.a, f.a, r⟩] | none => []) ++ (match rb with | some r => [⟨.b, f.b, r⟩] | none => [])
  | .fmtB .. | .fmtX .. | .event => []

/-- Whether a register field holds a code point its role accepts (R29, R64, R65). -/
def Opnd.ok (uni : Bool) (o : Opnd) : Bool :=
  let k := kindOf uni o.code
  o.role.kinds.contains k && (if k == .v || k == .o || k == .s then o.code.toNat % o.role.n == 0 else true)

/-- An assigned conversion code of CVT (R105, Table 8). -/
def cvtCodeOk (b : BitVec 7) : Bool :=
  let n := b.toNat
  n ≤ 0x0C || (0x11 ≤ n && n ≤ 0x1C) || n == 0x20 || n == 0x21

/-- Whether F=1 is legal: the assign form with d naming a v, o or s register (R55, R113). -/
def freshOk (uni : Bool) (d : BitVec 7) : Bool :=
  let k := kindOf uni d
  k == .v || k == .o || k == .s

/-- Whether a non-identity pattern is admitted on a, then on b: the field is a vector register source (R40, R62, R120,
R211). -/
def View.patternsOk : View → Bool × Bool
  | .fmtG k _ _ f =>
    if f.uni then (false, false) else
    match k with
    | .predBin | .predUn | .swap => (false, false)
    | .unary => (f.a != 127, false)
    | _ => (f.a != 127, f.b != 127)
  | .atom _ _ scr f => (scr && f.a != 127, f.b != 127)
  | .fmtF k f => (f.a != 127, k != .cvt && f.b != 127)
  | _ => (false, false)

/-- Whether nonzero modifiers are admitted on a, then on b (R62, R113, R131). -/
def View.modsOk : View → Bool × Bool
  | .fmtG k _ m f => (m, m && k != .unary && f.b != 127)
  | .fmtF k f => (k != .cvt || f.b.toNat ≤ 0x0C, k != .cvt && f.b != 127)
  | _ => (false, false)

/-- Whether a guard is admitted (R62). -/
def View.guardOk : View → Bool
  | .fmtG _ _ _ f => !f.uni
  | .atom .. | .fmtF .. | .fmtM .. => true
  | .fmtI k _ => k == .vec || k == .rot
  | _ => false

/-- A legal pattern field on its own (R38, R40): a mirror needs k from 1 to 5. -/
def patternOk (p : BitVec 7) : Bool :=
  if p.extractLsb' 5 2 == 3 then 1 ≤ (p.extractLsb' 0 5).toNat && (p.extractLsb' 0 5).toNat ≤ 5 else true

/-- The tests of step 2 of R72 on the word itself: each field with whether its value is forbidden. -/
def View.badFields : View → List (Field × Bool)
  | .fmtG k uniOk _ f =>
    [(.b, (k == .unary || k == .predUn || k == .swap) && f.b != 127),
     (.uni, f.uni && !uniOk),
     (.fresh, f.f && (match k with
        | .unary => !freshOk f.uni f.d
        | .arith | .lea | .add64 => f.b == 127 || !freshOk f.uni f.d
        | _ => true))]
  | .atom widths _ _ f => [(.width, !widths.contains (atomRegs f.w))]
  | .fmtF k f =>
    [(.rnd, f.rnd == 7), (.b, k == .cvt && !cvtCodeOk f.b),
     (.fresh, f.f && (match k with
        | .arith => f.b == 127 || !freshOk false f.d
        | .fma => true
        | .cvt => !freshOk false f.d))]
  | .fmtI k f => [(.imm, k == .rot && 32 ≤ f.imm.toNat)]
  | .fmtM k size f =>
    [(.cls, f.cls == 3 || (k == .xchg && f.cls == 0)),
     (.space, f.sp == 3 || (f.sp == 2 && !(k == .st && 4 ≤ size)))]
  | .fmtS ra rb immOk _ f =>
    [(.a, ra.isNone && f.a != 127), (.b, rb.isNone && f.b != 127), (.imm, !immOk)]
  | .fmtB .. | .fmtX .. | .event => []

/-- The tests of step 2 of R72 on the prefix of a word. -/
def prefixBad (w : View) (x : XFields) : List (Field × Bool) :=
  [(.patA, !patternOk x.patA || (x.patA != 0 && !w.patternsOk.1)),
   (.patB, !patternOk x.patB || (x.patB != 0 && !w.patternsOk.2)),
   (.mods, (x.mods.extractLsb' 2 2 != 0 && !w.modsOk.1) || (x.mods.extractLsb' 0 2 != 0 && !w.modsOk.2)),
   (.guard, x.guard == 15 || (x.guard != 7 && !w.guardOk)),
   (.res, x.res != 0)]

/-- The first field, in ascending code, whose value raises ILLEGAL_INSTRUCTION (R72, step 2). -/
def illegalField (w : View) (p : Option XFields) : Option Field :=
  ((w.badFields ++ (match p with | some x => prefixBad w x | none => [])).find? (·.2)).map (·.1)

/-- The predicate fields of a word: field, index, scalar side (R59, R64, R123, R124). -/
def View.predFields : View → List (Field × BitVec 7 × Bool)
  | .fmtG .cmp _ _ f => [(.d, f.d, f.uni)]
  | .fmtG .predBin _ _ f => [(.d, f.d, f.uni), (.a, f.a, f.uni)] ++ (if f.b == 127 then [] else [(.b, f.b, f.uni)])
  | .fmtG .predUn _ _ f => [(.d, f.d, f.uni), (.a, f.a, f.uni)]
  | _ => []

/-- Whether a predicate field names a predicate of its side (R64). -/
def predOk (p : Field × BitVec 7 × Bool) : Bool := p.2.1.toNat < (if p.2.2 then 4 else 8)

/-- The first operand, in the order of step 3 of R72, that raises ILLEGAL_OPERAND. -/
def illegalOperand (w : View) : Option Field :=
  let bad := ((w.predFields.filter (fun p => !predOk p)).map (·.1)) ++
    ((w.operands.filter (fun o => !o.ok w.uni)).map (·.field))
  let pick (x : Field) := if bad.contains x then some x else none
  match pick .d, pick .a, pick .b with
  | some x, _, _ => some x
  | _, some x, _ => some x
  | _, _, some x => some x
  | _, _, _ => match w with
    | .fmtB true f => if 4 ≤ f.p.toNat then some .predicate else none
    | .fmtS _ _ _ ro _ => if ro then some .imm else none
    | _ => none

/-- Steps 2 and 3 of R72 together: the fault and field that the encoding alone gives. -/
def legality (i : Instr) (p : Option XFields) : Option (Code × Field) :=
  match illegalField (view i) p with
  | some x => some (.illegalInstruction, x)
  | none => (illegalOperand (view i)).map fun x => (.illegalOperand, x)

/-- The main registers a word names, as source or destination (R22). -/
def View.mainRegs (w : View) : List Nat :=
  (w.operands.filter fun o => !w.uni && vecKind o.code == .v).flatMap fun o =>
    (List.range o.role.n).map (o.code.toNat + ·)

/-- The v and o code points a word names (R168, R229). -/
def View.vecRegs (w : View) : List Nat :=
  (w.operands.filter fun o => !w.uni && (vecKind o.code == .v || vecKind o.code == .o)).flatMap fun o =>
    (List.range o.role.n).map (o.code.toNat + ·)

/-- The queues a word pops, in field order a then b, and pushes (R28): a store's d is a source. -/
def View.pops (w : View) : List Nat :=
  if w.uni then [] else
  (w.operands.filter fun o => vecKind o.code == .q && o.role.dir == .rd).map fun o => o.code.toNat - 104

/-- The queues a word pushes. -/
def View.pushes (w : View) : List Nat :=
  if w.uni then [] else
  (w.operands.filter fun o => vecKind o.code == .q && o.role.dir == .wr).map fun o => o.code.toNat - 104

/-- The mailboxes a word reads (R30). -/
def View.mboxReads (w : View) : List Nat :=
  (w.operands.filter fun o => kindOf w.uni o.code == .m && o.role.dir == .rd).map fun o => o.code.toNat - 116

/-- The mailboxes a word writes. -/
def View.mboxWrites (w : View) : List Nat :=
  (w.operands.filter fun o => kindOf w.uni o.code == .m && o.role.dir == .wr).map fun o => o.code.toNat - 116

/-- Whether a word names a queue register or a mailbox (R111, R273). -/
def View.namesQM (w : View) : Bool :=
  !(w.pops.isEmpty && w.pushes.isEmpty && w.mboxReads.isEmpty && w.mboxWrites.isEmpty)

/-- The latches a word reads (R25, R348). -/
def View.latchReads (w : View) : List Nat :=
  if w.uni then [] else
  (w.operands.filter fun o => vecKind o.code == .l && o.role.dir == .rd).map fun o => o.code.toNat - 112

/-- Whether a word shifts the latches when it retires (R25): a vector result of the ALU or SFU pipe whose destination is
not zero, a predicate or a mailbox. -/
def View.shifts : View → Bool
  | .fmtG k _ _ f => !f.uni && !(k == .cmp || k == .predBin || k == .predUn) && vecKind f.d != .zero && vecKind f.d != .m
  | .fmtF _ f => vecKind f.d != .zero && vecKind f.d != .m
  | .fmtI k _ => k == .vec || k == .rot
  | _ => false

/-- The control transfers (R49): every format B word and the listed others. -/
def isTransfer : Instr → Bool
  | .bra _ | .braAny _ | .brp _ | .call _ | .divr _ | .flip _ | .loop _ | .ret _ | .exit _ | .bkpt _ | .rewind _
  | .trap _ | .rft _ => true
  | _ => false

/-- The chain bit of a word (R47, R52). -/
def View.chain : View → Bool
  | .fmtG _ _ _ f => f.c
  | .atom _ _ _ f => f.c
  | .fmtF _ f => f.c
  | .fmtI _ f => f.c
  | .fmtM _ _ f => f.c
  | .fmtB _ f => f.c
  | .fmtS _ _ _ _ f => f.c
  | .fmtX f => f.c
  | .event => false

/-- The tile and the slot a matrix word names, for MATRIX_UNALLOCATED (R32, R151). -/
def matrixNames : Instr → Option Nat × Option Nat
  | .mma _ f | .mmaZ _ f | .mtile _ f | .mtileZ _ f => (some (f.imm.toNat / 4), some (f.imm.toNat % 4))
  | .wload _ f | .wloadS24 _ f | .wtab f => (none, some (f.imm.toNat % 4))
  | .accrd f | .accwr f | .accz f | .wmark f | .perturb f => (some (f.imm.toNat / 4), none)
  | _ => (none, none)

/-- Whether a word is a boundary for reversal whatever its operands (R336). -/
def alwaysBoundary (i : Instr) : Bool :=
  match i with
  | .fenceRel .. | .fence .. | .publ _ | .cpy .. | .cpyq .. | .gath .. | .mma .. | .mmaZ .. | .mtile .. | .mtileZ ..
  | .wload .. | .wloadS24 .. | .accrd _ | .accwr _ | .accz _ | .wmark _ | .perturb _ | .wtab _ | .give _ | .take _
  | .barr _ | .fetchw _ | .dqpush _ | .dqpop _ | .dqsteal _ | .qmap _ | .qreset _ | .trap _ | .rft _ | .halt _
  | .resume _ | .mtsr _ | .tlbiPage _ | .tlbiSize _ | .tlbiRegion _ | .tlbiAll _ | .exit _ => true
  | _ => match view i with
    | .atom .. => true
    | .fmtM k _ f => (k != .ld && f.cls == 2) || (k == .st && f.sp == 2)
    | _ => false

/-- Whether a word is a boundary instruction (R111, R336). -/
def isBoundary (i : Instr) : Bool := alwaysBoundary i || (view i).namesQM

end Sys2Proof.Machine
end

