-- ==== Sys2Proof/Config.lean ====
section
/-! DEFINITION. What an implementation fixes, and the free values: constants with no body, so no proof sees what they
are (logs 5 and 8). -/

namespace Sys2Proof

/-- Populated DDR-5 in units of 16 GiB, as the board has it (R371). -/
opaque Config.ddrUnits : Nat

/-- DDRSIZE in bytes: a multiple of 16 GiB up to 4 TiB (R371). -/
def Config.ddrSize : Nat := min Config.ddrUnits 256 * 0x400000000

/-- The four of the 68 built cores of a compute die that are not enabled, each counted among those still left (R4, log 8). -/
opaque Config.coreOff : Nat → Nat → Nat

/-- The enabled cores of compute die d by built position, ascending: 64 of the 68 (R4, Table 2; R5). -/
def Config.enabled (d : Nat) : List Nat :=
  (List.range 4).foldl (fun l i => l.eraseIdx (Config.coreOff d i % l.length)) (List.range 68)

/-- Which built cores of compute die d are enabled (R4, R374). -/
def Config.coreBits (d : Nat) : BitVec 68 := (Config.enabled d).foldl (fun b k => b ||| 1#68 <<< k) 0

/-- CORECFG of compute die d: bits 127:68 are 0 (R374). -/
def Config.coreCfg (d : Nat) : BitVec 128 := (Config.coreBits d).setWidth 128

/-- A choice the spec leaves to the device: which translation an access uses before a TLBI retires (R313), whether a
non-coherent line is stale (R199). Applied to State's counter. -/
opaque Config.freeBit : Nat → Bool

/-- Which candidate the device takes where the spec says the choice is not architectural (DQSTEAL, R292). Applied to
State's counter. -/
opaque Config.freeNat : Nat → Nat

/-- A word the spec leaves undefined. Applied to State's counter. -/
opaque Config.freeWord : Nat → Word

/-- Which words and sectors share a bit of the 4,096 of a read signature (R287): two units, each with whether it is a
scratchpad word. -/
opaque Config.sigAlias : Bool → Nat → Bool → Nat → Bool

/-- Whether a copy engine has tried a byte further on that cannot be translated by the time a command has landed so many
bytes (R239, R365): the command and the count. -/
opaque Config.readAhead : Nat → Nat → Bool

/-- How many bytes of its next unit it lands before it stops there, modulo those of the unit (R239, R365). -/
opaque Config.readAheadPart : Nat → Nat → Nat

/-- The BOOTERR codes of a boot that stops (R372, Table 2). -/
def Config.bootCodes : List Byte := [0x01, 0x02, 0x03, 0x10, 0x11]

/-- How the boot that a write of RSTCTL starts ends. Applied to State's counter. -/
opaque Config.bootChoice : Nat → Nat

/-- 0 where that boot reaches READY, else the code of Table 2 it stops with (R372, R373). -/
def Config.bootCode (n : Nat) : Byte := Config.bootCodes.getD (Config.bootChoice n % 6) 0

/-- The fabric port that contributions of a device with a given fabric number pass through (R356, R378). -/
opaque Config.route : Nat → Nat

/-- A contribution of a member on another device to a round (R197, R378): applied to State's counter. -/
opaque Config.remotePart : Nat → Word

/-- The device certificate, byte by byte (R380). -/
opaque Config.cert : Nat → Byte
/-- The device public key, x then y (R381). -/
opaque Config.pubKey : BitVec 512
/-- The device serial number (R381). -/
opaque Config.serial : BitVec 128
/-- The fused rollback floor (R372, R381). -/
opaque Config.floor : DWord
/-- By how much the running firmware's version lies above the floor. -/
opaque Config.fwAbove : DWord
/-- The running firmware's version (R381): a device that runs has refused every image below the floor (R372, step 2). -/
def Config.fwVersion : DWord := BitVec.ofNat 64 (min (Config.floor.toNat + Config.fwAbove.toNat) (2 ^ 64 - 1))
/-- SHA-256 of the running firmware image (R381). -/
opaque Config.fwHash : BitVec 256
/-- The ECDSA signature of a report under the device key; a signature may differ from one report to the next (R381). -/
opaque Config.sign : Nat → BitVec 1536 → BitVec 512
/-- Opaque bytes of save-image sections whose contents are not architectural (R317), by image and offset. -/
opaque Config.opaqueByte : Nat → Nat → Byte

end Sys2Proof
end

