-- ==== Sys2Proof/Machine/State.lean ====
section
/-! DEFINITION. The state of the machine as plain data: everything the spec gives a crew, a workgroup, a core and the
device, and the few fields of the model's own (INVENTORY.md, State). -/

namespace Sys2Proof.Machine

/-- Shape tags (R35). -/
inductive Tag where
  | U | A | G
  deriving DecidableEq, Repr

/-- A vector register: 32 thread values and the tag (R20, R35). -/
structure VReg where
  vals : List Word
  tag : Tag
  deriving DecidableEq, Repr

/-- A result latch (R25, R27). -/
structure Latch where
  vals : List Word
  tag : Tag
  valid : Bool
  deriving DecidableEq, Repr

/-- A mailbox (R30). -/
structure Mbox where
  val : Word
  full : Bool
  deriving DecidableEq, Repr

/-- A vector clock: for each party the epoch that is known to have happened before (R182). -/
abbrev Clock := List (Nat × Nat)

/-- Who made an access, as MEMORY_RACE records name it (R189). -/
inductive Who where
  | crew (region node : Nat) (wgid : Word) (wg idx : Nat)
  | copy (region node : Nat) (wgid : Word) (wg slot : Nat)
  | bulk (region : Nat)
  deriving DecidableEq, Repr

/-- Where a party stands for the scopes of R179: none of a crew, workgroup and core for one outside the package. -/
structure Place where
  party : Nat
  wg : Option Nat
  core : Option Nat
  outside : Bool
  deriving DecidableEq, Repr

/-- A release that the value of a byte carries (R180, R181): what happens before it, its scope in the order of R179,
Table 3 (0 crew to 5 system), and the party that made it. -/
structure Rel where
  clock : Clock
  scope : Nat
  place : Place
  deriving DecidableEq, Repr

/-- One access a race tag remembers (R187). -/
structure Acc where
  party : Nat
  epoch : Nat
  strong : Bool
  write : Bool
  who : Who
  deriving DecidableEq, Repr

/-- The tag of one byte (R187): accesses in tag order, and the releases that its value carries: a strong store's, and those
of the atomics after it (R181). -/
structure ByteTag where
  accs : List Acc
  rel : List Rel
  deriving DecidableEq, Repr

/-- Tags by byte address, ascending. -/
abbrev Tags := List (Nat × ByteTag)

/-- What a wake record holds (R339, Table 7). -/
inductive WakeBody where
  | reg (code : Nat) (regs : List VReg)
  | sreg (code : Nat) (vals : List Word)
  | pred (n : Nat) (bits : Mask)
  | spred (n : Nat) (bit : Bool)
  | cf (old : Word)
  | mask (old : Mask)
  /-- per thread the address and the old bytes, ascending -/
  | store (scratch : Bool) (size : Nat) (old : List (Nat × List Byte))
  | lfsr (old : Word)
  | fmode (old : Word)
  deriving DecidableEq, Repr

/-- A wake record (R339). -/
structure WakeRec where
  mask : Mask
  ic : DWord
  body : WakeBody
  /-- the model's own: a PACK that stepped the generator, which its reverse step cannot work out again (R103, log 14) -/
  stepped : Bool := false
  deriving DecidableEq, Repr

/-- Crew states (R263). -/
inductive CrewSt where
  | ready | score | blocked | stalled | parked | halted | exited
  deriving DecidableEq, Repr

/-- Halt reasons (R305, Table 3). -/
inductive Reason where
  | none | halt | fault | trap | breakpoint | debug
  deriving DecidableEq, Repr

/-- What a crew that is BLOCKED, SCORE or STALLED waits for (R263). -/
inductive Wait where
  | none
  /-- the queues its word pops and pushes -/
  | queue (pops pushes : List Nat)
  | mailbox
  | barrier (off : Nat) (phase : Nat)
  | take (n : Nat)
  | fetchw (addr : Nat)
  | yield (until_ : Nat)
  | window
  | mtile
  | accrd
  | exit
  | pendingReg
  /-- the transform pipe takes the word of another scheduler in this cycle (R51) -/
  | pipe
  | runon
  deriving DecidableEq, Repr

/-- A register value an engine writes later: a transform reply with its values, or a copy's status word (R168, R229). -/
structure Pend where
  code : Nat
  mask : Mask
  /-- some: the transform pipe's values; none: the status of copy `copy` -/
  vals : Option (List Word)
  copy : Nat
  deriving DecidableEq, Repr

/-- Why a walk runs (R343, R347). -/
inductive WalkFor where
  | rewind | debug | latch | recover
  deriving DecidableEq, Repr

/-- A walk in progress (R344): DIR is 1 while one stands here. -/
structure Walk where
  target : DWord
  why : WalkFor
  /-- latch-loss replay: latch-shifting instructions still to undo (R348) -/
  left : Nat
  /-- count to run forwards to again (R348, R351) -/
  home : DWord
  /-- registers whose check failures are ignored (R351) -/
  regs : List Nat
  /-- the registers whose failures the recovery repairs (R351) -/
  roots : List Nat
  /-- P as it stands at this point of the walk: what has still to be restored (R351) -/
  now : List Nat
  deriving DecidableEq, Repr

/-- A forward run after a walk, to the count it came from (R348, R351). -/
structure Replay where
  home : DWord
  latch : Bool
  /-- the producer was not found: raise LATCH_LOST at the reader -/
  lost : Bool
  /-- registers a recovery repairs (R351) -/
  regs : List Nat
  /-- the registers whose failures it repairs (R351) -/
  roots : List Nat
  deriving DecidableEq, Repr

/-- A store a running-on crew holds back (R288): per thread the address and bytes, ascending, and what it writes byte by
byte, by scratchpad offset or physical address. -/
structure BufStore where
  scratch : Bool
  entries : List (Nat × List Byte)
  bytes : List (Nat × Byte)
  plain : Bool
  /-- the count of the store -/
  ic : DWord
  /-- the publishes that the loads before it come after (R196) -/
  pubs : Clock
  deriving DecidableEq, Repr

/-- A byte that a running-on crew has loaded (R287): a scratchpad offset or a physical address, whether the read is one that
race tags take note of, and whether it took the crew's own buffered byte, which enters no signature (R193). -/
structure SigByte where
  scratch : Bool
  addr : Nat
  noted : Bool
  own : Bool
  deriving DecidableEq, Repr

/-- A register that a copy's status word was written to (R182, R229): the threads, what the word orders before its readers,
and the writes since over threads of it, newest first, each at a count, so that reversal brings it back. -/
structure StatReg where
  code : Nat
  mask : Mask
  clock : Clock
  lost : List (DWord × Mask)
  deriving DecidableEq, Repr

/-- A run-on (R193, R286 to R288): the barrier object and phase, the count of BWAIT.S, the buffered stores oldest first,
the bytes loaded, those of the read signature among them, and the clock of the publishes that its loads come after (R196). -/
structure RunOn where
  off : Nat
  phase : Nat
  ic : DWord
  buf : List BufStore
  sig : List SigByte
  pubs : Clock
  deriving DecidableEq, Repr

/-- A crew (R14, R41, R318). -/
structure Crew where
  wg : Nat
  idx : Nat
  sched : Nat
  slot : Nat
  st : CrewSt
  wait : Wait
  /-- when the wait began, by the machine's counter of such events (R274, R280) -/
  since : Nat
  /-- whether words of a chain under way are still to issue (R47, R264) -/
  chain : Bool
  /-- the packet fetched last: its address and bytes (R46) -/
  packet : Option (Nat × List Byte)
  /-- the queues whose elements and room a grant reserves for the instruction at PC: pops and pushes (R273) -/
  granted : Option (List Nat × List Nat)
  waitcnt : Nat
  reason : Reason
  parkpend : Bool
  norun : Bool
  pc : DWord
  ic : DWord
  pfx : Option XFields
  walk : Option Walk
  replays : List Replay
  cf : Word
  xfer : Bool
  fmode : Word
  mask : Mask
  mstack : List Mask
  exited : Mask
  v : List VReg
  o : List VReg
  l : List Latch
  m : List Mbox
  s : List Word
  p : List Mask
  sp : List Bool
  lfsr : Word
  tvec : DWord
  tpc : DWord
  tcause : Word
  taddr : DWord
  tgt : Word
  intrap : Bool
  commit : DWord
  commitAt : DWord
  /-- newest first -/
  wake : List WakeRec
  wakep : DWord
  tail : DWord
  shareBase : DWord
  shareSize : Nat
  pend : List Pend
  runon : Option RunOn
  /-- instructions until the debug interface halts the crew again (R358) -/
  steps : Option Nat
  /-- RESUME executes the BKPT at PC as NOP once (R334) -/
  bkptOnce : Bool
  /-- the hang watchdog has expired, with the crew's stall reason as it did: raised at the next instruction (R295) -/
  expired : Option Nat
  /-- register words that fail their check: code point and threads (R351) -/
  badRegs : List (Nat × Mask)
  /-- registers that a copy's status word was written to (R182) -/
  stat : List StatReg
  clock : Clock
  /-- the widest release fence executed, in the order of R179, Table 3 (R180) -/
  relScope : Nat
  /-- releases read whose scope, or the reading access's, did not cover both parties: an acquire fence may widen it (R180) -/
  pendAcq : List Rel
  /-- what happened before the last release fence of package scope or wider: what a contribution orders (R197) -/
  fenceClk : Clock
  /-- a record of this crew waits for a fault-queue slot (R349) -/
  recWait : Bool
  /-- CRC of its stores for a sampled workgroup (R357) -/
  crc : List Byte
  /-- a HALT that takes effect at the next packet boundary: its reason, none where there is none (R308) -/
  halting : Reason
  deriving DecidableEq, Repr

/-- Queue state (R271) with the clocks of its elements' pushes, oldest first (R182). -/
structure Queue where
  valid : Bool
  depth : Nat
  off : Nat
  head : Nat
  count : Nat
  clocks : List Clock
  deriving DecidableEq, Repr

/-- An accumulator tile: 2,048 element words, row by row, the armed perturbation: row, column, addend (R32, R167), and the
elements that fail their check (R352). -/
structure Tile where
  elems : List Word
  perturb : Option (Nat × Nat × Word)
  failing : List Nat
  deriving DecidableEq, Repr

/-- A weight slot (R147): format with the 2:4 flag, N, the loaded image bytes, the table, and the columns whose weights
come from a word that fails its check (R352). -/
structure WSlot where
  loaded : Bool
  fmt : Nat
  s24 : Bool
  n : Nat
  image : List Byte
  table : Option (List Byte)
  failing : List Nat
  deriving DecidableEq, Repr

/-- A pending write of the matrix unit, in matrix order (R154, R157). -/
inductive MatOp where
  /-- a table transfer -/
  | wtab (slot : Nat)
  /-- an MMA: rows still to apply with their activation bytes -/
  | mma (tile : Nat) (act : Nat) (z : Bool) (slot : WSlot) (perturb : Option (Nat × Nat × Word))
      (rows : List (Nat × List Byte))
  /-- element writes by row: column and word -/
  | accwr (tile : Nat) (rows : List (Nat × List (Nat × Word)))
  | accz (tile : Nat) (rows : List Nat)
  deriving DecidableEq, Repr

/-- An MTILE in progress (R164, R165): descriptor fields, active threads, step counter. -/
structure MTile where
  idx : Nat
  desc : Nat
  tile : Nat
  slot : Nat
  act : Nat
  z : Bool
  mask : Mask
  abase : Nat
  astride : Nat
  bbase : Nat
  klen : Nat
  wfmt : Nat
  sbase : Nat
  step : Nat
  perturb : Option (Nat × Nat × Word)
  clock : Clock
  party : Nat
  epoch : Nat
  deriving DecidableEq, Repr

/-- A phase of a barrier object (R191, R192): its number, the crews whose BARR it counts, what their releases cover, and
what the landed bytes of copies cover. -/
structure PhaseClk where
  phase : Nat
  who : List Nat
  crews : Clock
  copies : Clock
  deriving DecidableEq, Repr

/-- The clocks of a barrier object: of the current phase and of the completed ones, newest first (R191). -/
structure BarClk where
  off : Nat
  cur : PhaseClk
  done : List PhaseClk
  deriving DecidableEq, Repr

/-- A workgroup, resident or saved (R14, R259, R317). -/
structure Wg where
  uid : Nat
  launch : Nat
  node : Nat
  index : Word
  region : Nat
  /-- the core it is resident on; none while saved -/
  core : Option Nat
  seq : Nat
  ncrew : Nat
  scrgran : Nat
  acc : Nat
  wsl : Nat
  codeBase : DWord
  scr : List Host.Cell
  stags : Tags
  bars : List BarClk
  scrFailing : List Nat
  queues : List Queue
  tiles : List Tile
  slots : List WSlot
  mtags : Tags
  mops : List MatOp
  /-- the runs of its crews, oldest first (R165) -/
  mtiles : List MTile
  hang : Nat
  withdrawn : List Nat
  /-- counts held while saved: barrier offset, bytes and the round's clock, in round order (R379) -/
  held : List (Nat × Nat × Clock)
  /-- the Cox has chosen to save it: its crews stop at their next packet boundaries (R268, R316) -/
  saving : Bool
  saveAddr : Nat
  saveSeq : Nat
  /-- a shadow of this workgroup (R357) -/
  shadowOf : Option Nat
  /-- sampled by a shadow still running or ended (R357) -/
  sampled : Bool
  /-- the CRC of an ended shadow or primary (R357) -/
  sig : Option Word
  deriving DecidableEq, Repr

/-- A layout record (R231, Table 6). -/
structure Layout where
  pad : Nat
  swz : Nat
  scratch : Bool
  ndim : Nat
  fmt : Nat
  box : List Nat
  stride : List Nat
  dim : List Nat
  base : Nat
  deriving DecidableEq, Repr

/-- A command block (R230, Table 5). -/
structure Block where
  aux : Nat
  gdim : Nat
  skip : Nat
  seed : Word
  count : Bool
  sat : Bool
  baroff : Nat
  dstc : List Int
  srcc : List Int
  dstrec : Nat
  srcrec : Nat
  deriving DecidableEq, Repr

/-- What a copy command is (R228, R257). -/
inductive CopyKind where
  | cpy | cpyq | gath
  /-- a bulk-copy node at this address -/
  | bulk (node : Nat)
  deriving DecidableEq, Repr

/-- A copy command in an engine (R227 to R246). -/
structure CopyCmd where
  id : Nat
  kind : CopyKind
  core : Nat
  slot : Nat
  wg : Nat
  crew : Nat
  wgid : Word
  node : Nat
  /-- the launch it belongs to -/
  launch : Nat
  region : Nat
  trans : Nat
  rnd : Nat
  blockOff : Nat
  block : Block
  src : Layout
  dst : Layout
  idxs : List Word
  reg : Nat
  desc : Bool
  /-- bytes landed so far, positions counted from SKIP -/
  landed : Nat
  /-- old values of source bytes this command itself has overwritten (R242): none for one that failed its check (R352) -/
  kept : List (Nat × Option Byte)
  /-- what happens before all its accesses (R182) -/
  clock : Clock
  /-- its accesses so far and all that happens before them, which its status word comes after (R182) -/
  did : Clock
  /-- a status word held for a saved crew (R245) -/
  done : Option Word
  /-- a CPYQ that waits for room: when it began (R274) -/
  wait : Option Nat
  seq : Nat
  deriving DecidableEq, Repr

/-- A cached translation (R300, R312): its PTROOT, virtual base, size in bytes, and entry. -/
structure Trans where
  root : Nat
  va : Nat
  size : Nat
  entry : BitVec 128
  deriving DecidableEq, Repr

/-- Scheduler state (R264, R360): CUR, RUN, the slot sampled last. -/
structure Sched where
  cur : Option CrewRef
  run : Nat
  sampled : Nat
  deriving DecidableEq, Repr

/-- A deque of one launch on one core (R292): owner end first, with the push's clock. -/
structure Deque where
  launch : Nat
  ents : List (DWord × Clock)
  deriving DecidableEq, Repr

/-- A histogram tag register (R361). -/
structure HTag where
  line : Nat
  launch : Nat
  count : Nat
  deriving DecidableEq, Repr

/-- A core (R33, R264, R292, R361, R374). -/
structure Core where
  cyc : DWord
  scheds : List Sched
  scrstall : DWord
  recovered : DWord
  timreplay : DWord
  removed : Bool
  mhz : Nat
  /-- bytes of lines held through non-coherent-L1 mappings, with the releases their values carry (R199) -/
  ncl1 : List (Nat × Byte × List Rel)
  deques : List Deque
  htags : List HTag
  /-- by profiling channel, the L1 accesses of crews of its region (R361) -/
  l1count : List (Nat × Nat)
  /-- the model's own: the scheduler that selects next in this cycle (log 7) -/
  turn : Nat
  /-- per launch, the cycles that the core's crews have spent BLOCKED on barrier phases since clocks were last moved (R266) -/
  waits : List (Nat × Nat)
  /-- the crews that have issued in this cycle (R264) -/
  issued : List CrewRef
  /-- the pipes that hold a word of the chain the selected crew issues in this cycle (R47) -/
  pipes : List Nat
  /-- its workgroups are being saved, after which it leaves placement (R355) -/
  leaving : Bool
  /-- the scheduler that the transform pipe serves in this cycle, or served last (R51) -/
  xfm : Nat
  /-- the transform pipe takes a word of it in this cycle (R51) -/
  xfmNow : Bool
  deriving DecidableEq, Repr

/-- The effective fields of a region (R248, R249). -/
structure Eff where
  prio : Nat
  mode : Nat
  system : Bool
  ptroot : Nat
  wakeBase : Nat
  /-- KiB -/
  wakeSize : Nat
  saveBase : Nat
  /-- KiB -/
  saveSize : Nat
  faultq : Nat
  fqlen : Nat
  cores : Nat
  regblk : Nat
  scrgran : Nat
  wdog : Nat
  redun : Nat
  /-- share size in bytes (R340) -/
  share : Nat
  /-- shares of the wake area's division (R340) -/
  shares : Nat
  deriving DecidableEq, Repr

/-- A launch descriptor (R252, Table 2). -/
structure Desc where
  qmap : List Word
  sw : Word
  allin : Bool
  fmode : Nat
  scrgran : Nat
  wsl : Nat
  acc : Nat
  regblk : Nat
  ncrew : Nat
  dimx : Nat
  dimy : Nat
  dimz : Nat
  entry : Nat
  code : Nat
  deriving DecidableEq, Repr

/-- A READY or RUNNING node as the Cox holds it (R254, R255), with the code its launch runs (R73). -/
structure NodeRun where
  id : Nat
  addr : Nat
  kind : Nat
  running : Bool
  region : Nat
  arg : Nat
  subop : Nat
  succ : Nat
  nsucc : Nat
  onfail : Bool
  eff : Eff
  /-- its region and the ancestors, nearest first, with the effective values read when it became READY (R250, R251) -/
  chain : List (Nat × Eff)
  desc : Desc
  /-- lowest index neither placed nor withdrawn -/
  next : Nat
  done : Nat
  seq : Nat
  clock : Clock
  /-- what its ended crews and copies have done (R182, graph) -/
  ended : Clock
  code : List Host.Cell
  /-- FDOM of each block of the chain as read when it became READY (R250, R298) -/
  fdoms : List Bool
  hist : List Nat
  samples : Nat
  leftover : Nat
  /-- the node is FAILED, or DONE, while workgroups or shadows of it are still resident or saved (R308, R357) -/
  closed : Bool
  deriving DecidableEq, Repr

/-- A region the Cox has read since reset (R301, R313, R349). -/
structure Region where
  rcb : Nat
  parents : List Nat
  fdom : Bool
  eff : Eff
  /-- put count of its fault queue -/
  put : Nat
  lost : Nat
  /-- records of crews that wait for a slot (R349) -/
  waiting : List (List Byte × CrewRef)
  /-- its wake and save areas are recorded as protected -/
  prot : Bool
  /-- its fault domain has been killed: its waiting nodes fail when they would become READY (R298) -/
  killed : Bool
  /-- a node of it has become READY, at which the put count began (R349) -/
  begun : Bool
  deriving DecidableEq, Repr

/-- A member of a group (R378, Table 5). -/
structure Member where
  dev : Nat
  node : Nat
  wg : Word
  count : Bool
  baroff : Nat
  buf : Nat
  deriving DecidableEq, Repr

/-- An open round of one 4-byte offset: the contributions by member index, and their clock (R197). -/
structure Round where
  off : Nat
  parts : List (Nat × Word)
  clock : Clock
  deriving DecidableEq, Repr

/-- An installed multicast-reduce group (R378). -/
structure Group where
  id : Nat
  desc : Nat
  region : Nat
  handle : Nat
  wsize : Nat
  fmt : Nat
  members : List Member
  rounds : List Round
  deriving DecidableEq, Repr

/-- A profiling channel (R360). -/
structure Chan where
  ctl : DWord
  base : DWord
  next : Nat
  deriving DecidableEq, Repr

/-- The control-node port, the management registers and the board's readings (R372 to R382). -/
structure Port where
  ready : Bool
  recovery : Bool
  booterr : BitVec 8
  devnum : Word
  errBase : DWord
  errLen : Word
  errCnt : DWord
  errLost : Word
  /-- doorbells by priority, oldest first: the value, and what happened before the write (R182, R376) -/
  dbells : List (List (DWord × Clock))
  grpstat : Word
  ctlstat : Word
  pwrlim : Word
  templim : Word
  watts : Nat
  temp : Nat
  force : Bool
  nonce : BitVec 256
  /-- reports in progress, oldest first: the address and the nonce at the start (R381) -/
  att : List (Nat × BitVec 256)
  attstat : Word
  profrate : Word
  chans : List Chan
  /-- what the last read returned to the control node -/
  reply : List Byte
  clock : Clock
  deriving DecidableEq, Repr

/-- A link (R356). -/
structure Link where
  rate : Nat
  replays : Nat
  up : Bool
  training : Option Nat
  deriving DecidableEq, Repr

/-- The debug interface (R358, R359): the attached region, breakpoints, watchpoints, and what it was last told. -/
structure Debug where
  region : Option Nat
  breaks : BitVec 32
  watch : List (Option Watchpoint)
  refused : Option Code
  reply : List Byte
  deriving DecidableEq, Repr

/-- What moves next: a crew, or a step that is no word. -/
inductive Turn where
  | crew (c : CrewRef)
  | event (i : Instr)
  deriving DecidableEq, Repr

/-- The state of the machine. -/
structure State where
  /-- physical memory: bytes by ascending address, none equal to the zero an unlisted address reads as (R371, R372) -/
  mem : List Host.Cell
  /-- race tags and releases of physical bytes (R187) -/
  tags : Tags
  /-- protected units of 8 bytes whose check fails (R352) -/
  failing : List Nat
  tlb : List Trans
  /-- translations from the walk that installed them to the TLBI that removes them, whether a TLB still holds them (R200) -/
  live : List Trans
  /-- table pointers that walker caches hold: each as the range it covers and its entry (R313) -/
  walker : List Trans
  /-- bytes that a fetch of a launch that starts now would not take from memory, ascending: what it takes, and what running
  launches have written since, each launch's last value, oldest first (R73) -/
  unsettled : List (Nat × Byte × List (Nat × Byte))
  crews : List Crew
  /-- for each running-on crew, what reversal to before its BWAIT.S restores (R194; log 10) -/
  snaps : List Crew
  wgs : List Wg
  copies : List CopyCmd
  cores : List Core
  nodes : List NodeRun
  regions : List Region
  groups : List Group
  /-- what happens before every access through a published page's mapping: visible frame, shadow frame, clock (R196) -/
  pubs : List (Nat × Nat × Clock)
  /-- what happens before every access of a WAITING node: its address and the clock of its finished predecessors (R182) -/
  edges : List (Nat × Clock)
  port : Port
  links : List Link
  dbg : Debug
  /-- the power alarm, under which every core is narrowed (R163, R382) -/
  alarm : Bool
  powered : Bool
  /-- the model's own: what moves next, oldest first -/
  agenda : List Turn
  /-- the model's own: the core whose schedulers select next -/
  turn : Nat
  /-- the crew whose word runs -/
  cur : Option CrewRef
  /-- the model's own: what free values are applied to -/
  fresh : Nat
  /-- the model's own: the next identity of a party, launch or event -/
  nextId : Nat
  deriving DecidableEq, Repr

/-- Why the machine stops. -/
inductive Fault where
  /-- Raised by every step of a device without power: it does nothing until power-good (R372, R382). Safe. -/
  | noPower
  deriving DecidableEq, Repr

/-- Why a step has no meaning here. -/
inductive Refusal where
  /-- The instruction has no meaning in this model yet. Safe. -/
  | notModelled (mnemonic : String)
  /-- Raised when a word is run and no crew is READY to run it: a word acts only through a crew. Safe. -/
  | noCrew
  /-- Raised by a step that is no word when what it does cannot happen in this state; the name says which. Safe. -/
  | notEnabled (what : String)
  deriving DecidableEq, Repr

/-- 32 zero words. -/
def zeros32 : List Word := List.replicate 32 0

/-- A register of zeros, tagged U (R23). -/
def VReg.zero : VReg := ⟨zeros32, .U⟩

/-- A core at device reset (log 4). -/
def Core.zero : Core :=
  ⟨0, List.replicate 4 ⟨none, 0, 15⟩, 0, 0, 0, false, 3600, [], [], [], [], 0, [], [], [], false, 3, false⟩

/-- The port after a boot that reached READY (R372, R374). -/
def Port.zero : Port :=
  ⟨true, false, 0, 0, 0, 0, 0, 0, List.replicate 16 [], 0, 0, 2400, 95, 0, 0, false, 0, [], 0, 0,
    List.replicate 16 ⟨0, 0, 0⟩, [], []⟩

/-- The machine right after reset: the boot sequence has reached READY, memory is zero, nothing runs (R372). -/
def State.reset : State :=
  ⟨[], [], [], [], [], [], [], [], [], [], [], List.replicate 256 Core.zero, [], [], [], [], [], Port.zero,
    List.replicate 25 ⟨0, 0, true, none⟩, ⟨none, 0, List.replicate 4 none, none, []⟩, false, true, [], 0, none, 0, 1⟩

end Sys2Proof.Machine
end

