-- ==== Sys2Proof/Machine/Mem.lean ====
section
/-! DEFINITION. Memory as cells in canonical form, byte order, and the lists of crews and workgroups as finite maps. -/

namespace Sys2Proof.Machine

/-- What an address no cell lists reads as: memory is written with zero at boot (R372). -/
def unlisted : Byte := 0

/-- One byte of a memory. -/
def memByte (m : List Host.Cell) (a : Nat) : Byte := ((m.find? (·.1 == a)).map (·.2)).getD unlisted

/-- The cells of a run of bytes from an address, those equal to an unlisted byte left out. -/
def runCells (a : Nat) : List Byte → List Host.Cell
  | [] => []
  | b :: bs => if b == unlisted then runCells (a + 1) bs else (a, b) :: runCells (a + 1) bs

/-- A run of bytes written from an address upwards. -/
def memWrite (m : List Host.Cell) (a : Nat) (bs : List Byte) : List Host.Cell :=
  m.filter (fun c => c.1 < a) ++ runCells a bs ++ m.filter (fun c => a + bs.length ≤ c.1)

/-- A run of bytes read from an address upwards. -/
def memRead (m : List Host.Cell) (a : Nat) : Nat → List Byte
  | 0 => []
  | n + 1 => memByte m a :: memRead m (a + 1) n

/-- The canonical form: addresses strictly rising, no cell equal to an unlisted byte. -/
def memWf : List Host.Cell → Bool
  | [] => true
  | [c] => c.2 != unlisted
  | c :: d :: rest => c.2 != unlisted && c.1 < d.1 && memWf (d :: rest)

/-- The number whose little-endian bytes are given (R6). -/
def leNat : List Byte → Nat
  | [] => 0
  | b :: bs => b.toNat + 256 * leNat bs

/-- The first bytes of a number, little-endian (R6). -/
def leBytes (n : Nat) : Nat → List Byte
  | 0 => []
  | k + 1 => BitVec.ofNat 8 n :: leBytes (n / 256) k

/-- A little-endian number of n bytes of a memory. -/
def memNat (m : List Host.Cell) (a n : Nat) : Nat := leNat (memRead m a n)

/-- Bits hi:lo of a structure in memory, bit 0 the lowest bit of its first byte (R6). -/
def bitsOf (x hi lo : Nat) : Nat := x / 2 ^ lo % 2 ^ (hi + 1 - lo)

/-- Whether physical bytes lie in populated memory (R371); the management range never does. -/
def populated (a n : Nat) : Bool :=
  a + n ≤ 0xC000000000 || (0x100000000000 ≤ a && a + n ≤ 0x100000000000 + Config.ddrSize)

/-- Where HBM4 ends (R371). -/
def hbmEnd : Nat := 0xC000000000

/-- Whether physical bytes lie in populated memory that answers: HBM4 does not while it has no power (R382, log 22). -/
def State.present (s : State) (a n : Nat) : Bool := populated a n && (s.powered || hbmEnd ≤ a)

/-- A key's value in a finite map. -/
def mapGet {β : Type} (l : List (Nat × β)) (k : Nat) : Option β := (l.find? (·.1 == k)).map (·.2)

/-- A finite map with one key set, keys ascending. -/
def mapSet {β : Type} : List (Nat × β) → Nat → β → List (Nat × β)
  | [], k, v => [(k, v)]
  | e :: l, k, v => if e.1 < k then e :: mapSet l k v else if e.1 = k then (k, v) :: l else (k, v) :: e :: l

/-- A finite map without one key. -/
def mapDel {β : Type} (l : List (Nat × β)) (k : Nat) : List (Nat × β) := l.filter (·.1 != k)

/-- The crew a reference names. -/
def State.crew? (s : State) (r : CrewRef) : Option Crew := s.crews.find? fun c => c.wg == r.wg && c.idx == r.idx

/-- The reference of a crew. -/
def Crew.ref (c : Crew) : CrewRef := ⟨c.wg, c.idx⟩

/-- One crew replaced. -/
def State.setCrew (s : State) (c : Crew) : State :=
  { s with crews := s.crews.map fun x => if x.wg == c.wg && x.idx == c.idx then c else x }

/-- The workgroup of a number. -/
def State.wg? (s : State) (uid : Nat) : Option Wg := s.wgs.find? (·.uid == uid)

/-- One workgroup replaced. -/
def State.setWg (s : State) (w : Wg) : State :=
  { s with wgs := s.wgs.map fun x => if x.uid == w.uid then w else x }

/-- The node a launch runs. -/
def State.node? (s : State) (id : Nat) : Option NodeRun := s.nodes.find? (·.id == id)

/-- One node replaced. -/
def State.setNode (s : State) (n : NodeRun) : State :=
  { s with nodes := s.nodes.map fun x => if x.id == n.id then n else x }

/-- A region by the address of its control block. -/
def State.region? (s : State) (rcb : Nat) : Option Region := s.regions.find? (·.rcb == rcb)

/-- One region replaced. -/
def State.setRegion (s : State) (r : Region) : State :=
  { s with regions := s.regions.map fun x => if x.rcb == r.rcb then r else x }

/-- What the device keeps of a region changed. -/
def State.modRegion (s : State) (rcb : Nat) (f : Region → Region) : State :=
  { s with regions := s.regions.map fun x => if x.rcb == rcb then f x else x }

/-- A copy command by its number. -/
def State.copy? (s : State) (id : Nat) : Option CopyCmd := s.copies.find? (·.id == id)

/-- One copy command replaced. -/
def State.setCopy (s : State) (k : CopyCmd) : State :=
  { s with copies := s.copies.map fun x => if x.id == k.id then k else x }

/-- One core changed. -/
def State.modCore (s : State) (n : Nat) (f : Core → Core) : State := { s with cores := s.cores.modify n f }

/-- A core; the reset core for a number the device does not have. -/
def State.core (s : State) (n : Nat) : Core := s.cores.getD n Core.zero

/-- The crews of a workgroup, ascending. -/
def State.crewsOf (s : State) (uid : Nat) : List Crew := s.crews.filter (·.wg == uid)

/-- Every crew of a workgroup changed. -/
def State.modCrews (s : State) (uid : Nat) (f : Crew → Crew) : State :=
  { s with crews := s.crews.map fun x => if x.wg == uid then f x else x }

/-- A fresh identity. -/
def State.newId (s : State) : Nat × State := (s.nextId, { s with nextId := s.nextId + 1 })

/-- The next free choice (log 5). -/
def State.freeBit (s : State) : Bool × State := (Config.freeBit s.fresh, { s with fresh := s.fresh + 1 })

/-- The effective region values a workgroup was placed under (R250). -/
def State.effOf (s : State) (w : Wg) : Option Eff := (s.node? w.launch).map (·.eff)

/-- The region of a workgroup with the effective values it was placed under, which a later change of the block does not
touch (R250). -/
def State.regionOf (s : State) (w : Wg) : Option Region :=
  (s.region? w.region).map fun r => { r with eff := (s.effOf w).getD r.eff }

/-- The region of a node with the effective values read when it became READY (R250). -/
def State.nodeRegion (s : State) (n : NodeRun) : Option Region :=
  (s.region? n.region).map fun r => { r with eff := n.eff }

/-- Whether a workgroup runs in the subtree of a region as it stood when it was placed (R250, R306). -/
def State.wgUnder (s : State) (w : Wg) (top : Nat) : Bool :=
  w.region == top || (s.node? w.launch).any fun n => n.chain.any (·.1 == top)

/-- The region that heads the fault domain of a node, by what was read when it became READY (R250, R298). -/
def NodeRun.domain (n : NodeRun) : Nat := (((n.chain.zip n.fdoms).find? (·.2)).map (·.1.1)).getD n.region

/-! Code that running launches have written (R73) -/

/-- A byte that a running launch writes put with what is kept of the byte: of each launch its last value, oldest first. -/
def State.codeByte (s : State) (id a : Nat) (b : Byte) : State :=
  let e := (mapGet s.unsettled a).getD (memByte s.mem a, [])
  { s with unsettled := mapSet s.unsettled a (e.1, e.2.filter (·.1 != id) ++ [(id, b)]) }

/-- A run of bytes that a running launch writes, from an address upwards. -/
def State.codeRun (s : State) (id a : Nat) : List Byte → State
  | [] => s
  | b :: bs => (s.codeByte id a b).codeRun id (a + 1) bs

/-- A write about to reach physical memory, by a launch or by none: what a launch writes is no code until its node has
completed, what anyone else writes is code at once (R73). -/
def State.codeWrite (s : State) (launch : Option Nat) (a : Nat) (bs : List Byte) : State :=
  match (launch.bind s.node?).filter fun n => n.kind == 1 && !n.closed with
  | some n => s.codeRun n.id a bs
  | none => { s with unsettled := s.unsettled.filter fun c => !(a ≤ c.1 && c.1 < a + bs.length) }

/-- A byte when a launch has finished: the launch's last value is code, unless something finished or outside has written
the byte since; what running launches wrote after it is still none (R73). -/
def settleByte (id : Nat) (e : Byte × List (Nat × Byte)) : Byte × List (Nat × Byte) :=
  match mapGet e.2 id with
  | some b => (b, (e.2.dropWhile (·.1 != id)).drop 1)
  | none => e

/-- What a launch that has finished has written becomes code for the launches that start from then on (R73). -/
def State.settleCode (s : State) (id : Nat) : State :=
  { s with unsettled := (s.unsettled.map fun c => (c.1, settleByte id c.2)).filter fun c => !c.2.2.isEmpty }

/-- Memory as the fetches of a launch that starts now see it (R73). -/
def State.codeNow (s : State) : List Host.Cell := s.unsettled.foldl (fun m c => memWrite m c.1 [c.2.1]) s.mem

end Sys2Proof.Machine
end

