-- ==== Sys2Proof/Machine/Order.lean ====
section
/-! DEFINITION. Happens-before by vector clocks, and race detection per byte (R176 to R192; log 6). -/

namespace Sys2Proof.Machine

/-- The epoch of a party a clock knows. -/
def clkGet (k : Clock) (p : Nat) : Nat := (mapGet k p).getD 0

/-- The join of two clocks. -/
def clkJoin (a b : Clock) : Clock := b.foldl (fun k e => if clkGet k e.1 < e.2 then mapSet k e.1 e.2 else k) a

/-- A clock with one party's epoch advanced, as after a release (R180). -/
def clkTick (k : Clock) (p : Nat) : Clock := mapSet k p (clkGet k p + 1)

/-- The party number of a crew: its workgroup's number and its index (R176). -/
def crewParty (c : Crew) : Nat := c.wg * 64 + c.idx

/-- The numbers of a copy command's accesses, which nothing orders among themselves: 0 for its reads, n + 1 for what it
writes in one phase of its barrier object or as one queue element, the units that R182 orders apart (R192). -/
def copyParty (id n : Nat) : Nat := (id * 2 ^ 21 + n) * 64 + 63

/-- Whether two numbers are of one party (R176). -/
def sameParty (p q : Nat) : Bool := p == q || (p % 64 == 63 && q % 64 == 63 && p / 2 ^ 27 == q / 2 ^ 27)

/-- The control node and remote devices as one party of the system scope (R176). -/
def outsideParty : Nat := 0

/-- An access about to be made: its party, clock, class and identity. -/
structure Access where
  party : Nat
  clock : Clock
  strong : Bool
  write : Bool
  who : Who
  deriving DecidableEq, Repr

/-- Whether a remembered access and a new one race: different parties, one writes, not both strong, and the earlier
does not happen before the later (R176, R183). -/
def races (old : Acc) (a : Access) : Bool :=
  !sameParty old.party a.party && (old.write || a.write) && !(old.strong && a.strong) && clkGet a.clock old.party < old.epoch

/-- The earliest remembered access of a byte that a new one races with (R188). -/
def byteRace (t : Tags) (a : Access) (addr : Nat) : Option Acc :=
  match mapGet t addr with
  | some b => b.accs.find? (races · a)
  | none => none

/-- The lowest byte of a run at which an access races, with the earlier access (R188, R189). -/
def runRace (t : Tags) (a : Access) (addr : Nat) : Nat → Option (Nat × Acc)
  | 0 => none
  | n + 1 => match byteRace t a addr with
    | some x => some (addr, x)
    | none => runRace t a (addr + 1) n

/-- The entry a new access leaves in a tag. -/
def Access.entry (a : Access) : Acc := ⟨a.party, clkGet a.clock a.party, a.strong, a.write, a.who⟩

/-- The remembered accesses of a byte after a new one: the party's earlier access of the same kind is replaced, and a
write drops what later accesses can no longer race with through it (log 6). -/
def addAcc (l : List Acc) (a : Access) : List Acc :=
  let l := l.filter fun x => !(x.party == a.party && x.strong == a.strong && x.write == a.write)
  let l := if a.write then l.filter fun x => clkGet a.clock x.party < x.epoch || (a.strong && !x.strong) else l
  l ++ [a.entry]

/-- One byte's tag changed. -/
def modTag (t : Tags) (addr : Nat) (f : ByteTag → ByteTag) : Tags :=
  let b := f ((mapGet t addr).getD ⟨[], []⟩)
  if b.accs.isEmpty && b.rel.isEmpty then mapDel t addr else mapSet t addr b

/-- A run of bytes' tags changed. -/
def modTags (t : Tags) (addr : Nat) (f : ByteTag → ByteTag) : Nat → Tags
  | 0 => t
  | n + 1 => modTags (modTag t addr f) (addr + 1) f n

/-- An access noted in the tags of a run of bytes (R187). -/
def noteAccess (t : Tags) (a : Access) (addr n : Nat) : Tags :=
  modTags t addr (fun b => { b with accs := addAcc b.accs a }) n

/-! Scopes (R179 to R181) -/

/-- Whether two places are of one workgroup. -/
def Place.sameWg (a b : Place) : Bool := a.wg.isSome && a.wg == b.wg

/-- Whether a scope, by its place in R179, Table 3, covers two parties: a die holds 64 cores (R375). A workgroup lies on one
core, so the wider scopes cover it wherever it has been restored since (R319). -/
def covers (scope : Nat) (a b : Place) : Bool :=
  match scope with
  | 0 => a.party == b.party
  | 1 => a.sameWg b
  | 2 => a.sameWg b || (a.core.isSome && a.core == b.core)
  | 3 => a.sameWg b || (a.core.isSome && a.core.map (· / 64) == b.core.map (· / 64))
  | 4 => !a.outside && !b.outside
  | _ => true

/-- The scope of a strong access by its space (R180, Table 4). -/
def spaceScope (scratch : Bool) : Nat := if scratch then 1 else 4

/-- Where a crew stands. -/
def crewPlace (w : Wg) (c : Crew) : Place := ⟨crewParty c, some c.wg, w.core, false⟩

/-- The control node and remote devices as one party of the system scope (R176, Table 1). -/
def outsidePlace : Place := ⟨outsideParty, none, none, true⟩

/-- Whether a release synchronises with an acquire of a scope by a party that reads it (R181). -/
def Rel.reaches (r : Rel) (scope : Nat) (me : Place) : Bool := covers r.scope r.place me && covers scope r.place me

/-- A release of an atomic put with those of the chain it goes on: it comes after the earlier ones of its party and scope,
and stands for them. -/
def addRel (l : List Rel) (r : Rel) : List Rel :=
  l.filter (fun x => !(x.place.party == r.place.party && x.scope == r.scope)) ++ [r]

/-- A release read put with others that wait for a fence: one entry for those of a party and scope, whichever was read
first, of what happens before any of them (R180). -/
def joinRel : List Rel → Rel → List Rel
  | [], r => [r]
  | x :: l, r => if x.place == r.place && x.scope == r.scope then { x with clock := clkJoin x.clock r.clock } :: l
      else x :: joinRel l r

/-- The releases that a run of bytes carries set by a store: none by a plain one, its own by a strong one (R181). -/
def setRel (t : Tags) (r : List Rel) (addr n : Nat) : Tags := modTags t addr (fun b => { b with rel := r }) n

/-- The release of an atomic put with those that its bytes carry: the chain of R181. -/
def chainRel (t : Tags) (r : Rel) (addr n : Nat) : Tags := modTags t addr (fun b => { b with rel := addRel b.rel r }) n

/-- The releases that a read of a run of bytes takes its values from (R181). -/
def relsOf (t : Tags) (addr n : Nat) : List Rel :=
  ((List.range n).flatMap fun k => ((mapGet t (addr + k)).map (·.rel)).getD []).eraseDups

/-- A crew's clock after what it is known to come after. -/
def Crew.acquire (c : Crew) (l : List Clock) : Crew := { c with clock := l.foldl clkJoin c.clock }

/-- A crew after an acquire of a scope that reads releases (R180, R181): those that reach it happen before what follows;
the others wait for a fence that widens the acquire. -/
def Crew.acquireRels (c : Crew) (me : Place) (scope : Nat) (l : List Rel) : Crew :=
  l.foldl (fun c r =>
    if r.reaches scope me then { c with clock := clkJoin c.clock r.clock }
    else { c with pendAcq := joinRel c.pendAcq r }) c

/-- A crew after an acquire fence of a scope (R180): it widens the acquires before it. -/
def Crew.fenceAcquire (c : Crew) (me : Place) (scope : Nat) : Crew :=
  { c with
    clock := (c.pendAcq.filter (·.reaches scope me)).foldl (fun k r => clkJoin k r.clock) c.clock
    pendAcq := c.pendAcq.filter fun r => !r.reaches scope me }

/-- A crew after a release: its own epoch advances, so that later accesses are not covered. -/
def Crew.tick (c : Crew) : Crew := { c with clock := clkTick c.clock (crewParty c) }

/-- A crew after a release fence of a scope (R180): the strong stores and atomics after it release at that scope at
least; contributions after one of package scope or wider come after what is before it (R197). -/
def Crew.fenceRelease (c : Crew) (scope : Nat) : Crew :=
  let c := { c with relScope := max c.relScope scope }
  if 4 ≤ scope then { c with fenceClk := c.clock }.tick else c

/-- A crew after a full fence of package scope, as a save or a restore of it is (R179, R319). -/
def Crew.fullFence (c : Crew) (me : Place) : Crew := (c.fenceAcquire me 4).fenceRelease 4

/-- What happens before a release of a crew. -/
def Crew.release (c : Crew) : Clock := c.clock

/-- The release of a strong store or atomic of a crew (R180): at the wider of its own scope and the fences before it. -/
def Crew.rel (c : Crew) (w : Wg) (scratch : Bool) : Rel := ⟨c.clock, max (spaceScope scratch) c.relScope, crewPlace w c⟩

end Sys2Proof.Machine
end

