-- ==== Sys2Proof/Machine/Ops.lean ====
section
/-! DEFINITION. The named operations over registers, the wake and fault queues; taking an exception and returning from
one; retirement. -/

namespace Sys2Proof.Machine

/-! Threads and tags -/

/-- The thread indices of a crew (R14). -/
def threads : List Nat :=
  [0, 1, 2, 3, 4, 5, 6, 7, 8, 9, 10, 11, 12, 13, 14, 15, 16, 17, 18, 19, 20, 21, 22, 23, 24, 25, 26, 27, 28, 29, 30, 31]

/-- The 32 values of a function of the thread. -/
def perThread (f : Nat → Word) : List Word := threads.map f

/-- The value of a thread. -/
def lane (l : List Word) (t : Nat) : Word := l.getD t 0

/-- All threads. -/
def allThreads : Mask := 0xFFFFFFFF

/-- The lowest-numbered thread of a set. -/
def lowest (m : Mask) : Option Nat := threads.find? (m.getLsbD ·)

/-- The threads of a set, ascending. -/
def members (m : Mask) : List Nat := threads.filter (m.getLsbD ·)

/-- The set of threads that meet a condition. -/
def maskOf (f : Nat → Bool) : Mask :=
  threads.foldl (fun m t => if f t then m ||| (1 <<< t) else m) 0

/-- Whether all 32 values are equal (R35, U). -/
def isUniform (l : List Word) : Bool := l.all (· == lane l 0)

/-- Whether the values fit a progression of any stride (R35, A). -/
def isAffine (l : List Word) : Bool :=
  let d := lane l 1 - lane l 0
  threads.all fun t => lane l t == lane l 0 + d * BitVec.ofNat 32 t

/-- The tag of values on their own (R36, rule 1). -/
def freshTag (l : List Word) : Tag := if isUniform l then .U else if isAffine l then .A else .G

/-- The tag after a write-back (R36). -/
def retag (old : Tag) (full : Bool) (l : List Word) : Tag :=
  if full then freshTag l else
  match old with
  | .U => if isUniform l then .U else .G
  | .A => if isAffine l then .A else .G
  | .G => .G

/-- A register after a masked write (R34, R36). -/
def writeMasked (old : VReg) (act : Mask) (new : List Word) : VReg :=
  let vals := perThread fun t => if act.getLsbD t then lane new t else lane old.vals t
  ⟨vals, retag old.tag (act == allThreads) vals⟩

/-- The read-only register lane (R16, R63). -/
def laneReg : VReg := ⟨perThread (BitVec.ofNat 32), .A⟩

/-- The source thread of destination thread t under a crossbar pattern (R38). -/
def sourceThread (p : BitVec 7) (t : Nat) : Nat :=
  let k := (p.extractLsb' 0 5).toNat
  match (p.extractLsb' 5 2).toNat with
  | 0 => (t + k) % 32
  | 1 => k
  | 2 => t ^^^ k
  | _ => t ^^^ (2 ^ k - 1)

/-- Values after a crossbar pattern (R38, R39). -/
def permute (p : BitVec 7) (l : List Word) : List Word :=
  if p == 0 then l else perThread fun t => lane l (sourceThread p t)

/-! Registers of a crew -/

/-- Predicate bits of all threads; p7 reads 1 (R31). -/
def Crew.pred (c : Crew) (i : Nat) : Mask := if i < 7 then c.p.getD i 0 else allThreads

/-- A predicate written in the threads of a set; p7 is discarded (R31). -/
def Crew.setPred (c : Crew) (i : Nat) (act bits : Mask) : Crew :=
  if i < 7 then { c with p := c.p.set i ((c.pred i &&& ~~~act) ||| (bits &&& act)) } else c

/-- The guard of a prefix as a set of threads (R31, R61). -/
def Crew.guardMask (c : Crew) (x : Option XFields) : Mask :=
  match x with
  | none => allThreads
  | some x =>
    let b := c.pred (x.guard.extractLsb' 0 3).toNat
    if x.guard.getLsbD 3 then ~~~b else b

/-- The active threads of the instruction at hand: MASK and the guard (R110). -/
def Crew.active (c : Crew) : Mask := c.mask &&& c.guardMask c.pfx

/-- A v or o register by code point (R63). -/
def Crew.vreg (c : Crew) (code : Nat) : VReg :=
  if code < 96 then c.v.getD code VReg.zero else c.o.getD (code - 96) VReg.zero

/-- The threads in which a register still holds a status word (R182). -/
def StatReg.live (r : StatReg) : Mask := r.lost.foldl (fun m e => m &&& ~~~e.2) r.mask

/-- A status word's register written in the threads of a set at a count. -/
def StatReg.overwrite (r : StatReg) (ic : DWord) (act : Mask) : StatReg :=
  if r.live &&& act == 0 then r else { r with lost := (ic, r.live &&& act) :: r.lost }

/-- The status words of a register after a write of it in the threads of a set. -/
def Crew.overwrite (c : Crew) (code : Nat) (act : Mask) : List StatReg :=
  c.stat.map fun r => if r.code == code then r.overwrite c.ic act else r

/-- The status words of some registers once the writes from a count on are undone (R182, R344). -/
def Crew.unlost (c : Crew) (codes : List Nat) (ic : DWord) : Crew :=
  { c with stat := c.stat.map fun r =>
      if codes.contains r.code then { r with lost := r.lost.filter fun e => e.1 < ic } else r }

/-- A v or o register replaced; words that failed their check hold good ones again (R351). -/
def Crew.setVreg (c : Crew) (code : Nat) (r : VReg) : Crew :=
  let c := { c with badRegs := c.badRegs.filter (·.1 != code) }
  if code < 96 then { c with v := c.v.set code r } else { c with o := c.o.set (code - 96) r }

/-- A v or o register written in the threads of a set (R34, R36). -/
def Crew.writeReg (c : Crew) (code : Nat) (act : Mask) (new : List Word) : Crew :=
  let bad := (c.badRegs.map fun b => if b.1 == code then (b.1, b.2 &&& ~~~act) else b).filter (·.2 != 0)
  { c.setVreg code (writeMasked (c.vreg code) act new) with badRegs := bad, stat := c.overwrite code act }

/-- An s register. -/
def Crew.sreg (c : Crew) (n : Nat) : Word := c.s.getD n 0

/-- An s register written. -/
def Crew.setSreg (c : Crew) (n : Nat) (w : Word) : Crew := { c with s := c.s.set n w }

/-- Register blocks held (R21). -/
def Crew.blocks (c : Crew) : Nat := c.v.length / 8

/-- A latch. -/
def Crew.latch (c : Crew) (n : Nat) : Latch := c.l.getD n ⟨zeros32, .U, false⟩

/-- A mailbox. -/
def Crew.mbox (c : Crew) (n : Nat) : Mbox := c.m.getD n ⟨0, false⟩

/-- A mailbox replaced. -/
def Crew.setMbox (c : Crew) (n : Nat) (b : Mbox) : Crew := { c with m := c.m.set n b }

/-- The latch history shifted by a new result (R25). -/
def Crew.shiftLatch (c : Crew) (r : VReg) : Crew :=
  { c with l := ⟨r.vals, r.tag, true⟩ :: c.l.take 3 }

/-- All four latches invalid (R27). -/
def Crew.clearLatches (c : Crew) : Crew := { c with l := c.l.map fun x => { x with valid := false } }

/-- Latches lost by the scheduler's events, issue by another crew and a descheduling wait, which a latch-loss replay's
forward run is shielded from (R27, R348). -/
def Crew.loseLatches (c : Crew) : Crew := if c.replays.any (·.latch) then c else c.clearLatches

/-- Sticky flags joined into FMODE (R98). -/
def Crew.raise (c : Crew) (f : Flags) : Crew := { c with fmode := c.fmode ||| f.word }

/-- The mode, flush and saturation an instruction reads (R97, R100): rnd 0 takes FMODE.RND. -/
def Crew.fenv (c : Crew) (rnd : Nat) : FEnv :=
  ⟨.ofRnd (if rnd == 0 then (c.fmode.extractLsb' 0 3).toNat else rnd), c.fmode.getLsbD 5, c.fmode.getLsbD 4,
    c.fmode.getLsbD 3, c.lfsr⟩

/-- DIR: 1 while the crew walks backwards (R323). -/
def Crew.dir (c : Crew) : Bool := c.walk.isSome

/-! The wake -/

/-- Bytes of a register in a payload, by its tag (R37). -/
def tagBytes : Tag → Nat
  | .U => 4 | .A => 8 | .G => 128

/-- Payload bytes of a record before padding (R339, Table 7). -/
def WakeBody.bytes : WakeBody → Nat
  | .reg _ rs => (rs.map fun r => tagBytes r.tag).sum
  | .sreg _ ws => 4 * ws.length
  | .store scr size old => old.length * ((if scr then 4 else 8) + (size + 3) / 4 * 4)
  | _ => 4

/-- The size of a record: header and padded payload (R339). -/
def WakeRec.size (r : WakeRec) : Nat := 16 + (r.body.bytes + 15) / 16 * 16

/-- Bytes of the ring in use (R341). -/
def Crew.wakeUsed (c : Crew) : Nat := (c.wake.map WakeRec.size).sum

/-- Bytes of the ring: the share without its anchor (R340). -/
def Crew.ring (c : Crew) : Nat := c.shareSize - 64

/-- An address of the ring moved on by n bytes, wrapping before the anchor (R340). -/
def Crew.ringStep (c : Crew) (a : DWord) (n : Nat) : DWord :=
  if c.ring == 0 then a else c.shareBase + BitVec.ofNat 64 ((a.toNat - c.shareBase.toNat + n) % c.ring)

/-- An address of the ring moved back by n bytes. -/
def Crew.ringBack (c : Crew) (a : DWord) (n : Nat) : DWord :=
  if c.ring == 0 then a
  else c.shareBase + BitVec.ofNat 64 ((a.toNat - c.shareBase.toNat + c.ring - n % c.ring) % c.ring)

/-- WakePush (R339). -/
def Crew.push (c : Crew) (act : Mask) (b : WakeBody) : Crew :=
  let r : WakeRec := { mask := act, ic := c.ic, body := b }
  { c with wake := r :: c.wake, wakep := c.ringStep c.wakep r.size }

/-- WakePop: the newest record and the crew without it (R339). -/
def Crew.pop (c : Crew) : Option (WakeRec × Crew) :=
  match c.wake with
  | r :: rest => some (r, { c with wake := rest, wakep := c.ringBack c.wakep r.size })
  | [] => none

/-- The commit count raised to a count, by what stands at an address; older records are freed (R325, R338, R342). -/
def Crew.commitTo (c : Crew) (n at_ : DWord) : Crew :=
  let keep := c.wake.filter fun r => n ≤ r.ic
  let freed := (c.wake.map WakeRec.size).sum - (keep.map WakeRec.size).sum
  { c with commit := n, commitAt := at_, wake := keep, tail := c.ringStep c.tail freed }

/-- The implicit commit of a boundary, or of the delivery of a trap or fault, at the crew's count (R303, R325, R338). -/
def Crew.commitHere (c : Crew) (at_ : DWord) : Crew :=
  { c with commit := c.ic, commitAt := at_, wake := [], tail := c.wakep }

/-! Fault records -/

/-- A fault of an instruction: code, field, faulting address, kind of access, detail (R349). -/
structure Flt where
  code : Code
  field : Field := .none
  addr : Nat := 0
  access : Nat := 0
  detail : Nat := 0
  deriving DecidableEq, Repr

/-- The fields of a fault record (R349, Table 1). -/
structure FRec where
  detail : Nat := 0
  addr : Nat := 0
  pc : Nat := 0
  ic : Nat := 0
  node : Nat := 0
  wgid : Nat := 0
  region : Nat := 0
  code : Code
  field : Nat := 0
  crew : Nat := 0
  source : Nat := 0
  slot : Nat := 0
  access : Nat := 0
  lost : Nat := 0
  deriving DecidableEq, Repr

/-- The 64 bytes of a record, VALID set (R349, Table 1). -/
def FRec.bytes (r : FRec) : List Byte :=
  leBytes (1 + r.lost * 2 ^ 16 + r.access * 2 ^ 24 + r.slot * 2 ^ 26) 4 ++
  leBytes (r.source + r.crew * 2 ^ 3 + r.field * 2 ^ 8 + r.code.num * 2 ^ 16) 4 ++
  leBytes r.region 4 ++ leBytes r.wgid 4 ++ leBytes r.node 8 ++ leBytes r.ic 8 ++ leBytes r.pc 8 ++ leBytes r.addr 8 ++
  leBytes r.detail 16

/-- The sticky flags of FMODE (R97). -/
def stickyMask : Word := 0x3F00

/-- Whether a record below the wake pointer, at an offset in the ring's use from its oldest byte, fails its check where it
lies in memory (R340, R352). -/
def State.ringFails (s : State) (c : Crew) (from_ n : Nat) : Bool :=
  !s.failing.isEmpty && s.failing.any fun u => (List.range ((n + 7) / 8)).any fun k =>
    (c.ringStep c.tail (from_ + 8 * k)).toNat / 8 == u

/-- What n bytes of records pushed at the wake pointer of a crew write over in the ring: units that failed are good again
(R340, R352). -/
def State.repairRing (s : State) (c : Crew) (n : Nat) : State :=
  if s.failing.isEmpty then s else
  { s with failing := s.failing.filter fun u =>
      !(List.range (n / 8)).any fun k => (c.ringStep c.wakep (8 * k)).toNat / 8 == u }

/-- The registers that the records of a run-on restore (R194). -/
def restoredRegs (l : List WakeRec) : List Nat :=
  l.flatMap fun r => match r.body with
    | .reg code rs => (List.range rs.length).map (code + ·)
    | _ => []

/-- A running-on crew rolled back to before its BWAIT.S (R194): what the wake restores, sticky flags kept, the buffer
and the signature dropped, the no-run-on mark set, the latches lost; what its reads came after is gone with them (R182). A
register word that failed meanwhile stays failing unless a record restores it; a record that fails kills the workgroup next
(R351, R352). DESIGN CHOICE (log 10): a BWAIT.S that names a mailbox has committed as a boundary, and the commit count of before
it is put back (R325, R336, R347). -/
def State.rolledBack (s : State) (c : Crew) : State × Crew :=
  match s.snaps.find? fun x => x.wg == c.wg && x.idx == c.idx with
  | none => (s, { c with runon := none })
  | some x =>
    let recs := c.wake.take (c.wake.length - x.wake.length)
    let bad := c.badRegs.filter fun b => !(restoredRegs recs).contains b.1 && !x.badRegs.any (·.1 == b.1)
    let back := { x with
      clock := mapSet x.clock (crewParty x) (clkGet c.clock (crewParty x))
      fmode := (x.fmode &&& ~~~stickyMask) ||| (c.fmode &&& stickyMask)
      norun := true, runon := none, st := .ready, wait := .none, pfx := none, granted := none, chain := false
      waitcnt := 0, steps := c.steps, expired := c.expired, halting := c.halting
      recWait := c.recWait, badRegs := x.badRegs ++ bad }
    let t := { s with snaps := s.snaps.filter fun x => !(x.wg == c.wg && x.idx == c.idx) }
    (if s.ringFails c x.wakeUsed (c.wakeUsed - x.wakeUsed) then
        { t with agenda := .event (.stateErrorKill ⟨c.wg, .crewState⟩) :: t.agenda } else t,
      back.clearLatches)

/-- The 4-byte word or 32-byte sector that stands in a read signature for a byte (R287). -/
def sigUnit (scratch : Bool) (a : Nat) : Nat := if scratch then a / 4 else a / 32

/-- Whether a write to bytes lands on a read signature (R287): on a word or sector that it holds, or on one that aliases
it (log 8). -/
def RunOn.hit (r : RunOn) (scratch : Bool) (a n : Nat) : Bool :=
  let lo := sigUnit scratch a
  let hi := sigUnit scratch (a + n - 1)
  r.sig.any fun e =>
    let u := sigUnit e.scratch e.addr
    !e.own && ((e.scratch == scratch && lo ≤ u && u ≤ hi) ||
      (List.range (hi - lo + 1)).any fun k => Config.sigAlias scratch (lo + k) e.scratch u)

/-- Running-on crews that a landed write rolls back (R194): those of the workgroup for a scratchpad write, of the whole
device for a global one, the writer excepted. -/
def State.hitRunons (s : State) (wg : Option Nat) (me : Option CrewRef) (a n : Nat) : State :=
  s.crews.foldl (fun s c =>
    if c.runon.any (fun r => r.hit wg.isSome a n) && (wg.all (· == c.wg)) && me != some c.ref then
      let r := s.rolledBack c
      r.1.setCrew r.2
    else s) s

/-- Running-on crews that meet a condition rolled back (R194). -/
def State.rollRunons (s : State) (p : Crew → RunOn → Bool) : State :=
  s.crews.foldl (fun s k =>
    match s.crew? k.ref with
    | some c =>
      if c.runon.any (p c) then
        let r := s.rolledBack c
        r.1.setCrew r.2
      else s
    | none => s) s

/-- Running-on crews that have loaded bytes of some physical ranges, whose mapping changes, rolled back: after the wait the
same loads use the new mapping (R193). -/
def State.rollReaders (s : State) (l : List (Nat × Nat)) : State :=
  if l.isEmpty then s else
  s.rollRunons fun _ r => r.sig.any fun e => !e.scratch && l.any fun f => f.1 ≤ e.addr && e.addr < f.1 + f.2

/-- Bytes written to physical memory by a unit that neither checks nor leaves race tags, with the releases they carry: a
stale copy stays, a failing unit that is wholly written is repaired, and crews running on that have read them are rolled
back (R187, R194, R352). -/
def State.physStore (s : State) (rel : List Rel) (a : Nat) (bs : List Byte) : State :=
  let s := s.codeWrite none a bs
  ({ s with
      mem := memWrite s.mem a bs
      tags := setRel s.tags rel a bs.length
      failing := s.failing.filter fun u => !(a ≤ 8 * u && 8 * u + 8 ≤ a + bs.length) }).hitRunons none none a bs.length

/-- Such a write that releases nothing. -/
def State.physWrite (s : State) (a : Nat) (bs : List Byte) : State := s.physStore [] a bs

/-- The slot of a region's fault queue that the next record goes to (R349). -/
def Region.slotAddr (r : Region) : Nat := r.eff.faultq + 64 * (if r.eff.fqlen == 0 then 0 else r.put % r.eff.fqlen)

/-- Whether that slot is full: its VALID is 1 (R349). -/
def State.slotFull (s : State) (r : Region) : Bool := (memByte s.mem r.slotAddr).getLsbD 0

/-- The release at system scope that VALID is written with: what happens before the record (R349). -/
def validRel (clk : Clock) (place : Place) : List Rel := if clk.isEmpty then [] else [⟨clk, 5, place⟩]

/-- 64 bytes written to the next slot, LOST filled in (R349). -/
def State.putBytes (s : State) (r : Region) (rel : List Rel) (bytes : List Byte) : State :=
  (s.physStore rel r.slotAddr (bytes.set 2 (BitVec.ofNat 8 (min r.lost 255)))).modRegion r.rcb
    fun k => { k with put := k.put + 1, lost := 0 }

/-- Whether the next record of a region finds its slot full: VALID stands in it, or records wait for it, which go first, so
that nothing comes between those of one detection (R349, R368). -/
def State.queueFull (s : State) (r : Region) : Bool := s.slotFull r || !r.waiting.isEmpty

/-- A record of a source other than a crew, to a region's queue: a full slot drops and counts it (R349). -/
def State.reportTo (s : State) (r : Region) (rel : List Rel) (x : FRec) : State :=
  if s.queueFull r then s.modRegion r.rcb fun k => { k with lost := k.lost + 1 } else s.putBytes r rel x.bytes

/-- A record of the Cox for a region as its block was read last. -/
def State.report (s : State) (rcb : Nat) (x : FRec) : State :=
  match s.region? rcb with
  | none => s
  | some r => s.reportTo r [] x

/-- A record about a workgroup, to the queue of its region as it was placed under (R250, R349). -/
def State.reportFor (s : State) (w : Wg) (rel : List Rel) (x : FRec) : State :=
  match s.regionOf w with
  | none => s
  | some r => s.reportTo r rel x

/-- A crew that has released something: its own epoch advances (R180). -/
def State.tickCrew (s : State) (r : CrewRef) : State :=
  { s with crews := s.crews.map fun k => if k.wg == r.wg && k.idx == r.idx then k.tick else k }

/-- A record of a crew: on a full slot it waits and the crew with it; VALID releases what the crew has done (R349). -/
def State.reportCrew (s : State) (w : Wg) (c : Crew) (x : FRec) : State :=
  match s.regionOf w with
  | none => s
  | some r =>
    if s.queueFull r then
      let s := s.modRegion r.rcb fun k => { k with waiting := k.waiting ++ [(x.bytes, c.ref)] }
      { s with crews := s.crews.map fun k => if k.wg == c.wg && k.idx == c.idx then { k with recWait := true } else k }
    else (s.putBytes r (validRel c.clock (crewPlace w c)) x.bytes).tickCrew c.ref

/-- A record, as its 64 bytes, of the control-node port's error log (R349, R375): one that overwrites a record whose VALID
still stands is counted as a loss. -/
def State.logBytes (s : State) (bytes : List Byte) : State :=
  let p := s.port
  let len := p.errLen.toNat
  if p.errBase == 0 || len == 0 then s else
  let slot := p.errBase.toNat + 64 * (p.errCnt.toNat % len)
  let lost := if len ≤ p.errCnt.toNat && (memByte s.mem slot).getLsbD 0 then p.errLost + 1 else p.errLost
  { s with port := { p with errCnt := p.errCnt + 1, errLost := lost } }.physWrite slot bytes

/-- A record of the error log. -/
def State.logError (s : State) (x : FRec) : State := s.logBytes x.bytes

/-! The instruction at hand -/

/-- A crew's instruction being executed: the machine, the crew and its workgroup apart from it, where execution
continues, and whether a transfer of R326 is taken. -/
structure Ctx where
  s : State
  c : Crew
  w : Wg
  next : DWord
  taken : Bool
  deriving DecidableEq, Repr

/-- How an instruction ends. -/
inductive Res where
  /-- it completes and retires -/
  | done (x : Ctx)
  /-- it faults with no effect (R19) -/
  | fault (f : Flt)
  /-- it faults with no effect but what its walks have cached in this machine (R19, R200) -/
  | faultAt (s : State) (f : Flt)
  /-- it waits before having any effect, in the given state -/
  | wait (st : CrewSt) (w : Wait)
  /-- a running-on crew meets what ends speculation (R195) -/
  | stall
  /-- the crew changes without retiring -/
  | keep (x : Ctx)
  deriving DecidableEq, Repr

/-- The machine with the workgroup as the instruction leaves it. -/
def Ctx.sync (x : Ctx) : State := x.s.setWg x.w

/-- An operation on the machine as a whole, the workgroup included. -/
def Ctx.mapS (x : Ctx) (f : State → State) : Ctx :=
  let s := f x.sync
  { x with s := s, w := (s.wg? x.w.uid).getD x.w }

/-- The address of the instruction at hand: its prefix word where it has one (R61). -/
def Crew.addr (c : Crew) : DWord := c.pc

/-- The address of the word that follows the instruction at hand. -/
def Crew.after (c : Crew) : DWord := if c.pfx.isSome then c.pc + 8 else c.pc + 4

/-- The record of a crew's fault or trap (R349). -/
def crewRecord (w : Wg) (c : Crew) (f : Flt) (ic : DWord) : FRec :=
  { detail := f.detail, addr := f.addr, pc := c.pc.toNat, ic := ic.toNat, node := w.node, wgid := w.index.toNat,
    region := w.region / 512, code := f.code, field := f.field.num, crew := c.idx, source := 0, access := f.access }

/-- Whether a fault is replayable (R314, R350). -/
def Code.replayable (k : Code) : Bool := k == .pageFault || k == .pagePermission

/-- Sampling of a workgroup by a shadow abandoned, on either side (R357). -/
def State.abandon (s : State) (uid : Nat) : State :=
  let uids := uid :: (s.wgs.filter fun w => w.shadowOf == some uid || (s.wg? uid).any (·.shadowOf == some w.uid)).map (·.uid)
  let shadows := (s.wgs.filter fun w => uids.contains w.uid && w.shadowOf.isSome).map (·.uid)
  { s with
    wgs := (s.wgs.filter fun w => !shadows.contains w.uid).map fun w =>
      if uids.contains w.uid then { w with sampled := false } else w
    crews := s.crews.filter fun c => !shadows.contains c.wg
    copies := s.copies.filter fun k => !shadows.contains k.wg }

/-- The transform pipe's replies to one instruction written (R34, R36, R168): those that bear its number; who awaits them is
for the step that lands them to say. -/
def Crew.landReply (c : Crew) (id : Nat) : Crew :=
  c.pend.foldl (fun c p => match p.vals with
    | some vals => if p.copy == id then { c.writeReg p.code p.mask vals with pend := c.pend.filter (· != p) } else c
    | none => c) c

/-- A crew that waits in SCORE for a register or a pipe alone, READY again to test that its instruction can issue (R263). -/
def Crew.unscored (c : Crew) : Crew :=
  if c.st == .score && (c.wait == .pendingReg || c.wait == .pipe) then { c with st := .ready, wait := .none } else c

/-- Every pending reply awaited and written, as before a trap, a halt and a save (R168): who waited for one is for those to
say. -/
def Crew.landReplies (c : Crew) : Crew :=
  c.pend.foldl (fun c p => match p.vals with
    | some vals => { c.writeReg p.code p.mask vals with pend := c.pend.filter (· != p) }
    | none => c) c

/-- A crew HALTED for a reason (R308): its wait is left, pending replies are written, the latches are lost. -/
def Crew.halt (c : Crew) (r : Reason) : Crew :=
  { c.landReplies.clearLatches with
    st := .halted, reason := r, halting := .none, steps := none, wait := .none, pfx := none, granted := none
    chain := false, packet := none }

/-- A crew between two instructions: a HALT that waits for a packet boundary takes effect there (R308). -/
def Crew.atPacket (c : Crew) : Crew :=
  if c.halting != .none && c.pc.toNat % 12 == 0 && c.pfx.isNone && c.st == .ready then c.halt c.halting else c

/-- A crew PARKED at its instruction (R314); a step of the debugger ends there, and a HALT under way takes effect, with
PARKPEND (R308, R358). -/
def Crew.park (c : Crew) : Crew :=
  if c.halting != .none then { c.halt c.halting with parkpend := true }
  else if c.steps.isSome then { c.halt .debug with parkpend := true }
  else { c with st := .parked }

/-- A crew set as an instruction leaves it: one that is halted while it runs on is rolled back and HALTED there (R290,
R358). -/
def State.leave (s : State) (c : Crew) : State :=
  if c.st == .halted && c.runon.isSome then
    let r := s.rolledBack { c with halting := .none, steps := none }
    r.1.setCrew (r.2.halt c.reason)
  else s.setCrew c

/-- More free choices than one instruction makes: a replay chooses anew (R313, log 5). -/
def choiceSpan : Nat := 65536

/-- TAKING AN EXCEPTION: the delivery of a fault, or of TRAP, to the handler or to the fault queue (R303, R314). The crew
stands as before the instruction, or past a TRAP; `ret` is what TPC receives and `ic` the count the record reports. -/
def State.deliver (s : State) (c : Crew) (f : Flt) (ret ic : DWord) : State :=
  match s.wg? c.wg with
  | none => s.setCrew { c with st := .halted, reason := .fault }
  | some w =>
    let s := s.abandon c.wg
    if w.shadowOf.isSome then s else
    let rec_ := crewRecord w c f ic
    let c := { c with pfx := none, granted := none, wait := .none, chain := false }
    if f.code.replayable then
      ({ s with fresh := s.fresh + choiceSpan }.setCrew c.clearLatches.park).reportCrew w c rec_
    else
      let sys := (s.effOf w).any (·.system)
      let c : Crew := { ((c.landReplies).commitHere c.pc).clearLatches with xfer := false, replays := [] }
      if sys && c.tvec != (0 : DWord) && !c.intrap then
        let cause := f.code.num * 65536 + f.field.num * 256 + (if f.code == .trap then f.detail else 0)
        s.setCrew { c with
          st := .ready
          pc := c.tvec
          tpc := ret
          intrap := true
          tcause := BitVec.ofNat 32 cause
          taddr := BitVec.ofNat 64 f.addr }.atPacket
      else
        let c := { c.halt (if f.code == .trap then .trap else .fault) with pc := ret }
        (s.setCrew c).reportCrew w c rec_

/-- A fault at the instruction at hand: a running-on crew is rolled back and nothing is raised (R195); otherwise the
exception is taken with the count before the instruction (R19, R303). -/
def State.raiseFault (s : State) (c : Crew) (f : Flt) : State :=
  if c.runon.isSome then
    let r := s.rolledBack c
    r.1.setCrew r.2
  else s.deliver c f c.pc c.ic

/-- THE RETURN FROM AN EXCEPTION (R304): the PC becomes TPC, INTRAP 0. -/
def Crew.returnFromTrap (c : Crew) : Crew := { c with intrap := false }

/-- What a grant still reserves once the instruction at hand has retired: a forward run that leads to the granted
instruction keeps it (R273, R348). -/
def Crew.grantAfter (c : Crew) : Option (List Nat × List Nat) :=
  if c.replays.any fun r => c.ic + 1 ≤ r.home then c.granted else none

/-- The crew once its instruction has retired (R322, R325, R335, R358): IC, PC, XFER, the implicit commit of a boundary,
the end of a forward run, the debugger's step count. -/
def Crew.retire (c : Crew) (boundary : Bool) (next : DWord) (taken : Bool) : Crew :=
  let at_ := c.pc
  let c := { c with ic := c.ic + 1, pc := next, xfer := taken, pfx := none, granted := c.grantAfter, bkptOnce := false,
                    waitcnt := 0, st := .ready, wait := .none }
  let c := if boundary then c.commitHere at_ else c
  let c := { c with replays := c.replays.filter fun r => c.ic < r.home || (r.latch && c.ic == r.home) }
  match c.steps with
  | some (n + 2) => { c with steps := some (n + 1) }.atPacket
  | some _ => c.halt .debug
  | none => c.atPacket

/-- A crew put into a wait (R263): a BLOCKED crew loses its latches (R27); a HALT under way takes effect there, and a
debugger's step ends (R308, R358). -/
def Crew.block (c : Crew) (n : Nat) (st : CrewSt) (w : Wait) : Crew :=
  let fresh := !(c.st == st && c.wait == w)
  let c := { c with st := st, wait := w, since := if fresh then n else c.since
                    granted := if st == .score then c.granted else none }
  let c := if st == .score then c else c.loseLatches
  if st == .score then c
  else if c.halting != .none then c.halt c.halting
  else if c.steps.isSome then c.halt .debug
  else c

/-- A crew that waits from here on, its instruction having already had an effect on the machine: an access noted. -/
def Ctx.waits (x : Ctx) (st : CrewSt) (w : Wait) : Res :=
  .keep { x with s := { x.s with nextId := x.s.nextId + 1 }, c := x.c.block x.s.nextId st w }

/-- A forward run that repairs a register has reached the instruction that read it: the core's counter moves on (R351). -/
def State.countRecovery (s : State) (w : Wg) (c : Crew) : State :=
  if c.replays.any fun r => !r.regs.isEmpty && r.home == c.ic + 1 then
    s.modCore (w.core.getD 0) fun k => { k with recovered := k.recovered + 1 }
  else s

/-- The machine after an instruction of a crew ended in a way (R19, R195, R263, R341): a push that the ring cannot hold
raises WAKE_FULL before any effect; a boundary pushes none (R336). DESIGN CHOICE (log 31): a running-on crew that enters
STALLED keeps its latches; R27 speaks of a descheduling by a blocking wait and does not say whether a stall is one. -/
def State.finish (s : State) (c : Crew) (boundary : Bool) (r : Res) : State :=
  match r with
  | .done x =>
    if boundary then x.sync.leave ({ x.c with wake := c.wake, wakep := c.wakep }.retire true x.next x.taken)
    else if x.c.ring < x.c.wakeUsed && c.wakeUsed < x.c.wakeUsed then s.raiseFault c { code := .wakeFull }
    else ((x.sync.repairRing c (x.c.wakeUsed - c.wakeUsed)).countRecovery x.w x.c).leave (x.c.retire false x.next x.taken)
  | .fault f => s.raiseFault c f
  | .faultAt t f => t.raiseFault c f
  | .wait st w =>
    { s with nextId := s.nextId + 1 }.leave (c.block s.nextId st w)
  | .stall => s.setCrew { c with st := .stalled, wait := .runon }
  | .keep x => x.sync.leave x.c

end Sys2Proof.Machine
end

