-- ==== Sys2Proof/Machine/Translate.lean ====
section
/-! DEFINITION. Address translation: the walk, cached translations, permissions (R310 to R313). -/

namespace Sys2Proof.Machine

/-- What an access needs of a page (R312, step 3). -/
inductive Need where
  | load | store | both | fetch | publ
  deriving DecidableEq, Repr

/-- Bytes of a page by size code (R310, Table 4). -/
def pageBytes (size : Nat) : Nat :=
  [0x1000, 0x4000, 0x10000, 0x200000, 0x2000000, 0x20000000, 0x400000000].getD size 0x1000

/-- The level a size code belongs to. -/
def sizeLevel (size : Nat) : Nat := [4, 4, 4, 3, 3, 3, 2].getD size 0

/-- Slots a page occupies at its level. -/
def pageSlots (size : Nat) : Nat := [1, 4, 16, 1, 16, 256, 16].getD size 1

/-- The physical address of a leaf's visible frame, of its shadow frame, or of the next table (R311). -/
def entryFrame (e : Nat) : Nat := bitsOf e 63 28 * 4096
/-- The shadow frame (R311). -/
def entryShadow (e : Nat) : Nat := bitsOf e 127 92 * 4096
/-- The SIZE field (R311). -/
def entrySize (e : Nat) : Nat := bitsOf e 27 24
/-- COMP, CHK, SHAD, NCL1, X, W, R of an entry (R311). -/
def entryComp (e : Nat) : Bool := e.testBit 17
/-- CHK. -/
def entryChk (e : Nat) : Bool := e.testBit 16
/-- SHAD. -/
def entryShad (e : Nat) : Bool := e.testBit 15
/-- NCL1. -/
def entryNcl1 (e : Nat) : Bool := e.testBit 14

/-- Whether two byte ranges meet. -/
def overlap (a n b m : Nat) : Bool := a < b + m && b < a + n && 0 < n && 0 < m

/-- Whether a range meets the wake or save area of effective region values. -/
def Eff.covers (e : Eff) (a n : Nat) : Bool :=
  overlap a n e.wakeBase (e.wakeSize * 1024) || overlap a n e.saveBase (e.saveSize * 1024)

/-- Whether a frame overlaps a protected range (R301): of a region recorded, or of one that has work. -/
def State.protectedAt (s : State) (a n : Nat) : Bool :=
  s.regions.any (fun r => r.prot && r.eff.covers a n) || s.nodes.any fun k => k.eff.covers a n

/-- Whether a leaf's frame is misaligned, unpopulated or protected (R312, step 2). -/
def State.frameBad (s : State) (f size : Nat) : Bool :=
  f % pageBytes size != 0 || !s.present f (pageBytes size) || s.protectedAt f (pageBytes size)

/-- The address of the first slot of the group that a leaf's page occupies in its table (R310). -/
def groupAddr (table idx e : Nat) : Nat :=
  let slots := pageSlots (entrySize e)
  table + 16 * (idx / slots * slots)

/-- Whether a leaf by itself breaks R312, step 2: reserved bits and codes, level, frames. -/
def State.entryBad (s : State) (level e : Nat) : Bool :=
  let size := entrySize e
  6 < size || sizeLevel size != level || bitsOf e 10 1 != 0 || bitsOf e 79 64 != 0 || bitsOf e 23 22 == 3 ||
  bitsOf e 21 20 == 3 || (!entryShad e && bitsOf e 127 80 != 0) || s.frameBad (entryFrame e) size ||
  (entryShad e && s.frameBad (entryShadow e) size)

/-- Whether a leaf breaks R312, step 2: itself, or as one of its group, whose slots all hold it. -/
def State.leafBad (s : State) (level table idx e : Nat) : Bool :=
  s.entryBad level e ||
  (List.range (pageSlots (entrySize e))).any fun k => memNat s.mem (groupAddr table idx e + 16 * k) 16 != e

/-- Whether a unit of 8 bytes within a run fails its check (R352). -/
def State.failingAt (s : State) (a n : Nat) : Bool :=
  !s.failing.isEmpty && s.failing.any fun u => overlap (8 * u) 8 a n

/-- Whether an entry of the group of a leaf that is good by itself fails its check: the walk reads them all (R310, R352). -/
def State.groupFails (s : State) (level table idx e : Nat) : Bool :=
  !s.failing.isEmpty && !s.entryBad level e && s.failingAt (groupAddr table idx e) (16 * pageSlots (entrySize e))

/-- A walk from a table at a level (R312, steps 1 and 2): the leaf entry. -/
def State.walkFrom (s : State) (va : Nat) : List (Nat × Nat) → Nat → Except Code Nat
  | [], _ => .error .pageTableInvalid
  | (level, sh) :: rest, table =>
    let idx := va / 2 ^ sh % 512
    if s.failingAt (table + 16 * idx) 16 then .error .memoryUncorrectable else
    let e := memNat s.mem (table + 16 * idx) 16
    if e % 2 == 0 then .error .pageFault
    else if entrySize e == 15 then
      let t := entryFrame e
      if level == 4 || bitsOf e 23 1 != 0 || bitsOf e 127 64 != 0 || t % 8192 != 0 || !s.present t 8192 then
        .error .pageTableInvalid
      else s.walkFrom va rest t
    else if s.groupFails level table idx e then .error .memoryUncorrectable
    else if s.leafBad level table idx e then .error .pageTableInvalid
    else .ok e

/-- The five levels with the shifts of their indices (R310, Table 4). -/
def walkLevels : List (Nat × Nat) := [(0, 48), (1, 39), (2, 30), (3, 21), (4, 12)]

/-- The walk of a virtual address in an address space. -/
def State.walk (s : State) (root va : Nat) : Except Code Nat := s.walkFrom va walkLevels root

/-- A translation of a virtual address by a leaf. -/
def transOf (root va e : Nat) : Trans :=
  let n := pageBytes (entrySize e)
  ⟨root, va / n * n, n, BitVec.ofNat 128 e⟩

/-- Cached translations of a virtual address. -/
def State.cachedFor (s : State) (root va : Nat) : List Trans :=
  s.tlb.filter fun t => t.root == root && t.va ≤ va && va < t.va + t.size

/-- The table pointers a walk from a table passes, each as the range it covers and its entry. -/
def State.pointersFrom (s : State) (root va : Nat) : List (Nat × Nat) → Nat → List Trans
  | [], _ => []
  | (_, sh) :: rest, table =>
    let e := memNat s.mem (table + 16 * (va / 2 ^ sh % 512)) 16
    if e % 2 == 0 || entrySize e != 15 then []
    else ⟨root, va / 2 ^ sh * 2 ^ sh, 2 ^ sh, BitVec.ofNat 128 e⟩ :: s.pointersFrom root va rest (entryFrame e)

/-- The translations of a virtual address that a walk finds by a table pointer of a walker cache (R313). -/
def State.walkedFor (s : State) (root va : Nat) : List Trans :=
  (s.walker.filter fun p => p.root == root && p.va ≤ va && va < p.va + p.size).filterMap fun p =>
    match s.walkFrom va (walkLevels.filter fun l => 2 ^ l.2 < p.size) (entryFrame p.entry.toNat) with
    | .ok e => some (transOf root va e)
    | .error _ => none

/-- The frames of a leaf: visible, and shadow where it has one. -/
def entryFrames (e : Nat) : List Nat := if entryShad e then [entryFrame e, entryShadow e] else [entryFrame e]

/-- ATTRIBUTE_CONFLICT (R200, R312): a live translation of a physical frame of the leaf differs in COMP. -/
def State.compConflict (s : State) (e : Nat) : Bool :=
  s.live.any fun t => entryComp t.entry.toNat != entryComp e &&
    (entryFrames t.entry.toNat).any fun f => (entryFrames e).any fun g => overlap f t.size g (pageBytes (entrySize e))

/-- Whether a leaf lacks the right an access needs (R312, step 3; R225 for PUBL). -/
def lacksRight (e : Nat) : Need → Bool
  | .load => !e.testBit 11
  | .store | .publ => !e.testBit 12
  | .both => !e.testBit 11 || !e.testBit 12
  | .fetch => !e.testBit 13

/-- One page of an access as translated. -/
structure Phys where
  /-- the byte that a load reads -/
  rd : Nat
  /-- the byte that a store writes: in the shadow frame where the page is shadowed (R224) -/
  wr : Nat
  chk : Bool
  shad : Bool
  ncl1 : Bool
  /-- the shadow set -/
  sset : Nat
  /-- bytes to the end of the page -/
  left : Nat
  /-- the visible frame -/
  frame : Nat
  deriving DecidableEq, Repr

/-- A translation applied to an address. -/
def Trans.at_ (t : Trans) (va : Nat) : Phys :=
  let e := t.entry.toNat
  let o := va - t.va
  ⟨entryFrame e + o, (if entryShad e then entryShadow e else entryFrame e) + o, entryChk e, entryShad e, entryNcl1 e,
    bitsOf e 91 80, t.size - o, entryFrame e⟩

/-- Whether a translation is the one that a fresh walk gives. -/
def isFresh (fresh : Except Code Trans) (t : Trans) : Bool :=
  match fresh with | .ok f => f == t | .error _ => false

/-- One of some old translations, by free choices: the last where none before it is taken. -/
def State.pickOld (s : State) (t : Trans) : List Trans → State × Trans
  | [] => (s, t)
  | u :: rest => if s.freeBit.1 then (s.freeBit.2, t) else s.freeBit.2.pickOld u rest

/-- Which translation an access uses, and whether it is an old one where there is one: the fresh walk's or an old one that
differs, a free choice made once per access until the TLBI, so that what an earlier page of it has taken holds for a later
one (R313, log 5). -/
def State.pickTrans (s : State) (fresh : Except Code Trans) (old : Option Bool) (l : List Trans) :
    State × Except Code Trans × Option Bool :=
  match l.filter fun t => !isFresh fresh t, old with
  | [], _ => (s, fresh, old)
  | _ :: _, some false => (s, fresh, old)
  | t :: rest, some true => let r := s.pickOld t rest; (r.1, .ok r.2, old)
  | t :: rest, none =>
    if s.freeBit.1 then let r := s.freeBit.2.pickOld t rest; (r.1, .ok r.2, some true)
    else (s.freeBit.2, fresh, some false)

/-- Some entries put with others, each once. -/
def addTrans (l new : List Trans) : List Trans := l ++ new.filter fun t => !l.contains t

/-- Translation of one address of an access (R312, R313), `old` as an earlier page of it has chosen: the machine with the
translation and the table pointers cached, or the fault; and the choice. -/
def State.xlateAs (s : State) (root va : Nat) (need : Need) (old : Option Bool) : State × Except Code Phys × Option Bool :=
  let fresh := (s.walk root va).map (transOf root va)
  let r := s.pickTrans fresh old (s.cachedFor root va ++ s.walkedFor root va)
  match r.2.1 with
  | .error c => (r.1, .error c, r.2.2)
  | .ok t =>
    let e := t.entry.toNat
    if lacksRight e need then (r.1, .error (if need == .publ then .publishInvalid else .pagePermission), r.2.2)
    else if s.tlb.contains t then (r.1, .ok (t.at_ va), r.2.2)
    else if s.compConflict e then (r.1, .error .attributeConflict, r.2.2)
    else ({ r.1 with
        tlb := r.1.tlb ++ [t]
        live := addTrans r.1.live [t]
        walker := addTrans r.1.walker (s.pointersFrom root va walkLevels root) }, .ok (t.at_ va), r.2.2)

/-- Translation of one address of an access that lies in its page. -/
def State.xlate (s : State) (root va : Nat) (need : Need) : State × Except Code Phys :=
  let r := s.xlateAs root va need none
  (r.1, r.2.1)

/-- A machine with what the walks of another have cached, and the choices they have made (R200, R312). -/
def State.walkedBy (s t : State) : State := { s with tlb := t.tlb, live := t.live, walker := t.walker, fresh := t.fresh }

/-- A part of an access that lies in one page. -/
structure Piece where
  va : Nat
  len : Nat
  phys : Phys
  deriving DecidableEq, Repr

/-- Translation of a run of at most 4,096 bytes: one page or two (R202). The fault names the first byte that fails. -/
def State.xlateRun (s : State) (root va n : Nat) (need : Need) : State × Except (Code × Nat) (List Piece) :=
  let r := s.xlateAs root va need none
  match r.2.1 with
  | .error c => (r.1, .error (c, va))
  | .ok p =>
    if n ≤ p.left then (r.1, .ok [⟨va, n, p⟩]) else
    let r := r.1.xlateAs root (va + p.left) need r.2.2
    match r.2.1 with
    | .error c => (r.1, .error (c, va + p.left))
    | .ok q => (r.1, .ok [⟨va, p.left, p⟩, ⟨va + p.left, n - p.left, q⟩])

/-- Cached translations and table pointers removed (R313); the tags of a page whose last checked translation goes are
discarded (R190), and crews that run on and have loaded through one that goes are rolled back (R193). -/
def State.dropTrans (s : State) (gone : Trans → Bool) : State :=
  let keep := s.live.filter fun t => !gone t
  let frames (l : List Trans) := (l.filter fun t => entryChk t.entry.toNat).flatMap fun t =>
    (entryFrames t.entry.toNat).map (·, t.size)
  let live := frames keep
  let dead := frames (s.live.filter gone)
  let hit (l : List (Nat × Nat)) (a : Nat) := l.any fun f => f.1 ≤ a && a < f.1 + f.2
  { s with
    tlb := s.tlb.filter fun t => !gone t
    live := keep
    walker := s.walker.filter fun t => !gone t
    tags := if dead.isEmpty then s.tags else
      (s.tags.map fun b => if hit dead b.1 && !hit live b.1 then (b.1, { b.2 with accs := [] }) else b).filter
        fun b => !(b.2.accs.isEmpty && b.2.rel.isEmpty) : State }.rollReaders
    ((s.live.filter gone).map fun t => (entryFrame t.entry.toNat, t.size))

end Sys2Proof.Machine
end

