-- ==== Sys2Proof/Machine/Access.lean ====
section
/-! DEFINITION. Accesses of crews to scratchpad and global memory: the checks of R203 in order, reads, writes, race tags,
releases, the run-on's signature and buffer (R176 to R195, R202 to R209, R287 to R289), and what observes an access:
watchpoints (R359), bank stalls (R362), reuse histograms (R361). -/

namespace Sys2Proof.Machine

/-- How an access uses the bytes: a read, a write, or an exchange or atomic. -/
inductive Way where
  | load | store | both
  deriving DecidableEq, Repr

/-- The right a way of access needs (R312). -/
def Way.need : Way → Need
  | .load => .load | .store => .store | .both => .both

/-- ACCESS of a fault record (R349). -/
def Way.code : Way → Nat
  | .load => 1 | .store | .both => 2

/-- The access of one thread before it is checked: a virtual address or a scratchpad offset. -/
structure AReq where
  t : Nat
  addr : Int
  deriving DecidableEq, Repr

/-- The access of one thread after its checks, with its pages in global space. -/
structure Acs where
  t : Nat
  addr : Nat
  n : Nat
  pieces : List Piece
  deriving DecidableEq, Repr

/-- Bytes of a workgroup's scratchpad allocation (R44). -/
def Wg.scrSize (w : Wg) : Nat := w.scrgran * 4096

/-- Effective region values when a launch is gone: none. -/
def Eff.zero : Eff := ⟨0, 0, false, 0, 0, 0, 0, 0, 0, 0, 0, 0, 0, 0, 0, 0, 0⟩

/-- The effective region values of the crew at hand. -/
def Ctx.eff (x : Ctx) : Eff := (x.s.effOf x.w).getD .zero

/-- A crew's identity in race tags (R189). -/
def crewWho (w : Wg) (c : Crew) : Who := .crew w.region w.launch w.index w.uid c.idx

/-- An access by the crew at hand. -/
def Ctx.access (x : Ctx) (write strong : Bool) : Access :=
  ⟨crewParty x.c, x.c.clock, strong, write, crewWho x.w x.c⟩

/-- THISKIND and OTHERKIND of a race detail (R189). -/
def raceKind (strong write : Bool) : Nat := (if strong then 2 else 0) + (if write then 1 else 0)

/-- OTHERPARTY, OTHERCREW, COPYSLOT and OTHERWG at their places, as the later party's region sees the earlier (R189). -/
def otherBits (me other : Who) : Nat :=
  let region : Who → Nat
    | .crew r _ _ _ _ | .copy r _ _ _ _ | .bulk r => r
  if region me != region other then 4 * 2 ^ 55 else
  match other with
  | .crew _ node wgid wg idx =>
    let k := match me with
      | .crew _ node' _ wg' _ | .copy _ node' _ wg' _ => if wg' == wg then 0 else if node' == node then 1 else 2
      | .bulk _ => 2
    k * 2 ^ 55 + idx * 2 ^ 50 + wgid.toNat
  | .copy _ _ wgid _ slot => 3 * 2 ^ 55 + slot * 2 ^ 44 + wgid.toNat
  | .bulk _ => 5 * 2 ^ 55

/-- The race detail (R189, Table 6). -/
def raceDetail (space addr : Nat) (a : Access) (o : Acc) : Nat :=
  addr * 2 ^ 64 + space * 2 ^ 62 + raceKind a.strong a.write * 2 ^ 60 + raceKind o.strong o.write * 2 ^ 58 +
    otherBits a.who o.who

/-- ADDRESS_RANGE (R43, R203 step 1) of the lowest thread that fails it. -/
def rangeFault (way : Way) (n : Nat) (l : List AReq) : Option Flt :=
  (l.find? fun r => (2 ^ 57 : Int) < r.addr + n).map fun r =>
    { code := .addressRange, addr := max r.addr.toNat (2 ^ 57), access := way.code }

/-- ALIGNMENT (R203 step 2). -/
def alignFault (way : Way) (n : Nat) (l : List AReq) : Option Flt :=
  (l.find? fun r => r.addr % (n : Int) != 0).map fun r =>
    { code := .alignment, addr := (r.addr % (2 : Int) ^ 64).toNat, access := way.code }

/-- SCRATCH_BOUND (R44, R58, R203 step 3): a negative offset is reported modulo 2^64. -/
def boundFault (way : Way) (size n : Nat) (l : List AReq) : Option Flt :=
  (l.find? fun r => decide (r.addr < 0) || decide ((size : Int) < r.addr + (n : Int))).map fun r =>
    let a : Nat := if r.addr < 0 then (r.addr % (2 : Int) ^ 64).toNat else max r.addr.toNat size
    { code := .scratchBound, access := way.code, addr := a }

/-- Translation and permission of every thread's bytes (R203 step 4). -/
def xlateAll (root : Nat) (way : Way) (n : Nat) : State → List AReq → State × Except Flt (List Acs)
  | s, [] => (s, .ok [])
  | s, r :: rest =>
    let a := s.xlateRun root r.addr.toNat n way.need
    match a.2 with
    | .error e => (a.1, .error { code := e.1, addr := e.2, access := way.code })
    | .ok ps =>
      let b := xlateAll root way n a.1 rest
      (b.1, b.2.map fun l => ⟨r.t, r.addr.toNat, n, ps⟩ :: l)

/-- SHADOW_ACCESS of an exchange or atomic (R203 step 5). -/
def shadowFault (l : List Acs) : Option Flt :=
  ((l.flatMap (·.pieces)).find? (·.phys.shad)).map fun p => { code := .shadowAccess, addr := p.va, access := 2 }

/-- The byte a piece stands for: what a load reads, or what a store writes. -/
def Piece.at_ (p : Piece) (way : Way) : Nat := if way == .load then p.phys.rd else p.phys.wr

/-- The runs of an access in race tags, with their virtual addresses: all of a scratchpad access, the checked pages of a
global one (R187). -/
def Acs.tagRuns (a : Acs) (scratch : Bool) (way : Way) : List (Nat × Nat × Nat) :=
  if scratch then [(a.addr, a.addr, a.n)]
  else (a.pieces.filter (·.phys.chk)).map fun p => (p.at_ way, p.va, p.len)

/-- The lowest conflicting byte of some accesses, the access that it is of, and the earliest access it conflicts with (R188,
R189). -/
def findRace (tags : Tags) (runs : List (Access × Nat × Nat × Nat)) : Option (Nat × Access × Acc) :=
  runs.foldl (fun best r =>
    match runRace tags r.1 r.2.1 r.2.2.2 with
    | none => best
    | some (b, o) =>
      let va := r.2.2.1 + (b - r.2.1)
      match best with
      | some (v, _) => if va < v then some (va, r.1, o) else best
      | none => some (va, r.1, o)) none

/-- The runs of some accesses in race tags, each with its access: what happens before it is its own (R182). -/
def tagged (scratch : Bool) (way : Way) (a : Acs → Access) (l : List Acs) : List (Access × Nat × Nat × Nat) :=
  l.flatMap fun x => (x.tagRuns scratch way).map (a x, ·)

/-- MEMORY_RACE (R203 step 6). -/
def raceFault (tags : Tags) (scratch : Bool) (way : Way) (a : Acs → Access) (l : List Acs) : Option Flt :=
  (findRace tags (tagged scratch way a l)).map fun r =>
    { code := .memoryRace, addr := r.1, access := way.code
      detail := raceDetail (if scratch then 1 else 0) r.1 r.2.1 r.2.2 }

/-- Bits of an element of a weight format or, from 0 to 7, of an activation format (R68, R152). -/
def matBits (fmt : Nat) : Nat := [8, 8, 4, 8, 8, 4, 16, 16, 8, 4, 8, 4, 8, 4, 8, 3].getD fmt 8

/-- The scratchpad ranges that an MTILE run reads (R164, R165): rows of the active threads, chunks of B, scales. -/
def MTile.reads (m : MTile) : List (Nat × Nat) :=
  ((members m.mask).map fun t => (m.abase + t * m.astride, m.klen * matBits m.act / 8)) ++
  [(m.bbase, m.klen * 8 * matBits m.wfmt)] ++ (if 8 ≤ m.wfmt then [(m.sbase, m.klen * 4)] else [])

/-- Whether a byte lies in a word that an MTILE claims (R165). -/
def MTile.claims (m : MTile) (a : Nat) : Bool := m.reads.any fun r => overlap (a / 4 * 4) 4 r.1 r.2

/-- The lowest byte of some scratchpad ranges that an MTILE of another crew claims, and the access that holds the claim
(R165). -/
def Wg.claimed (w : Wg) (who : Nat → Who) (me : Option Nat) (l : List (Nat × Nat)) : Option (Nat × Acc) :=
  (l.flatMap fun r => (List.range r.2).map (r.1 + ·)).findSome? fun a =>
    (w.mtiles.find? fun m => me != some m.idx && m.claims a).map fun m => (a, ⟨m.party, m.epoch, false, false, who m.idx⟩)

/-- The race of a store with a claim (R165). -/
def Ctx.claimFault (x : Ctx) (a : Access) (l : List Acs) : Option Flt :=
  (x.w.claimed (fun i => .crew x.w.region x.w.launch x.w.index x.w.uid i) (some x.c.idx) (l.map fun r => (r.addr, r.n))).map
    fun r => { code := .memoryRace, addr := r.1, access := 2, detail := raceDetail 1 r.1 a r.2 }

/-- MEMORY_UNCORRECTABLE (R203 step 7, R352). -/
def failingFault (s : State) (w : Wg) (scratch : Bool) (way : Way) (l : List Acs) : Option Flt :=
  let mk (a : Nat) : Flt := { code := .memoryUncorrectable, addr := a, access := way.code }
  if scratch then
    if w.scrFailing.isEmpty then none else
    l.findSome? fun x => ((List.range x.n).find? fun k => w.scrFailing.contains ((x.addr + k) / 4)).map fun k => mk (x.addr + k)
  else if s.failing.isEmpty then none else
    (l.flatMap (·.pieces)).findSome? fun p =>
      ((List.range p.len).find? fun k => s.failing.contains ((p.at_ way + k) / 8)).map fun k => mk (p.va + k)

/-- Whether a workgroup is a shadow, whose global stores are not performed and which leaves no tags (R357). -/
def Wg.isShadow (w : Wg) : Bool := w.shadowOf.isSome

/-- What happens before accesses through published mappings (R182, R196), whatever address space they are made in: a
party's clock after them. -/
def State.pubClock (s : State) (clk : Clock) (l : List Piece) : Clock :=
  if s.pubs.isEmpty then clk else
  l.foldl (fun k p => if !p.phys.shad then k else
    match s.pubs.find? fun q => q.1 == p.phys.frame with
    | some q => clkJoin k q.2.2
    | none => k) clk

/-- The access of one thread of the crew at hand: it comes after the publishes whose mappings it uses itself (R182, R196). -/
def Ctx.accessAt (x : Ctx) (write strong : Bool) (a : Acs) : Access :=
  { x.access write strong with clock := x.s.pubClock x.c.clock a.pieces }

/-- The crew at hand after every publish whose mapping its accesses use (R196). -/
def Ctx.afterPubl (x : Ctx) (l : List Acs) : Ctx :=
  { x with c := { x.c with clock := x.s.pubClock x.c.clock (l.flatMap (·.pieces)) } }

/-- The checks of R203 in order over all active threads; `old` when bytes are read. A shadow run checks no race (R357). -/
def Ctx.check (x : Ctx) (scratch : Bool) (way : Way) (cls : Nat) (align old : Bool) (n : Nat) (l : List AReq) :
    Except Flt (State × List Acs) :=
  match (if scratch then none else rangeFault way n l), (if align then alignFault way n l else none),
      (if scratch then boundFault way x.w.scrSize n l else none) with
  | some f, _, _ => .error f
  | none, some f, _ => .error f
  | none, none, some f => .error f
  | none, none, none =>
    let r := if scratch then (x.s, .ok (l.map fun r => ⟨r.t, r.addr.toNat, n, []⟩))
      else xlateAll x.eff.ptroot way n x.s l
    match r.2 with
    | .error f => .error f
    | .ok accs =>
      let shad := if way == .both && !scratch then shadowFault accs else none
      let race := if cls == 0 || x.w.isShadow then none
        else raceFault (if scratch then x.w.stags else x.s.tags) scratch way (x.accessAt (way != .load) (cls == 2)) accs
      let race := if race.isNone && scratch && way != .load && !x.w.isShadow then x.claimFault (x.access true (cls == 2)) accs else race
      let bad := if old then failingFault x.s x.w scratch way accs else none
      match shad, race, bad with
      | some f, _, _ => .error f
      | none, some f, _ => .error f
      | none, none, some f => .error f
      | none, none, none => .ok (r.1, accs)

/-- The machine with what the walks of an access cache, whether its checks pass or not (R200, R203, R312): none where an
earlier check fails. -/
def Ctx.walked (x : Ctx) (scratch : Bool) (way : Way) (align : Bool) (n : Nat) (l : List AReq) : State :=
  if scratch || (rangeFault way n l).isSome || (align && (alignFault way n l).isSome) then x.s
  else (xlateAll x.eff.ptroot way n x.s l).1

/-- Whether a region lies in the subtree of another, itself included, as their blocks were read last. -/
def State.inSubtree (s : State) (region top : Nat) : Bool :=
  region == top || (s.region? region).any fun r => r.parents.contains top

/-- Whether the debug interface is attached to a workgroup's region (R358). -/
def State.attached (s : State) (w : Wg) : Bool :=
  match s.dbg.region with
  | some top => s.wgUnder w top
  | none => false

/-- Whether an access overlaps an enabled watchpoint of a matching kind (R359). -/
def watchHit (s : State) (w : Wg) (scratch : Bool) (way : Way) (l : List Acs) : Bool :=
  s.attached w && s.dbg.watch.any fun p => match p with
    | none => false
    | some p => p.space == (if scratch then 1 else 0) && (!scratch || p.wgid == w.index) &&
        ((p.onRead && way != .store) || (p.onWrite && way != .load)) &&
        l.any fun a => overlap a.addr a.n p.base p.size

/-- Whether a store to the multicast-reduce window overlaps an enabled watchpoint of that space (R359): window addresses
and bytes. -/
def windowHit (s : State) (w : Wg) (l : List (Nat × Nat)) : Bool :=
  s.attached w && s.dbg.watch.any fun p => match p with
    | none => false
    | some p => p.space == 2 && p.onWrite && l.any fun a => overlap a.1 a.2 p.base p.size

/-- Stalls of one pass: the largest number of distinct words in one bank, less one (R362). -/
def passStall (words : List Nat) : Nat :=
  let l := words.eraseDups
  (l.foldl (fun m x => max m (l.countP fun y => y % 32 == x % 32)) 1) - 1

/-- Bank stalls of scratchpad accesses over the four passes (R362). -/
def bankStalls (l : List (Nat × Nat × Nat)) : Nat :=
  ([0, 1, 2, 3].map fun q => passStall ((l.filter fun a => a.1 / 8 == q).flatMap fun a =>
    (List.range ((a.2.1 % 4 + a.2.2 + 3) / 4)).map (a.2.1 / 4 + ·))).sum

/-- The core of the crew at hand. -/
def Ctx.coreNo (x : Ctx) : Nat := x.w.core.getD 0

/-- SCRSTALL moved on (R362). -/
def Ctx.stallBanks (x : Ctx) (l : List (Nat × Nat × Nat)) : Ctx :=
  let n := bankStalls l
  if n == 0 then x
  else { x with s := x.s.modCore x.coreNo fun k => { k with scrstall := k.scrstall + BitVec.ofNat 64 n } }

/-- The channels whose histograms watch a region, each with its HRATE (R361). -/
def State.histChans (s : State) (region : Nat) : List (Nat × Nat) :=
  (s.port.chans.zipIdx.filter fun ch => ch.1.ctl.getLsbD 1 && (ch.1.ctl.extractLsb' 32 32).toNat == region / 512).map fun ch =>
    (ch.2, (ch.1.ctl.extractLsb' 2 4).toNat)

/-- One more in a bucket of a launch's histogram (R361). -/
def State.bump (s : State) (launch b : Nat) : State :=
  match s.node? launch with
  | some n => s.setNode { n with hist := n.hist.modify b (· + 1) }
  | none => s

/-- The bucket of a count (R361). -/
def bucketOf (n : Nat) : Nat := if n == 0 then 0 else Nat.log2 n

/-- One L1 access of a crew to a physical line (R361): a tag register of the line counts its reuse, whichever launch it
was sampled for, and is freed; the registers of the crew's launch count the access; each channel of the crew's region counts it,
and a line is sampled where one is due. -/
def State.l1Access (s : State) (core launch : Nat) (chans : List (Nat × Nat)) (line : Nat) : State :=
  let k := s.core core
  let s := (k.htags.filter (·.line == line)).foldl (fun s h => s.bump h.launch (bucketOf h.count)) s
  let spent (h : HTag) : Bool := h.launch == launch && h.count + 1 == 2 ^ 32
  let s := if k.htags.any fun h => h.line != line && spent h then s.bump launch 32 else s
  let tags := (k.htags.filter fun h => h.line != line && !spent h).map fun h =>
    if h.launch == launch then { h with count := h.count + 1 } else h
  let counts := chans.foldl (fun m c => mapSet m c.1 ((mapGet m c.1).getD 0 + 1)) k.l1count
  let take := chans.any (fun c => (mapGet counts c.1).getD 0 % 2 ^ (10 + c.2) == 0) && tags.length < 16
  let s := if take then
      match s.node? launch with
      | some nd => s.setNode { nd with samples := nd.samples + 1 }
      | none => s
    else s
  s.modCore core fun k => { k with l1count := counts, htags := if take then tags ++ [⟨line, launch, 0⟩] else tags }

/-- The L1 accesses of an instruction, one per thread and line, ascending, by the line that each access uses (R361). -/
def Ctx.countL1 (x : Ctx) (way : Way) (l : List Acs) : Ctx :=
  let chans := x.s.histChans x.w.region
  if chans.isEmpty && (x.s.core x.coreNo).htags.isEmpty then x else
  let lines := l.flatMap fun a => a.pieces.flatMap fun p =>
    [p.at_ way / 128] ++ (if (p.at_ way + p.len - 1) / 128 != p.at_ way / 128 then [p.at_ way / 128 + 1] else [])
  { x with s := lines.foldl (fun s q => s.l1Access x.coreNo x.w.launch chans (q * 128)) x.s }

/-! Reads -/

/-- A byte of memory with the releases its value carries. -/
def State.held (s : State) (a : Nat) : Byte × List Rel := (memByte s.mem a, relsOf s.tags a 1)

/-- Bytes read through a non-coherent-L1 mapping, with the releases they carry (R199): a line that the core holds may be
stale, chosen per access; a line fetched is held as it stands. -/
def State.readNcl1 (s : State) (core : Nat) (a n : Nat) : State × List Byte × List Rel :=
  let held := (s.core core).ncl1
  let now := (List.range n).map fun k => s.held (a + k)
  let old := (List.range n).map fun k => (mapGet held (a + k)).getD (s.held (a + k))
  let pick (l : List (Byte × List Rel)) : List Byte × List Rel := (l.map (·.1), (l.flatMap (·.2)).eraseDups)
  let first := a / 128 * 128
  let len := (a + n + 127) / 128 * 128 - first
  let fetch (s : State) : State := s.modCore core fun k =>
    { k with ncl1 := (List.range len).foldl (fun l i => mapSet l (first + i) (s.held (first + i))) k.ncl1 }
  let absent := (List.range len).any fun i => (mapGet held (first + i)).isNone
  if old == now then (if absent then fetch s else s, pick now)
  else if s.freeBit.1 then (s.freeBit.2, pick old) else (fetch s.freeBit.2, pick now)

/-- The bytes of one access as memory holds them, with the releases they carry. -/
def readPieces (core : Nat) : State → List Piece → State × List Byte × List Rel
  | s, [] => (s, [], [])
  | s, p :: rest =>
    let a := if p.phys.ncl1 then s.readNcl1 core p.phys.rd p.len
      else (s, memRead s.mem p.phys.rd p.len, relsOf s.tags p.phys.rd p.len)
    let b := readPieces core a.1 rest
    (b.1, a.2.1 ++ b.2.1, a.2.2 ++ b.2.2)

/-- The addresses of an access byte by byte: offsets, or physical bytes as read or as written, with CHK. -/
def Acs.bytesAt (a : Acs) (scratch : Bool) (way : Way) : List (Nat × Bool) :=
  if scratch then (List.range a.n).map fun k => (a.addr + k, true)
  else a.pieces.flatMap fun p => (List.range p.len).map fun k => (p.at_ way + k, p.phys.chk)

/-- The newest buffered byte of a running-on crew at an address (R288). -/
def RunOn.buffered (r : RunOn) (scratch : Bool) (a : Nat) : Option Byte :=
  (((r.buf.filter (·.scratch == scratch)).flatMap (·.bytes)).reverse.find? (·.1 == a)).map (·.2)

/-- A run-on with the bytes of a load (R287): those of its own buffered stores are kept apart, for the tags alone (R187,
R193). -/
def RunOn.sign (r : RunOn) (scratch plain : Bool) (l : List (Nat × Bool)) : RunOn :=
  { r with sig := l.foldl (fun sig b =>
      let own := (r.buffered scratch b.1).isSome
      let noted := plain && b.2
      if (own && !noted) || sig.any (fun e => e.scratch == scratch && e.addr == b.1 && e.own == own && (e.noted || !noted))
      then sig else sig ++ [⟨scratch, b.1, noted, own⟩]) r.sig }

/-- One thread's bytes read: merged with the run-on's buffer, entered in the signature or noted in the tags, releases
acquired by a strong read (R180, R181, R187, R287, R288). `cls`: 0 weak, 1 plain, 2 strong. DESIGN CHOICE (log 6): of the
values that R185 and R186 permit a weak or unordered read it takes the last write of this interleaving. -/
def Ctx.readOne (x : Ctx) (scratch : Bool) (cls : Nat) (a : Acs) : Ctx × List Byte :=
  let r := if scratch then (x.s, memRead x.w.scr a.addr a.n, relsOf x.w.stags a.addr a.n)
    else readPieces x.coreNo x.s a.pieces
  let x := { x with s := r.1 }
  let places := a.bytesAt scratch .load
  match x.c.runon with
  | some ro =>
    let bytes := (places.zip r.2.1).map fun p => (ro.buffered scratch p.1.1).getD p.2
    let ro := { ro with pubs := x.s.pubClock ro.pubs a.pieces }
    ({ x with c := { x.c with runon := some (ro.sign scratch (cls != 0) places) } }, bytes)
  | none =>
    let acc := x.accessAt false (cls == 2) a
    let x := if cls == 0 then x
      else if scratch then { x with w := { x.w with stags := noteAccess x.w.stags acc a.addr a.n } }
      else if x.w.isShadow then x
      else { x with s := { x.s with tags := (a.tagRuns false .load).foldl (fun t q => noteAccess t acc q.1 q.2.2) x.s.tags } }
    let x := if cls != 2 then x
      else { x with c := x.c.acquireRels (crewPlace x.w x.c) (spaceScope scratch) r.2.2 }
    (x, r.2.1)

/-- All threads' bytes read, ascending; what follows comes after every publish whose mapping they used (R182, R196). -/
def Ctx.readAll (x : Ctx) (scratch : Bool) (cls : Nat) : List Acs → Ctx × List (Nat × List Byte)
  | [] => (x, [])
  | a :: rest =>
    let r := x.readOne scratch cls a
    let q := r.1.readAll scratch cls rest
    (if q.1.c.runon.isSome then q.1 else q.1.afterPubl [a], (a.t, r.2) :: q.2)

/-! Writes -/

/-- What a store makes of the releases its bytes carry (R181): a plain one clears them, a strong one sets its own, an
atomic adds its own. -/
inductive RelMark where
  | clear
  | set (r : Rel)
  | chain (r : Rel)
  deriving DecidableEq, Repr

/-- The releases of a run of bytes after a store. -/
def RelMark.mark (m : RelMark) (t : Tags) (a n : Nat) : Tags :=
  match m with
  | .clear => setRel t [] a n
  | .set r => setRel t [r] a n
  | .chain r => chainRel t r a n

/-- Global bytes written at a physical address by a party, for a launch or for none: tags where the access is checked, the
releases of the bytes, failing units repaired, run-ons rolled back. -/
def State.writePhys (s : State) (launch : Option Nat) (acc : Option Access) (rel : RelMark) (me : Option CrewRef) (a : Nat)
    (bs : List Byte) : State :=
  let s := s.codeWrite launch a bs
  let tags := match acc with | some k => noteAccess s.tags k a bs.length | none => s.tags
  ({ s with
      mem := memWrite s.mem a bs
      tags := rel.mark tags a bs.length
      failing := s.failing.filter fun u => !(a ≤ 8 * u && 8 * u + 8 ≤ a + bs.length) }).hitRunons none me a bs.length

/-- Scratchpad bytes written by a party, within the workgroup. -/
def Wg.writeScr (w : Wg) (acc : Option Access) (rel : RelMark) (a : Nat) (bs : List Byte) : Wg :=
  let tags := match acc with | some k => noteAccess w.stags k a bs.length | none => w.stags
  { w with
    scr := memWrite w.scr a bs
    stags := rel.mark tags a bs.length
    scrFailing := w.scrFailing.filter fun u => !(a ≤ 4 * u && 4 * u + 4 ≤ a + bs.length) }

/-- One thread's bytes landed (R181, R187): DESIGN CHOICE (log 6): a weak store lands too, where R186 lets it be elided. -/
def Ctx.writeWith (x : Ctx) (rel : RelMark) (scratch : Bool) (cls : Nat) (way : Way) (a : Acs) (bs : List Byte) : Ctx :=
  let acc := if cls == 0 then none else some (x.accessAt true (cls == 2) a)
  if scratch then
    let x := { x with w := x.w.writeScr acc rel a.addr bs }
    { x with s := x.s.hitRunons (some x.w.uid) (some x.c.ref) a.addr a.n }
  else
    let x := if x.w.isShadow || x.w.sampled then { x with c := { x.c with crc := x.c.crc ++ leBytes a.addr 8 ++ bs } } else x
    if x.w.isShadow then x else
    let go := a.pieces.foldl (fun (p : State × List Byte) q =>
      let s := p.1.writePhys (some x.w.launch) (if q.phys.chk then acc else none) rel (some x.c.ref) (q.at_ way)
        (p.2.take q.len)
      let s := s.modCore x.coreNo fun k =>
        if k.ncl1.isEmpty then k else
        { k with ncl1 := k.ncl1.map fun e =>
            if q.at_ way ≤ e.1 && e.1 < q.at_ way + q.len then (e.1, s.held e.1) else e }
      (s, p.2.drop q.len)) (x.s, bs)
    { x with s := go.1 }

/-- The bytes of a store or exchange landed: a strong one is a release (R180) of what happens before it, the publish whose
mapping it uses among that (R196). -/
def Ctx.writeOne (x : Ctx) (scratch : Bool) (cls : Nat) (way : Way) (a : Acs) (bs : List Byte) : Ctx :=
  x.writeWith (if cls == 2 then .set ((x.afterPubl [a]).c.rel x.w scratch) else .clear) scratch cls way a bs

/-- The bytes of an atomic landed: a release, in the chain of those before it (R180, R181). -/
def Ctx.writeAtom (x : Ctx) (scratch : Bool) (a : Acs) (bs : List Byte) : Ctx :=
  x.writeWith (.chain (x.c.rel x.w scratch)) scratch 2 .both a bs

/-- All threads' bytes written, ascending (R204); what follows comes after every publish whose mapping they used (R196). -/
def Ctx.writeAll (x : Ctx) (scratch : Bool) (cls : Nat) (way : Way) : List (Acs × List Byte) → Ctx
  | [] => x
  | p :: rest => ((x.writeOne scratch cls way p.1 p.2).writeAll scratch cls way rest).afterPubl [p.1]

/-- Sectors a running-on crew's buffer holds (R288). -/
def RunOn.sectors (r : RunOn) : List (Bool × Nat) :=
  (r.buf.flatMap fun b => b.bytes.map fun e => (b.scratch, e.1 / 32)).eraseDups

/-- Whether a store would need a sector that neither the crew's share nor the core's buffer has (R288). -/
def Ctx.bufferFull (x : Ctx) (r : RunOn) (b : BufStore) : Bool :=
  let mine := r.sectors.length
  let new := ({ r with buf := r.buf ++ [b] } : RunOn).sectors.length
  let others := ((x.s.crews.filter fun c => c.ref != x.c.ref && (x.s.wg? c.wg).any (·.core == x.w.core)).map fun c =>
    match c.runon with | some q => q.sectors.length | none => 0).sum
  mine < new && (64 < new || 512 < new + others)

/-- The stop of a crew at a watchpoint (R359). -/
def Ctx.watchStop (x : Ctx) : Res :=
  if x.c.runon.isSome then .fault { code := .pageFault }
  else .keep { x with c := x.c.halt .breakpoint }

/-! The end of a phase -/

/-- The record of a class H store (R208): per active thread the address and the old bytes it overwrites, threads in
order (R204). -/
def oldBytes (scr : Bool) : Ctx → List (Acs × List Byte) → List (Nat × List Byte)
  | _, [] => []
  | x, p :: rest =>
    let old := if scr then memRead x.w.scr p.1.addr p.1.n else p.1.pieces.flatMap fun q => memRead x.s.mem q.phys.wr q.len
    (p.1.addr, old) :: oldBytes scr (x.writeOne scr 0 .store p.1 p.2) rest

/-- The wake with the old bytes of the store at a count as they are when it lands (R193, R208). -/
def rerecord (ic : DWord) (old : List (Nat × List Byte)) (l : List WakeRec) : List WakeRec :=
  l.map fun r => match r.body with
    | .store scr size _ => if r.ic == ic then { r with body := .store scr size old } else r
    | _ => r

/-- The buffered stores of a running-on crew as accesses (R289): address, bytes and pages again; its record holds what the
bytes were at its place after the wait (R193), and it comes after the publishes that the loads before it used (R196). -/
def State.drainOne (s : State) (w : Wg) (c : Crew) (b : BufStore) : Except State (State × Wg × Crew) :=
  let cls := if b.plain then 1 else 0
  let x : Ctx := ⟨s, c.acquire [b.pubs], w, c.pc, false⟩
  let data : List (List Byte) := b.entries.map fun e => e.2
  let n := (data.head?.map List.length).getD 0
  let reqs : List AReq := b.entries.map fun e => ⟨0, (e.1 : Int)⟩
  match x.check b.scratch .store cls false true n reqs with
  | .error _ => .error (x.walked b.scratch .store false n reqs)
  | .ok (s', accs) =>
    let x := { x with s := s' }
    let old := oldBytes b.scratch x (accs.zip data)
    let x := x.writeAll b.scratch cls .store (accs.zip data)
    .ok (x.s, x.w, { x.c with wake := rerecord b.ic old x.c.wake })

/-- All buffered stores, oldest first; or the machine with what the walks cached before a check failed. -/
def State.drain (s : State) (w : Wg) (c : Crew) : List BufStore → Except State (State × Wg × Crew)
  | [] => .ok (s, w, c)
  | b :: rest =>
    match s.drainOne w c b with
    | .ok r => r.1.drain r.2.1 r.2.2 rest
    | .error t => .error t

/-- Loads of a run-on noted as accesses after the wait (R193, R321). -/
def noteSig (s : State) (w : Wg) (acc : Access) (l : List SigByte) : State × Wg :=
  l.foldl (fun (p : State × Wg) e =>
    if !e.noted then p
    else if e.scratch then (p.1, { p.2 with stags := noteAccess p.2.stags acc e.addr 1 })
    else ({ p.1 with tags := noteAccess p.1.tags acc e.addr 1 }, p.2)) (s, w)

/-- A crew's clock after a wait for a phase returns (R191, R192): what the phase's participants released, where it is one
of them, and the landed bytes that the phase counted. -/
def Crew.afterPhase (c : Crew) (ph : Option PhaseClk) : Crew :=
  match ph with
  | none => c
  | some k => { c with clock := clkJoin (if k.who.contains c.idx then clkJoin c.clock k.crews else c.clock) k.copies }

/-- A running-on crew whose phase has completed (R289): its wait reads the object and acquires the phase, its reads enter the
tags, its stores drain, and the reads of its own stores enter the tags after them; what follows comes after the publishes
whose mappings the reads used (R196). Or a check fails and it is rolled back.
A wait that could not have read its object ends so too (R193, R352). -/
def State.endRunOn (s : State) (ref : CrewRef) (ph : Option PhaseClk) : State :=
  match s.crew? ref, s.wg? ref.wg with
  | some c, some w =>
    match c.runon with
    | none => s
    | some r =>
      let c1 := { c with runon := none }.afterPhase ph
      let acc (strong : Bool) : Access := ⟨crewParty c1, c1.clock, strong, false, crewWho w c1⟩
      let p := noteSig s { w with stags := noteAccess w.stags (acc true) r.off 16 } (acc false) (r.sig.filter (!·.own))
      let unread := (failingFault s w true .load [⟨0, r.off, 16, []⟩]).isSome
      match if unread then .error s else p.1.drain p.2 c1 r.buf with
      | .ok (s', w', c') =>
        let p := noteSig s' w' (acc false) (r.sig.filter (·.own))
        let s' := p.1
        let w' := p.2
        let c' := c'.acquire [r.pubs]
        let c' := if c'.st == .stalled && c'.wait == .runon then { c' with st := .ready, wait := .none } else c'
        ({ s' with snaps := s'.snaps.filter fun k => !(k.wg == ref.wg && k.idx == ref.idx) }.setWg w').setCrew c'
      | .error t => let b := (s.walkedBy t).rolledBack c; b.1.setCrew b.2
  | _, _ => s

/-- Every YIELD of a workgroup ended by an event of R293. -/
def State.wakeYields (s : State) (wg : Nat) : State :=
  s.modCrews wg fun c => match c.wait with
    | .yield _ => { c with wait := .yield 0 }
    | _ => c

/-- A phase of a barrier object has completed (R289, R293, R295): running-on crews of that object end their run-on, in
ascending crew index; the watchdog is cleared. -/
def State.phaseDone (s : State) (wg off : Nat) (ph : PhaseClk) : State :=
  let s := (s.crewsOf wg).foldl (fun s c =>
    if c.runon.any fun r => r.off == off && r.phase == ph.phase then s.endRunOn c.ref (some ph) else s) s
  let s := s.wakeYields wg
  { s with wgs := s.wgs.map fun w => if w.uid == wg then { w with hang := 0 } else w }

end Sys2Proof.Machine
end

