-- ==== Sys2Proof/WellFormed.lean ====
section
/-! DEFINITION. Well-formed instructions: what a term of Instr must meet to stand for a word the spec admits by its
encoding alone (R53 to R65, R70). Steps of the device that are no word are well formed when their arguments name
something the device could have. -/

namespace Sys2Proof

open Machine

/-- A CPY sub-op that Table 13 assigns (R69): transform 11 never, expand 2:4 only from global to scratchpad. -/
def cpySelOk (sel : BitVec 6) : Bool :=
  let t := sel.extractLsb' 2 2
  t != 3 && (t != 2 || sel.extractLsb' 4 2 == 1)

/-- Whether the selector bits of a sub-op lie in an assigned range (R68, R69). -/
def selOk : Instr → Bool
  | .fenceAcq sel _ | .fenceRel sel _ | .fence sel _ => sel.toNat < 6
  | .cpy sel _ => cpySelOk sel
  | _ => true

/-- A watchpoint range: a power of two from 4 bytes to 4 KiB, aligned to its size (R359). -/
def Watchpoint.ok (p : Watchpoint) : Bool :=
  [4, 8, 16, 32, 64, 128, 256, 512, 1024, 2048, 4096].contains p.size && p.base % p.size == 0 && p.space < 3

/-- Whether the arguments of a step that is no word are in range. -/
def eventOk : Instr → Bool
  | .workgroupPlace _ core spots _ | .workgroupRestore _ core spots =>
    core < 256 && spots.all (fun s => s.sched < 4 && s.slot < 16)
  | .pcSample core sched => core < 256 && sched < 4
  | .timingReplay core | .coreRemoval core _ => core < 256
  | .dvfsAdjust src dst mhz => src < 256 && dst < 256 && mhz ≤ 1800
  | .controlNodeRead addr len => 1 ≤ len && len ≤ 256 && addr % 256 + len ≤ 256
  | .controlNodeWrite addr bytes => 1 ≤ bytes.length && bytes.length ≤ 256 && addr % 256 + bytes.length ≤ 256
  | .debugStep _ n => 1 ≤ n && n ≤ 4294967296
  | .debugWatchpointSet _ p => p.ok
  | .registerErrorRecovery _ code bad => code.toNat < 104 && bad != 0
  | _ => true

/-- A word whose encoding alone raises no fault; a prefix is judged on its own fields. -/
def wellFormed (i : Instr) : Bool :=
  selOk i && eventOk i && (legality i none).isNone &&
  match view i with
  | .fmtX x => patternOk x.patA && patternOk x.patB && x.guard != 15 && x.res == 0 && x.c
  | v => !(v.chain && isTransfer i)

end Sys2Proof
end

