-- ==== Sys2Proof/Decode.lean ====
section
/-! DEFINITION. Decoding of instruction words and the encoder (R46, R52, R66 to R70, Tables 2 and 8 to 15). -/

namespace Sys2Proof

open Machine

/-- Bits 31:26. -/
def majorOf (w : Word) : BitVec 6 := w.extractLsb' 26 6
/-- Bits 25:20 of format S. -/
def subopOf (w : Word) : BitVec 6 := w.extractLsb' 20 6
/-- Bit `n` of a word. -/
def bitOf (w : Word) (n : Nat) : Bool := w.extractLsb' n 1 == 1

/-- The fields of format G (R52). -/
def gFields (w : Word) : GFields :=
  ⟨w.extractLsb' 17 7, w.extractLsb' 10 7, w.extractLsb' 3 7, bitOf w 2, bitOf w 1, bitOf w 0⟩
/-- The fields of an atomic (R52, R53). -/
def aFields (w : Word) : AFields :=
  ⟨w.extractLsb' 17 7, w.extractLsb' 10 7, w.extractLsb' 3 7, w.extractLsb' 1 2, bitOf w 0⟩
/-- The fields of format F (R52). -/
def fFields (w : Word) : FFields :=
  ⟨w.extractLsb' 23 3, w.extractLsb' 16 7, w.extractLsb' 9 7, w.extractLsb' 2 7, bitOf w 1, bitOf w 0⟩
/-- The fields of format I (R52). -/
def iFields (w : Word) : IFields := ⟨w.extractLsb' 19 7, w.extractLsb' 3 16, bitOf w 0⟩
/-- The fields of format M (R52). -/
def mFields (w : Word) : MFields :=
  ⟨w.extractLsb' 19 7, w.extractLsb' 12 7, w.extractLsb' 5 7, w.extractLsb' 3 2, w.extractLsb' 1 2, bitOf w 0⟩
/-- The fields of format B (R52). -/
def bFields (w : Word) : BFields := ⟨bitOf w 25, w.extractLsb' 22 3, w.extractLsb' 1 21, bitOf w 0⟩
/-- The fields of format S (R52). -/
def sFields (w : Word) : SFields := ⟨w.extractLsb' 13 7, w.extractLsb' 6 7, w.extractLsb' 1 5, bitOf w 0⟩
/-- The fields of format X (R52, R61). -/
def xFields (w : Word) : XFields :=
  ⟨w.extractLsb' 19 7, w.extractLsb' 12 7, w.extractLsb' 8 4, w.extractLsb' 4 4, w.extractLsb' 1 3, bitOf w 0⟩

/-- One bit. -/
def bit (b : Bool) : BitVec 1 := BitVec.ofBool b

/-- A format G word (R52). -/
def gWord (major : BitVec 6) (minor : BitVec 2) (f : GFields) : Word :=
  major ++ minor ++ f.d ++ f.a ++ f.b ++ bit f.uni ++ bit f.f ++ bit f.c
/-- An atomic's word. -/
def aWord (major : BitVec 6) (minor : BitVec 2) (f : AFields) : Word :=
  major ++ minor ++ f.d ++ f.a ++ f.b ++ f.w ++ bit f.c
/-- A format F word. -/
def fWord (major : BitVec 6) (f : FFields) : Word :=
  major ++ f.rnd ++ f.d ++ f.a ++ f.b ++ bit f.f ++ bit f.c
/-- A format I word. -/
def iWord (major : BitVec 6) (minor : BitVec 2) (f : IFields) : Word := major ++ f.d ++ f.imm ++ minor ++ bit f.c
/-- A format M word. -/
def mWord (major : BitVec 6) (f : MFields) : Word :=
  major ++ f.d ++ f.a ++ f.off ++ f.cls ++ f.sp ++ bit f.c
/-- A format B word. -/
def bWord (major : BitVec 6) (f : BFields) : Word := major ++ bit f.inv ++ f.p ++ f.off ++ bit f.c
/-- A format S word. -/
def sWord (major subop : BitVec 6) (f : SFields) : Word := major ++ subop ++ f.a ++ f.b ++ f.imm ++ bit f.c
/-- A prefix word. -/
def xWord (f : XFields) : Word := 0x3F#6 ++ f.patA ++ f.patB ++ f.mods ++ f.guard ++ f.res ++ bit f.c

/-- Format G, I and atomic rows: the instruction a minor selects, or the refusal that names minor (R67, R70). -/
def byMinor (m : BitVec 2) (k0 k1 k2 k3 : Option Instr) : Except Field Instr :=
  let pick := if m == 0 then k0 else if m == 1 then k1 else if m == 2 then k2 else k3
  match pick with | some i => .ok i | none => .error .minor

/-- Major 0x38, Table 9 (R68). -/
def decode38 (w : Word) : Except Field Instr :=
  match (subopOf w).toNat with
  | 0x00 => .ok (.trap (sFields w))
  | 0x01 => .ok (.rft (sFields w))
  | 0x02 => .ok (.halt (sFields w))
  | 0x03 => .ok (.resume (sFields w))
  | 0x04 => .ok (.mfsr (sFields w))
  | 0x05 => .ok (.mtsr (sFields w))
  | 0x08 => .ok (.tlbiPage (sFields w))
  | 0x09 => .ok (.tlbiSize (sFields w))
  | 0x0A => .ok (.tlbiRegion (sFields w))
  | 0x0B => .ok (.tlbiAll (sFields w))
  | 0x10 => .ok (.mfs (sFields w))
  | 0x11 => .ok (.mts (sFields w))
  | 0x12 => .ok (.seed (sFields w))
  | _ => .error .subop

/-- Major 0x39, Table 10 (R68). -/
def decode39 (w : Word) : Except Field Instr :=
  let lo := w.extractLsb' 20 3
  let two := w.extractLsb' 20 2
  match (w.extractLsb' 23 3).toNat with
  | 0 => if lo.toNat < 6 then .ok (.fenceAcq lo (sFields w)) else .error .subop
  | 1 => if lo.toNat < 6 then .ok (.fenceRel lo (sFields w)) else .error .subop
  | 2 => if lo.toNat < 6 then .ok (.fence lo (sFields w)) else .error .subop
  | 4 => if lo == 0 then .ok (.publ (sFields w)) else if 4 ≤ lo.toNat then .ok (.cpyq two (sFields w)) else .error .subop
  | 5 => if lo.toNat < 4 then .ok (.gath two (sFields w)) else .error .subop
  | _ => .error .subop

/-- Major 0x3A, Table 11 (R68). -/
def decode3A (w : Word) : Except Field Instr :=
  let lo := w.extractLsb' 20 3
  match (w.extractLsb' 23 3).toNat with
  | 0 => .ok (.mma lo (sFields w))
  | 1 => .ok (.mmaZ lo (sFields w))
  | 2 => .ok (.mtile lo (sFields w))
  | 3 => .ok (.mtileZ lo (sFields w))
  | 4 | 5 => .ok (.wload (w.extractLsb' 20 4) (sFields w))
  | 6 => .ok (.wloadS24 lo (sFields w))
  | _ => match lo.toNat with
    | 0 => .ok (.accrd (sFields w))
    | 1 => .ok (.accwr (sFields w))
    | 2 => .ok (.accz (sFields w))
    | 3 => .ok (.wmark (sFields w))
    | 4 => .ok (.perturb (sFields w))
    | 5 => .ok (.wtab (sFields w))
    | _ => .error .subop

/-- Major 0x3B, Table 12 (R68). -/
def decode3B (w : Word) : Except Field Instr :=
  let lo := w.extractLsb' 20 3
  let two := w.extractLsb' 20 2
  match (w.extractLsb' 23 3).toNat with
  | 0 => if lo.toNat < 4 then .ok (.topk two (sFields w)) else .ok (.topkM two (sFields w))
  | 1 => if lo == 0 then .ok (.decodeCb (sFields w)) else if lo == 1 then .ok (.decodeS24 (sFields w)) else .error .subop
  | 2 => .ok (.decodeWn lo (sFields w))
  | 3 => .ok (.decodeSwn lo (sFields w))
  | _ => .error .subop

/-- Major 0x3D, Table 14 (R68). -/
def decode3D (w : Word) : Except Field Instr :=
  match (subopOf w).toNat with
  | 0x00 => .ok (.give (sFields w))
  | 0x01 => .ok (.take (sFields w))
  | 0x02 => .ok (.barr (sFields w))
  | 0x03 => .ok (.bwait (sFields w))
  | 0x04 => .ok (.bwaitS (sFields w))
  | 0x08 => .ok (.fetchw (sFields w))
  | 0x09 => .ok (.dqpush (sFields w))
  | 0x0A => .ok (.dqpop (sFields w))
  | 0x0B => .ok (.dqsteal (sFields w))
  | 0x0C => .ok (.yield (sFields w))
  | 0x10 => .ok (.qmap (sFields w))
  | 0x11 => .ok (.qreset (sFields w))
  | _ => .error .subop

/-- Major 0x3E, Table 15 (R68). -/
def decode3E (w : Word) : Except Field Instr :=
  match (subopOf w).toNat with
  | 0x00 => .ok (.arrive (sFields w))
  | 0x01 => .ok (.merge (sFields w))
  | 0x02 => .ok (.ret (sFields w))
  | 0x03 => .ok (.exit (sFields w))
  | 0x04 => .ok (.nop (sFields w))
  | 0x05 => .ok (.bkpt (sFields w))
  | 0x06 => .ok (.rewind (sFields w))
  | 0x07 => .ok (.commit (sFields w))
  | _ => .error .subop

/-- The instruction a word encodes, or the opcode-selecting field whose value is unassigned (R66 to R70). -/
def decodeWord (w : Word) : Except Field Instr :=
  match (majorOf w).toNat with
  | 0x01 => byMinor (w.extractLsb' 24 2) (some (.iadd (gFields w))) (some (.isub (gFields w))) (some (.imul (gFields w))) (some (.imulh (gFields w)))
  | 0x02 => byMinor (w.extractLsb' 24 2) (some (.imulhu (gFields w))) (some (.imad (gFields w))) (some (.imin (gFields w))) (some (.imax (gFields w)))
  | 0x03 => byMinor (w.extractLsb' 24 2) (some (.umin (gFields w))) (some (.umax (gFields w))) (some (.iabs (gFields w))) (some (.ineg (gFields w)))
  | 0x04 => byMinor (w.extractLsb' 24 2) (some (.and (gFields w))) (some (.or (gFields w))) (some (.xor (gFields w))) (some (.andn (gFields w)))
  | 0x05 => byMinor (w.extractLsb' 24 2) (some (.shl (gFields w))) (some (.shr (gFields w))) (some (.sar (gFields w))) (some (.rot (gFields w)))
  | 0x06 => byMinor (w.extractLsb' 24 2) (some (.bfe (gFields w))) (some (.bfi (gFields w))) (some (.popc (gFields w))) (some (.clz (gFields w)))
  | 0x07 => byMinor (w.extractLsb' 24 2) (some (.brev (gFields w))) (some (.mov (gFields w))) (some (.lea (gFields w))) (some (.leau (gFields w)))
  | 0x08 => byMinor (w.extractLsb' 24 2) (some (.swap (gFields w))) (some (.not (gFields w))) (some (.add64 (gFields w))) none
  | 0x09 => byMinor (w.extractLsb' 24 2) (some (.icmpEq (gFields w))) (some (.icmpNe (gFields w))) (some (.icmpLt (gFields w))) (some (.icmpLe (gFields w)))
  | 0x0A => byMinor (w.extractLsb' 24 2) (some (.icmpUlt (gFields w))) (some (.icmpUle (gFields w))) (some (.itest (gFields w))) none
  | 0x0B => byMinor (w.extractLsb' 24 2) (some (.pand (gFields w))) (some (.por (gFields w))) (some (.pxor (gFields w))) (some (.pnot (gFields w)))
  | 0x0C => byMinor (w.extractLsb' 24 2) (some (.fcmpEq (gFields w))) (some (.fcmpLt (gFields w))) (some (.fcmpLe (gFields w))) (some (.fcmpUn (gFields w)))
  | 0x11 => byMinor (w.extractLsb' 24 2) (some (.fmin (gFields w))) (some (.fmax (gFields w))) (some (.fabs (gFields w))) (some (.fneg (gFields w)))
  | 0x16 => byMinor (w.extractLsb' 24 2) (some (.rcp (gFields w))) (some (.rsq (gFields w))) (some (.sqrt (gFields w))) (some (.ex2 (gFields w)))
  | 0x17 => byMinor (w.extractLsb' 24 2) (some (.lg2 (gFields w))) (some (.sin (gFields w))) (some (.cos (gFields w))) (some (.tanh (gFields w)))
  | 0x19 => byMinor (w.extractLsb' 24 2) (some (.pack (gFields w))) (some (.unpk (gFields w))) (some (.scal (gFields w))) none
  | 0x1A => byMinor (w.extractLsb' 24 2) (some (.dot2 (gFields w))) (some (.dot4 (gFields w))) (some (.dot8 (gFields w))) (some (.dot4f (gFields w)))
  | 0x1B => byMinor (w.extractLsb' 24 2) (some (.shfl (gFields w))) (some (.vote (gFields w))) (some (.matchAny (gFields w))) (some (.rand (gFields w)))
  | 0x1C => byMinor (w.extractLsb' 24 2) (some (.redlAdd (gFields w))) (some (.redlFadd (gFields w))) (some (.scanlAdd (gFields w))) (some (.scanlFadd (gFields w)))
  | 0x1D => byMinor (w.extractLsb' 24 2) (some (.redlMin (gFields w))) (some (.redlMax (gFields w))) (some (.scanlMin (gFields w))) (some (.scanlMax (gFields w)))
  | 0x2C => byMinor (w.extractLsb' 24 2) (some (.atomAdd (aFields w))) (some (.atomFadd (aFields w))) (some (.atomAnd (aFields w))) (some (.atomOr (aFields w)))
  | 0x2D => byMinor (w.extractLsb' 24 2) (some (.atomXor (aFields w))) (some (.atomImin (aFields w))) (some (.atomImax (aFields w))) (some (.atomExch (aFields w)))
  | 0x2E => byMinor (w.extractLsb' 24 2) (some (.atomUmin (aFields w))) (some (.atomUmax (aFields w))) (some (.atomCas (aFields w))) none
  | 0x2F => byMinor (w.extractLsb' 24 2) (some (.atomAddScr (aFields w))) (some (.atomFaddScr (aFields w))) (some (.atomAndScr (aFields w))) (some (.atomOrScr (aFields w)))
  | 0x30 => byMinor (w.extractLsb' 24 2) (some (.atomXorScr (aFields w))) (some (.atomIminScr (aFields w))) (some (.atomImaxScr (aFields w))) (some (.atomExchScr (aFields w)))
  | 0x31 => byMinor (w.extractLsb' 24 2) (some (.atomUminScr (aFields w))) (some (.atomUmaxScr (aFields w))) (some (.atomCasScr (aFields w))) none
  | 0x1E => byMinor (w.extractLsb' 1 2) (some (.iaddi (iFields w))) (some (.imuli (iFields w))) (some (.movil (iFields w))) (some (.movih (iFields w)))
  | 0x1F => byMinor (w.extractLsb' 1 2) (some (.andi (iFields w))) (some (.ori (iFields w))) (some (.xori (iFields w))) (some (.roti (iFields w)))
  | 0x20 => byMinor (w.extractLsb' 1 2) (some (.loop (iFields w))) (some (.smovil (iFields w))) (some (.smovih (iFields w))) (some (.saddi (iFields w)))
  | 0x0D => .ok (.fadd (fFields w))
  | 0x0E => .ok (.fsub (fFields w))
  | 0x0F => .ok (.fmul (fFields w))
  | 0x10 => .ok (.ffma (fFields w))
  | 0x12 => .ok (.hadd2 (fFields w))
  | 0x13 => .ok (.hfma2 (fFields w))
  | 0x14 => .ok (.badd2 (fFields w))
  | 0x15 => .ok (.bfma2 (fFields w))
  | 0x18 => .ok (.cvt (fFields w))
  | 0x21 => .ok (.ld8 (mFields w))
  | 0x22 => .ok (.ld16 (mFields w))
  | 0x23 => .ok (.ld32 (mFields w))
  | 0x24 => .ok (.ld64 (mFields w))
  | 0x25 => .ok (.ld128 (mFields w))
  | 0x26 => .ok (.st8 (mFields w))
  | 0x27 => .ok (.st16 (mFields w))
  | 0x28 => .ok (.st32 (mFields w))
  | 0x29 => .ok (.st64 (mFields w))
  | 0x2A => .ok (.st128 (mFields w))
  | 0x2B => .ok (.xchg (mFields w))
  | 0x32 => .ok (.bra (bFields w))
  | 0x33 => .ok (.braAny (bFields w))
  | 0x34 => .ok (.brp (bFields w))
  | 0x35 => .ok (.call (bFields w))
  | 0x36 => .ok (.divr (bFields w))
  | 0x37 => .ok (.flip (bFields w))
  | 0x38 => decode38 w
  | 0x39 => decode39 w
  | 0x3A => decode3A w
  | 0x3B => decode3B w
  | 0x3C => if cpySelOk (subopOf w) then .ok (.cpy (subopOf w) (sFields w)) else .error .subop
  | 0x3D => decode3D w
  | 0x3E => decode3E w
  | 0x3F => .ok (.pfx (xFields w))
  | _ => .error .major

/-- The word of an instruction, from the same tables; none for a step that is no word. -/
def encode : Instr → Option Word
  | .iadd f => some (gWord 0x01 0 f)
  | .isub f => some (gWord 0x01 1 f)
  | .imul f => some (gWord 0x01 2 f)
  | .imulh f => some (gWord 0x01 3 f)
  | .imulhu f => some (gWord 0x02 0 f)
  | .imad f => some (gWord 0x02 1 f)
  | .imin f => some (gWord 0x02 2 f)
  | .imax f => some (gWord 0x02 3 f)
  | .umin f => some (gWord 0x03 0 f)
  | .umax f => some (gWord 0x03 1 f)
  | .iabs f => some (gWord 0x03 2 f)
  | .ineg f => some (gWord 0x03 3 f)
  | .and f => some (gWord 0x04 0 f)
  | .or f => some (gWord 0x04 1 f)
  | .xor f => some (gWord 0x04 2 f)
  | .andn f => some (gWord 0x04 3 f)
  | .shl f => some (gWord 0x05 0 f)
  | .shr f => some (gWord 0x05 1 f)
  | .sar f => some (gWord 0x05 2 f)
  | .rot f => some (gWord 0x05 3 f)
  | .bfe f => some (gWord 0x06 0 f)
  | .bfi f => some (gWord 0x06 1 f)
  | .popc f => some (gWord 0x06 2 f)
  | .clz f => some (gWord 0x06 3 f)
  | .brev f => some (gWord 0x07 0 f)
  | .mov f => some (gWord 0x07 1 f)
  | .lea f => some (gWord 0x07 2 f)
  | .leau f => some (gWord 0x07 3 f)
  | .swap f => some (gWord 0x08 0 f)
  | .not f => some (gWord 0x08 1 f)
  | .add64 f => some (gWord 0x08 2 f)
  | .icmpEq f => some (gWord 0x09 0 f)
  | .icmpNe f => some (gWord 0x09 1 f)
  | .icmpLt f => some (gWord 0x09 2 f)
  | .icmpLe f => some (gWord 0x09 3 f)
  | .icmpUlt f => some (gWord 0x0A 0 f)
  | .icmpUle f => some (gWord 0x0A 1 f)
  | .itest f => some (gWord 0x0A 2 f)
  | .pand f => some (gWord 0x0B 0 f)
  | .por f => some (gWord 0x0B 1 f)
  | .pxor f => some (gWord 0x0B 2 f)
  | .pnot f => some (gWord 0x0B 3 f)
  | .fcmpEq f => some (gWord 0x0C 0 f)
  | .fcmpLt f => some (gWord 0x0C 1 f)
  | .fcmpLe f => some (gWord 0x0C 2 f)
  | .fcmpUn f => some (gWord 0x0C 3 f)
  | .fmin f => some (gWord 0x11 0 f)
  | .fmax f => some (gWord 0x11 1 f)
  | .fabs f => some (gWord 0x11 2 f)
  | .fneg f => some (gWord 0x11 3 f)
  | .rcp f => some (gWord 0x16 0 f)
  | .rsq f => some (gWord 0x16 1 f)
  | .sqrt f => some (gWord 0x16 2 f)
  | .ex2 f => some (gWord 0x16 3 f)
  | .lg2 f => some (gWord 0x17 0 f)
  | .sin f => some (gWord 0x17 1 f)
  | .cos f => some (gWord 0x17 2 f)
  | .tanh f => some (gWord 0x17 3 f)
  | .pack f => some (gWord 0x19 0 f)
  | .unpk f => some (gWord 0x19 1 f)
  | .scal f => some (gWord 0x19 2 f)
  | .dot2 f => some (gWord 0x1A 0 f)
  | .dot4 f => some (gWord 0x1A 1 f)
  | .dot8 f => some (gWord 0x1A 2 f)
  | .dot4f f => some (gWord 0x1A 3 f)
  | .shfl f => some (gWord 0x1B 0 f)
  | .vote f => some (gWord 0x1B 1 f)
  | .matchAny f => some (gWord 0x1B 2 f)
  | .rand f => some (gWord 0x1B 3 f)
  | .redlAdd f => some (gWord 0x1C 0 f)
  | .redlFadd f => some (gWord 0x1C 1 f)
  | .scanlAdd f => some (gWord 0x1C 2 f)
  | .scanlFadd f => some (gWord 0x1C 3 f)
  | .redlMin f => some (gWord 0x1D 0 f)
  | .redlMax f => some (gWord 0x1D 1 f)
  | .scanlMin f => some (gWord 0x1D 2 f)
  | .scanlMax f => some (gWord 0x1D 3 f)
  | .atomAdd f => some (aWord 0x2C 0 f)
  | .atomFadd f => some (aWord 0x2C 1 f)
  | .atomAnd f => some (aWord 0x2C 2 f)
  | .atomOr f => some (aWord 0x2C 3 f)
  | .atomXor f => some (aWord 0x2D 0 f)
  | .atomImin f => some (aWord 0x2D 1 f)
  | .atomImax f => some (aWord 0x2D 2 f)
  | .atomExch f => some (aWord 0x2D 3 f)
  | .atomUmin f => some (aWord 0x2E 0 f)
  | .atomUmax f => some (aWord 0x2E 1 f)
  | .atomCas f => some (aWord 0x2E 2 f)
  | .atomAddScr f => some (aWord 0x2F 0 f)
  | .atomFaddScr f => some (aWord 0x2F 1 f)
  | .atomAndScr f => some (aWord 0x2F 2 f)
  | .atomOrScr f => some (aWord 0x2F 3 f)
  | .atomXorScr f => some (aWord 0x30 0 f)
  | .atomIminScr f => some (aWord 0x30 1 f)
  | .atomImaxScr f => some (aWord 0x30 2 f)
  | .atomExchScr f => some (aWord 0x30 3 f)
  | .atomUminScr f => some (aWord 0x31 0 f)
  | .atomUmaxScr f => some (aWord 0x31 1 f)
  | .atomCasScr f => some (aWord 0x31 2 f)
  | .iaddi f => some (iWord 0x1E 0 f)
  | .imuli f => some (iWord 0x1E 1 f)
  | .movil f => some (iWord 0x1E 2 f)
  | .movih f => some (iWord 0x1E 3 f)
  | .andi f => some (iWord 0x1F 0 f)
  | .ori f => some (iWord 0x1F 1 f)
  | .xori f => some (iWord 0x1F 2 f)
  | .roti f => some (iWord 0x1F 3 f)
  | .loop f => some (iWord 0x20 0 f)
  | .smovil f => some (iWord 0x20 1 f)
  | .smovih f => some (iWord 0x20 2 f)
  | .saddi f => some (iWord 0x20 3 f)
  | .fadd f => some (fWord 0x0D f)
  | .fsub f => some (fWord 0x0E f)
  | .fmul f => some (fWord 0x0F f)
  | .ffma f => some (fWord 0x10 f)
  | .hadd2 f => some (fWord 0x12 f)
  | .hfma2 f => some (fWord 0x13 f)
  | .badd2 f => some (fWord 0x14 f)
  | .bfma2 f => some (fWord 0x15 f)
  | .cvt f => some (fWord 0x18 f)
  | .ld8 f => some (mWord 0x21 f)
  | .ld16 f => some (mWord 0x22 f)
  | .ld32 f => some (mWord 0x23 f)
  | .ld64 f => some (mWord 0x24 f)
  | .ld128 f => some (mWord 0x25 f)
  | .st8 f => some (mWord 0x26 f)
  | .st16 f => some (mWord 0x27 f)
  | .st32 f => some (mWord 0x28 f)
  | .st64 f => some (mWord 0x29 f)
  | .st128 f => some (mWord 0x2A f)
  | .xchg f => some (mWord 0x2B f)
  | .bra f => some (bWord 0x32 f)
  | .braAny f => some (bWord 0x33 f)
  | .brp f => some (bWord 0x34 f)
  | .call f => some (bWord 0x35 f)
  | .divr f => some (bWord 0x36 f)
  | .flip f => some (bWord 0x37 f)
  | .trap f => some (sWord 0x38 0x00 f)
  | .rft f => some (sWord 0x38 0x01 f)
  | .halt f => some (sWord 0x38 0x02 f)
  | .resume f => some (sWord 0x38 0x03 f)
  | .mfsr f => some (sWord 0x38 0x04 f)
  | .mtsr f => some (sWord 0x38 0x05 f)
  | .tlbiPage f => some (sWord 0x38 0x08 f)
  | .tlbiSize f => some (sWord 0x38 0x09 f)
  | .tlbiRegion f => some (sWord 0x38 0x0A f)
  | .tlbiAll f => some (sWord 0x38 0x0B f)
  | .mfs f => some (sWord 0x38 0x10 f)
  | .mts f => some (sWord 0x38 0x11 f)
  | .seed f => some (sWord 0x38 0x12 f)
  | .accrd f => some (sWord 0x3A 0x38 f)
  | .accwr f => some (sWord 0x3A 0x39 f)
  | .accz f => some (sWord 0x3A 0x3A f)
  | .wmark f => some (sWord 0x3A 0x3B f)
  | .perturb f => some (sWord 0x3A 0x3C f)
  | .wtab f => some (sWord 0x3A 0x3D f)
  | .give f => some (sWord 0x3D 0x00 f)
  | .take f => some (sWord 0x3D 0x01 f)
  | .barr f => some (sWord 0x3D 0x02 f)
  | .bwait f => some (sWord 0x3D 0x03 f)
  | .bwaitS f => some (sWord 0x3D 0x04 f)
  | .fetchw f => some (sWord 0x3D 0x08 f)
  | .dqpush f => some (sWord 0x3D 0x09 f)
  | .dqpop f => some (sWord 0x3D 0x0A f)
  | .dqsteal f => some (sWord 0x3D 0x0B f)
  | .yield f => some (sWord 0x3D 0x0C f)
  | .qmap f => some (sWord 0x3D 0x10 f)
  | .qreset f => some (sWord 0x3D 0x11 f)
  | .arrive f => some (sWord 0x3E 0x00 f)
  | .merge f => some (sWord 0x3E 0x01 f)
  | .ret f => some (sWord 0x3E 0x02 f)
  | .exit f => some (sWord 0x3E 0x03 f)
  | .nop f => some (sWord 0x3E 0x04 f)
  | .bkpt f => some (sWord 0x3E 0x05 f)
  | .rewind f => some (sWord 0x3E 0x06 f)
  | .commit f => some (sWord 0x3E 0x07 f)
  | .publ f => some (sWord 0x39 0x20 f)
  | .decodeCb f => some (sWord 0x3B 0x08 f)
  | .decodeS24 f => some (sWord 0x3B 0x09 f)
  | .fenceAcq sel f => some (sWord 0x39 (0x0#3 ++ sel) f)
  | .fenceRel sel f => some (sWord 0x39 (0x1#3 ++ sel) f)
  | .fence sel f => some (sWord 0x39 (0x2#3 ++ sel) f)
  | .cpyq sel f => some (sWord 0x39 (0x9#4 ++ sel) f)
  | .gath sel f => some (sWord 0x39 (0xA#4 ++ sel) f)
  | .mma sel f => some (sWord 0x3A (0x0#3 ++ sel) f)
  | .mmaZ sel f => some (sWord 0x3A (0x1#3 ++ sel) f)
  | .mtile sel f => some (sWord 0x3A (0x2#3 ++ sel) f)
  | .mtileZ sel f => some (sWord 0x3A (0x3#3 ++ sel) f)
  | .wload sel f => some (sWord 0x3A (0x2#2 ++ sel) f)
  | .wloadS24 sel f => some (sWord 0x3A (0x6#3 ++ sel) f)
  | .topk sel f => some (sWord 0x3B (0x0#4 ++ sel) f)
  | .topkM sel f => some (sWord 0x3B (0x1#4 ++ sel) f)
  | .decodeWn sel f => some (sWord 0x3B (0x2#3 ++ sel) f)
  | .decodeSwn sel f => some (sWord 0x3B (0x3#3 ++ sel) f)
  | .cpy sel f => some (sWord 0x3C sel f)
  | .pfx f => some (xWord f)
  | _ => none
/-- The little-endian word of four bytes (R6, R46). -/
def wordOfBytes (b0 b1 b2 b3 : Byte) : Word := b3 ++ b2 ++ b1 ++ b0

/-- The four bytes of a word, lowest address first (R6). -/
def bytesOfWord (w : Word) : List Byte :=
  [w.extractLsb' 0 8, w.extractLsb' 8 8, w.extractLsb' 16 8, w.extractLsb' 24 8]

/-- Decodes the first word of a byte stream; a stream too short to hold one holds no instruction. -/
def decodeBytes : List Byte → Option (Except Field Instr × List Byte)
  | b0 :: b1 :: b2 :: b3 :: rest => some (decodeWord (wordOfBytes b0 b1 b2 b3), rest)
  | _ => none

/-- The instruction the decoder reads from a word numbered as the opcode table numbers it: one 32-bit word, laid out
little-endian. -/
def decodeTableWord (nbits w : Nat) : Option Instr :=
  if nbits ≤ 32 then
    match decodeBytes (bytesOfWord (BitVec.ofNat 32 w)) with
    | some (.ok i, _) => some i
    | _ => none
  else none

end Sys2Proof
end

