-- ==== Sys2Proof/Machine/Fetch.lean ====
section
/-! DEFINITION. Fetching an instruction's bytes (R46, R50, R73) and finding the instruction that a backward walk undoes
next (R344). -/

namespace Sys2Proof.Machine

/-- The memory of a launch's code as it stood when the launch started (R73). -/
def State.codeOf (s : State) (w : Wg) : List Host.Cell := ((s.node? w.launch).map (·.code)).getD []

/-- The table root of a workgroup's region (R300). -/
def State.rootOf (s : State) (w : Wg) : Nat := ((s.effOf w).map (·.ptroot)).getD 0

/-- A fetch fault (R314, R349). -/
def fetchFlt (c : Code) (a : Nat) : Flt := { code := c, addr := a, access := 3 }

/-- The packet that holds an address, fetched whole: translated now, with the bytes its frames held when the launch
started (R46, R73). -/
def State.fetchPacket (s : State) (w : Wg) (a : Nat) : State × Except Flt (List Byte) :=
  let base := a - a % 12
  if 2 ^ 57 < base + 12 then (s, .error (fetchFlt .addressRange (max base (2 ^ 57)))) else
  let r := s.xlateRun (s.rootOf w) base 12 .fetch
  match r.2 with
  | .error e => (r.1, .error (fetchFlt e.1 e.2))
  | .ok ps =>
    match ps.find? fun p => r.1.failingAt p.phys.rd p.len with
    | some p => (r.1, .error (fetchFlt .memoryUncorrectable p.va))
    | none => (r.1, .ok (ps.flatMap fun p => memRead (s.codeOf w) p.phys.rd p.len))

/-- The word at an address, its packet fetched whole; a misaligned address raises ILLEGAL_PACKET (R50). -/
def State.fetchWord (s : State) (w : Wg) (a : DWord) : State × Except Flt Word :=
  if a.toNat % 4 != 0 then (s, .error { code := .illegalPacket, field := .major }) else
  let r := s.fetchPacket w a.toNat
  (r.1, r.2.map fun bs => BitVec.ofNat 32 (leNat ((bs.drop (a.toNat % 12)).take 4)))

/-- The slot of a word in its packet: its byte address modulo 12 (R46). -/
def slotOf (a : DWord) : Nat := a.toNat % 12

/-- The address of the word itself, past its prefix. -/
def Crew.wordAddr (c : Crew) : DWord := if c.pfx.isSome then c.pc + 4 else c.pc

/-- The word of a packet's bytes at an address. -/
def packetWord (bs : List Byte) (a : Nat) : Word := BitVec.ofNat 32 (leNat ((bs.drop (a % 12)).take 4))

/-- The bytes of its packet that a crew holds, where the address is not the packet's first (R46). -/
def Crew.heldPacket (c : Crew) (a : Nat) : Option (List Byte) :=
  if a % 12 == 0 then none else (c.packet.filter (·.1 == a - a % 12)).map (·.2)

/-- The word a crew runs next (R46): fetch is by packet, at its first word or where the crew comes to another packet; its
later words are those fetched then. The crew holds the packet. -/
def State.fetchNext (s : State) (w : Wg) (c : Crew) : State × Crew × Except Flt Word :=
  let a := c.wordAddr.toNat
  if a % 4 != 0 then (s, c, .error { code := .illegalPacket, field := .major }) else
  match c.heldPacket a with
  | some bs => (s, c, .ok (packetWord bs a))
  | none =>
    let r := s.fetchPacket w a
    match r.2 with
    | .error f => (r.1, c, .error f)
    | .ok bs => let d := { c with packet := some (a - a % 12, bs) }; (r.1.setCrew d, d, .ok (packetWord bs a))

/-- The instruction of a fetched word: a word that is no assigned encoding is a step of its own (R70). -/
def instrOf (w : Word) : Instr :=
  match decodeWord w with
  | .ok i => i
  | .error _ => .illegalEncoding w

/-! Walking backwards -/

/-- Where a backward walk stands: what of the crew says which instruction ran before (R344). -/
structure Cursor where
  pc : DWord
  ic : DWord
  cf : Word
  xfer : Bool
  wake : List WakeRec
  deriving DecidableEq, Repr

/-- The cursor of a crew. -/
def Crew.cursor (c : Crew) : Cursor := ⟨c.pc, c.ic, c.cf, c.xfer, c.wake⟩

/-- FALL (R324). -/
def fall : Word := 0x80000000

/-- An instruction found by a walk: its address, whether CF led to it, its prefix, and itself. -/
structure Prev where
  at_ : DWord
  via : Bool
  pfx : Option XFields
  i : Instr
  deriving DecidableEq, Repr

/-- The instruction a crew stands at, by the packet it holds: a prefix and its target together. -/
def State.instrNext (s : State) (w : Wg) (c : Crew) : State × Except Flt Prev :=
  let r := s.fetchNext w { c with pfx := none }
  match r.2.2 with
  | .error f => (r.1, .error f)
  | .ok x =>
    match instrOf x with
    | .pfx p =>
      let q := r.1.fetchNext w { r.2.1 with pfx := some p }
      (q.1, q.2.2.map fun y => ⟨c.pc, false, some p, instrOf y⟩)
    | i => (r.1, .ok ⟨c.pc, false, none, i⟩)

/-- InstructionAt (R344): a prefix and its target together. -/
def State.instrAt (s : State) (w : Wg) (a : DWord) (via : Bool) : State × Except Flt Prev :=
  let r := s.fetchWord w a
  match r.2 with
  | .error f => (r.1, .error f)
  | .ok x =>
    match instrOf x with
    | .pfx p =>
      let q := r.1.fetchWord w (a + 4)
      (q.1, q.2.map fun y => ⟨a, via, some p, instrOf y⟩)
    | i => (r.1, .ok ⟨a, via, none, i⟩)

/-- SeqPred (R344). -/
def State.seqPred (s : State) (w : Wg) (x : DWord) : State × Except Flt DWord :=
  let y := x - 4
  if y.toNat % 12 == 0 then (s, .ok y) else
  let r := s.fetchWord w (y - 4)
  (r.1, r.2.map fun v => if majorOf v == 0x3F then y - 4 else y)

/-- The instruction that ran before an address was reached sequentially; a REWIND that had no effect was not counted and
is passed over (R322). -/
def State.prevSeq (s : State) (w : Wg) : Nat → DWord → State × Except Flt Prev
  | 0, x => s.instrAt w x false
  | n + 1, x =>
    let r := s.seqPred w x
    match r.2 with
    | .error f => (r.1, .error f)
    | .ok y =>
      let q := r.1.instrAt w y false
      match q.2 with
      | .ok ⟨_, _, _, .rewind _⟩ => q.1.prevSeq w n y
      | _ => q

/-- The instruction a walk undoes next (R344): the one CF names where the crew stands at an ARRIVE that a transfer
reached, otherwise the sequential predecessor. -/
def State.prevInstr (s : State) (w : Wg) (k : Cursor) : State × Except Flt Prev :=
  if k.xfer then s.instrAt w (k.pc + 4 * k.cf.signExtend 64) true
  else s.prevSeq w 1048576 k.pc

/-- The CF record of the instruction at a count, where the wake holds one (R339). -/
def cfRecord (wake : List WakeRec) (ic : DWord) : Option Word :=
  wake.findSome? fun r => if r.ic != ic then none else match r.body with | .cf old => some old | _ => none

/-- The cursor past an undone instruction (R344). -/
def Cursor.back (k : Cursor) (p : Prev) : Cursor :=
  let n := k.ic - 1
  let old := (cfRecord k.wake n).getD fall
  let arrive := match p.i with | .arrive _ => true | _ => false
  let cf := if arrive then (if k.cf == fall then old else k.cf) else if p.via then old else k.cf
  ⟨p.at_, n, cf, arrive && k.cf != fall, k.wake.filter fun r => r.ic.toNat < n.toNat⟩

end Sys2Proof.Machine
end

