-- ==== Sys2Proof/Machine/Class.lean ====
section
/-! DEFINITION. Reversal classes (R111, R112, R336) and the plan that recovers a failing register (R351). -/

namespace Sys2Proof.Machine

/-- Whether the inverse of an update form exists for field a (R112): a register outside the n registers from d, zero or
lane. -/
def invOperand (uni : Bool) (d a : BitVec 7) (n : Nat) : Bool :=
  match kindOf uni a with
  | .v | .o | .s => !(d.toNat ≤ a.toNat && a.toNat < d.toNat + n)
  | .zero | .lane => true
  | _ => false

/-- How an instruction's registers are undone (R111): nothing to restore, by its inverse, from its records, by zeroing. -/
inductive Undo where
  | empty | inverse | record | fresh
  deriving DecidableEq, Repr

/-- The assign form: from its record, or fresh (R55). -/
def assignUndo (f : Bool) : Undo := if f then .fresh else .record

/-- Whether the operation of an update form of two operands has an exact inverse (R114, R116). -/
def opInverse : Instr → Bool
  | .iadd _ | .isub _ | .xor _ | .rot _ => true
  | _ => false

/-- The reversal class of an instruction that is not a boundary (R111, R112, R336). -/
def undoOf (i : Instr) : Undo :=
  match i with
  | .iaddi _ | .xori _ | .roti _ | .saddi _ | .loop _ | .xchg _ | .divr _ => .inverse
  | .imuli f => if f.imm.getLsbD 0 then .inverse else .record
  | .pxor f => if f.b == 127 && f.a != f.d then .inverse else .record
  | .fenceAcq .. | .bwait _ | .bwaitS _ | .yield _ | .nop _ | .bkpt _ | .commit _ | .rewind _ => .empty
  | _ => match view i with
    | .fmtG .arith _ _ f =>
      if f.b == 127 then (if opInverse i && invOperand f.uni f.d f.a 1 then .inverse else .record) else assignUndo f.f
    | .fmtG .lea _ _ f | .fmtG .add64 _ _ f =>
      if f.b == 127 then (if invOperand f.uni f.d f.a 2 then .inverse else .record) else assignUndo f.f
    | .fmtG .unary _ _ f => assignUndo f.f
    | .fmtG .swap _ _ _ => .inverse
    | .fmtF .arith f => if f.b == 127 then .record else assignUndo f.f
    | .fmtF .cvt f => assignUndo f.f
    | .event => .empty
    | _ => .record

/-- The v and o registers a word writes. -/
def View.vecDests (w : View) : List Nat :=
  (w.operands.filter fun o => !w.uni && o.role.dir != .rd && (vecKind o.code == .v || vecKind o.code == .o)).flatMap fun o =>
    (List.range o.role.n).map (o.code.toNat + ·)

/-- The v and o registers a word reads as operands. -/
def View.vecSrcs (w : View) : List Nat :=
  (w.operands.filter fun o => !w.uni && o.role.dir != .wr && (vecKind o.code == .v || vecKind o.code == .o)).flatMap fun o =>
    (List.range o.role.n).map (o.code.toNat + ·)

/-- The v and o registers whose words an instruction reads: its sources, and an old destination that goes to the wake
(R351). -/
def readRegs (i : Instr) : List Nat :=
  (view i).vecSrcs ++ (if undoOf i == .record && !isBoundary i then (view i).vecDests else [])

/-- The v and o registers the reverse step of a class I instruction reads, other than as the destination it updates (R351):
an exchange writes what it reads elsewhere, its destination too. -/
def invReads (i : Instr) : List Nat :=
  match i with
  | .swap _ | .xchg _ => (view i).vecSrcs
  | _ => (view i).vecSrcs.filter fun r => !(view i).vecDests.contains r

/-- One step of the plan (R351): the set P after the instruction at the cursor is looked through; none for FAIL. -/
def planStep (wake : List WakeRec) (ic : DWord) (i : Instr) (p : List Nat) : Option (List Nat) :=
  let u := undoOf i
  let hit := u == .inverse && (invReads i).any p.contains
  if hit && (match i with | .xchg _ => true | _ => false) then none else
  let p := if hit then (p ++ (view i).vecDests).eraseDups else p
  let restored := match u with
    | .fresh => (view i).vecDests
    | _ => wake.flatMap fun (r : WakeRec) => if r.ic != ic then [] else match r.body with
      | .reg code rs => (List.range rs.length).map (code + ·)
      | _ => []
  some (p.filter fun r => !restored.contains r)

/-- What a plan comes to (R351, R352): a count, with all registers P ever held; FAIL; or a wake record that it cannot
read, which kills the workgroup. -/
inductive Plan where
  | target (t : DWord) (all : List Nat)
  | fail
  | kill
  deriving DecidableEq, Repr

/-- Whether a wake record of the instruction at a count fails its check where it lies in the ring (R340, R352). -/
def State.countFails (s : State) (c : Crew) (ic : DWord) : Bool :=
  !s.failing.isEmpty && (c.wake.reverse.foldl (fun (p : Nat × Bool) r =>
    (p.1 + r.size, p.2 || (r.ic == ic && s.ringFails c p.1 r.size))) (0, false)).2

/-- The plan (R351): the count from which re-execution repairs the registers of P. -/
def State.planFrom (s : State) (w : Wg) (c : Crew) : Nat → Cursor → List Nat → List Nat → State × Except Flt Plan
  | 0, _, _, _ => (s, .ok .fail)
  | n + 1, k, p, all =>
    if p.isEmpty then (s, .ok (.target k.ic all))
    else if k.ic == c.commit then (s, .ok .fail)
    else if s.countFails c (k.ic - 1) then (s, .ok .kill) else
    let r := s.prevInstr w k
    match r.2 with
    | .error f => (r.1, .error f)
    | .ok q =>
      match planStep k.wake (k.ic - 1) q.i p with
      | none => (r.1, .ok .fail)
      | some p' => r.1.planFrom w c n (k.back q) p' (all ++ p').eraseDups

/-- The registers that a recovery under way repairs, and those that its walk has yet to restore (R351). -/
def Crew.recovering (c : Crew) : List Nat :=
  c.replays.flatMap (·.roots) ++ (c.walk.map fun k => k.roots ++ k.now).getD []

/-- A crew that reads failing registers (R351): the walk of a plan begins, or the fault of the reading instruction. A
failure in another register during a recovery makes a new plan at that point, with both registers in P. What the plan's
looking through code has cached stays, whatever it comes to (R200). -/
def State.recover (s : State) (w : Wg) (c : Crew) (regs : List Nat) : State × Except Flt Crew :=
  let p := (regs ++ c.recovering).eraseDups
  let code := regs.headD 0
  let mask := ((c.badRegs.find? (·.1 == code)).map (·.2)).getD 0
  let r := s.planFrom w c (c.ic - c.commit).toNat.succ c.cursor p p
  match r.2 with
  | .error f => (r.1, .error f)
  | .ok .fail => (r.1, .error { code := .registerUncorrectable, detail := code + mask.toNat * 2 ^ 32 })
  | .ok .kill => ({ r.1 with agenda := .event (.stateErrorKill ⟨c.wg, .crewState⟩) :: r.1.agenda }, .ok c)
  | .ok (.target t all) =>
    let home := match c.walk with | some k => k.home | none => c.ic
    let roots := (regs ++ c.replays.flatMap (·.roots) ++ (c.walk.map (·.roots)).getD []).eraseDups
    (r.1, .ok { c.clearLatches with
      walk := some ⟨t, .recover, 0, home, all, roots, p⟩, st := .ready, wait := .none, pfx := none })

/-- The failing registers among some, in order (R351). -/
def Crew.failing (c : Crew) (regs : List Nat) : List Nat :=
  if c.badRegs.isEmpty then [] else (regs.filter fun r => c.badRegs.any (·.1 == r)).eraseDups

end Sys2Proof.Machine
end

