-- ==== Sys2Proof/Machine/Run.lean ====
section
/-! DEFINITION. Running one word of a crew: the checks every word makes in the order of R72 and R273, its operands, its
results, and what ends or delays it. -/

namespace Sys2Proof.Machine

/-! Queues (R270 to R274) -/

/-- A queue of a workgroup. -/
def Wg.queue (w : Wg) (n : Nat) : Queue := w.queues.getD n ⟨false, 0, 0, 0, 0, []⟩

/-- The scratchpad offset of the ring slot i places after the head (R272). -/
def Queue.slotAt (q : Queue) (i : Nat) : Nat := q.off * 128 + 128 * (if q.depth == 0 then 0 else (q.head + i) % q.depth)

/-- The 32 values of the element i places after the head (R272). -/
def Wg.element (w : Wg) (n i : Nat) : List Word :=
  let a := (w.queue n).slotAt i
  perThread fun t => BitVec.ofNat 32 (memNat w.scr (a + 4 * t) 4)

/-- How often a number occurs in a list. -/
def times (l : List Nat) (n : Nat) : Nat := l.countP (· == n)

/-- Whether the counts of a queue admit a request (R273, step 4). -/
def Queue.admits (q : Queue) (pops pushes : Nat) : Bool := pops ≤ q.count && pushes ≤ q.depth - q.count + pops

/-- The queue a CPYQ pushes (R230). -/
def CopyCmd.queueNo (k : CopyCmd) : Nat := k.block.dstrec % 8

/-- Whether a request stands behind another of its queue: pops of a queue wait in one line, pushes in another, CPYQ
commands among the pushes (R274, log 13); and the next grant comes after what the last one reserves has been used
(R273). -/
def heldBack (s : State) (wg : Nat) (me : CrewRef) (since : Nat) (pops pushes : List Nat) : Bool :=
  let meets (l : List Nat × List Nat) : Bool := l.1.any pops.contains || l.2.any pushes.contains
  (s.crewsOf wg).any (fun c => c.ref != me && (c.granted.any meets || (c.since < since && match c.wait with
    | .queue p q => meets (p, q)
    | _ => false))) ||
  s.copies.any fun k => k.kind == .cpyq && k.wg == wg && pushes.contains k.queueNo && k.wait.any (· < since)

/-- Whether a request for queues can be granted now (R273, step 4; R274). -/
def grantable (s : State) (w : Wg) (me : CrewRef) (since : Nat) (pops pushes : List Nat) : Bool :=
  (pops ++ pushes).all (fun n => (w.queue n).admits (times pops n) (times pushes n)) &&
    !heldBack s w.uid me since pops pushes

/-! Sources -/

/-- The value of a scalar-side source (R29). -/
def Crew.scalarSrc (c : Crew) (code : BitVec 7) : Word :=
  match uniKind code with
  | .s => c.sreg code.toNat
  | .m => (c.mbox (code.toNat - 116)).val
  | _ => 0

/-- The 32 values a vector-side source field supplies before its pattern; `i` is how many elements of the same queue an
earlier field of the word pops (R28, R30, R63). -/
def Ctx.rawSrc (x : Ctx) (code : BitVec 7) (i : Nat) : List Word :=
  match vecKind code with
  | .v | .o => (x.c.vreg code.toNat).vals
  | .q => x.w.element (code.toNat - 104) i
  | .l => (x.c.latch (code.toNat - 112)).vals
  | .m => perThread fun _ => (x.c.mbox (code.toNat - 116)).val
  | .lane => laneReg.vals
  | _ => zeros32

/-- Word k of a source of one or more words (R63, R64): each word of zero is 0. -/
def Ctx.rawWord (x : Ctx) (code : BitVec 7) (k : Nat) : List Word :=
  if vecKind code == .zero then zeros32 else x.rawSrc (code + BitVec.ofNat 7 k) 0

/-- The crossbar pattern of field a (R38). -/
def Ctx.patA (x : Ctx) : BitVec 7 := match x.c.pfx with | some p => p.patA | none => 0
/-- The crossbar pattern of field b (R38). -/
def Ctx.patB (x : Ctx) : BitVec 7 := match x.c.pfx with | some p => p.patB | none => 0

/-- Field a of a vector word in each thread, permuted (R110). -/
def Ctx.srcA (x : Ctx) (a : BitVec 7) : List Word := permute x.patA (x.rawSrc a 0)

/-- Field b of a vector word in each thread, permuted; a is read before b (R28, R110). -/
def Ctx.srcB (x : Ctx) (a b : BitVec 7) : List Word :=
  permute x.patB (x.rawSrc b (if vecKind b == .q && a == b then 1 else 0))

/-- Pair(a) in each thread, permuted (R119). -/
def Ctx.pairA (x : Ctx) (a : BitVec 7) : List DWord :=
  let lo := permute x.patA (x.rawSrc a 0)
  let hi := permute x.patA (x.rawSrc (a + 1) 0)
  threads.map fun t => pairOf (lane lo t) (lane hi t)

/-- Pair(b) in each thread, permuted (R119). -/
def Ctx.pairB (x : Ctx) (b : BitVec 7) : List DWord :=
  let lo := permute x.patB (x.rawSrc b 0)
  let hi := permute x.patB (x.rawSrc (b + 1) 0)
  threads.map fun t => pairOf (lane lo t) (lane hi t)

/-- The active threads of the instruction at hand (R110). -/
def Ctx.act (x : Ctx) : Mask := x.c.active

/-- Src(x, t) of the lowest-numbered active thread (R269). -/
def Ctx.leader (x : Ctx) (code : BitVec 7) : Word :=
  match lowest x.act with
  | some t => lane (x.rawSrc code 0) t
  | none => 0

/-- Pair(x) of the lowest-numbered active thread (R269). -/
def Ctx.leaderPair (x : Ctx) (code : BitVec 7) : DWord := pairOf (x.leader code) (x.leader (code + 1))

/-! Effects of queue and mailbox operands -/

/-- The ring words of an element as one strong access of the crew (R272). -/
def Ctx.ringRuns (x : Ctx) (v : View) : List (Nat × Bool) :=
  let pops := v.pops.zipIdx.map fun e => ((x.w.queue e.1).slotAt (times (v.pops.take e.2) e.1), false)
  let pushes := v.pushes.map fun n => ((x.w.queue n).slotAt (x.w.queue n).count, true)
  pops ++ pushes

/-- The fault of a pop or push whose ring words race with a plain access or fail their check (R187, R272, R352). -/
def Ctx.ringFault (x : Ctx) (v : View) : Option Flt :=
  (x.ringRuns v).findSome? fun r =>
    let way : Way := if r.2 then .store else .load
    let acs : Acs := ⟨0, r.1, 128, []⟩
    match (if x.w.isShadow then none else raceFault x.w.stags true way (fun _ => x.access r.2 true) [acs]) with
    | some f => some f
    | none => if r.2 then none else failingFault x.s x.w true .load [acs]

/-- Whether the ring words of a word's pops and pushes meet a watchpoint (R359). -/
def Ctx.ringWatched (x : Ctx) (v : View) : Bool :=
  (x.ringRuns v).any fun r => watchHit x.s x.w true (if r.2 then .store else .load) [⟨0, r.1, 128, []⟩]

/-- One pop taken from a queue (R272): the head moves on, the ring words are read as a strong access, which acquires what
they release, and the push of the element happens before. -/
def Ctx.popQueue (x : Ctx) (n : Nat) : Ctx :=
  let q := x.w.queue n
  let stags := noteAccess x.w.stags (x.access false true) (q.slotAt 0) 128
  let q' := { q with head := if q.depth == 0 then 0 else (q.head + 1) % q.depth, count := q.count - 1, clocks := q.clocks.tail }
  { x with
    w := { x.w with queues := x.w.queues.set n q', stags := stags }
    c := ({ x.c with clock := clkJoin x.c.clock (q.clocks.headD []) }).acquireRels (crewPlace x.w x.c) 1
      (relsOf x.w.stags (q.slotAt 0) 128) }

/-- One element pushed (R272): zero in inactive threads. -/
def Ctx.pushQueue (x : Ctx) (n : Nat) (vals : List Word) : Ctx :=
  let q := x.w.queue n
  let a := q.slotAt q.count
  let w := x.w.writeScr (some (x.access true true)) (.set (x.c.rel x.w true)) a (vals.flatMap fun v => leBytes v.toNat 4)
  let q' := { q with count := q.count + 1, clocks := q.clocks ++ [x.c.clock] }
  { x with
    w := { w with queues := w.queues.set n q' }
    c := x.c.tick
    s := x.s.hitRunons (some x.w.uid) (some x.c.ref) a 128 }

/-- The pops and mailbox reads of a word, at its retirement (R28, R30, R273). -/
def Ctx.consume (x : Ctx) (v : View) : Ctx :=
  let x := v.pops.foldl Ctx.popQueue x
  let x := if v.pops.isEmpty then x else x.mapS fun s => s.wakeYields x.w.uid
  { x with c := v.mboxReads.foldl (fun c n => c.setMbox n { c.mbox n with full := false }) x.c }

/-! Results -/

/-- What a register write makes of the latch history (R25, R26): the value that enters l0. -/
def Crew.newLatch (c : Crew) (d : BitVec 7) (act : Mask) (vals : List Word) : VReg :=
  match vecKind d with
  | .v | .o => c.vreg d.toNat
  | .q => let e := perThread fun t => if act.getLsbD t then lane vals t else 0
          ⟨e, freshTag e⟩
  | _ =>
    let l := c.latch 0
    if l.valid then writeMasked ⟨l.vals, l.tag⟩ act vals else writeMasked VReg.zero act vals

/-- A vector result delivered to field d in the active threads (R25, R26, R28, R30, R34, R64): `shift` for words that
shift the latches. -/
def Ctx.deliver (x : Ctx) (d : BitVec 7) (vals : List Word) (shift : Bool) : Ctx :=
  let act := x.act
  let y : Ctx := match vecKind d with
    | .v | .o => { x with c := x.c.writeReg d.toNat act vals }
    | .q =>
      (x.pushQueue (d.toNat - 104) (perThread fun t => if act.getLsbD t then lane vals t else 0)).mapS
        fun s => s.wakeYields x.w.uid
    | .m => match lowest act with
      | some t => { x with c := x.c.setMbox (d.toNat - 116) ⟨lane vals t, true⟩ }
      | none => x
    | _ => x
  match vecKind d with
  | .v | .o | .q | .l => if shift then { y with c := y.c.shiftLatch (y.c.newLatch d act vals) } else y
  | _ => y

/-- The old values of n registers from field d pushed as one record, where d names registers (R111, R337, R339). DESIGN
CHOICE (log 33): a word whose destination is a latch, zero or a queue pushes none; R111 exempts zero and p7 by name, and a
latch holds no old register value (R26). -/
def Ctx.record (x : Ctx) (d : BitVec 7) (n : Nat) : Ctx :=
  match vecKind d with
  | .v | .o => { x with c := x.c.push x.act (.reg d.toNat ((List.range n).map fun i => x.c.vreg (d.toNat + i))) }
  | _ => x

/-- The old values of n s registers pushed (R111, R122, R339). -/
def Ctx.recordS (x : Ctx) (d : BitVec 7) (n : Nat) : Ctx :=
  match uniKind d with
  | .s => { x with c := x.c.push x.act (.sreg d.toNat ((List.range n).map fun i => x.c.sreg (d.toNat + i))) }
  | _ => x

/-- A scalar result delivered to field d (R29, R30). -/
def Ctx.deliverS (x : Ctx) (d : BitVec 7) (w : Word) : Ctx :=
  match uniKind d with
  | .s => { x with c := x.c.setSreg d.toNat w }
  | .m => { x with c := x.c.setMbox (d.toNat - 116) ⟨w, true⟩ }
  | _ => x

/-! Waits and checks before a word's own meaning -/

/-- v and o registers whose new value is still to come (R168, R229). -/
def Crew.pendingRegs (c : Crew) : List Nat := c.pend.map (·.code)

/-- Whether a word names a mailbox in a state R30 does not allow: read while empty, written while full and not read. -/
def mailboxStalls (c : Crew) (v : View) : Bool :=
  v.mboxReads.any (fun n => !(c.mbox n).full) ||
  v.mboxWrites.any fun n => (c.mbox n).full && !v.mboxReads.contains n

/-- Whether a word acts on threads at all: a vector word with no active thread names nothing (R30, R273). -/
def inert (c : Crew) (v : View) : Bool := !v.uni && c.active == 0

/-- The leader predicate of a leader code (R228). -/
def Crew.leaderPred (c : Crew) (code : Nat) : Mask := c.pred ([0, 1, 2, 7].getD code 7)

/-- Whether a copy instruction has no leader, so that it takes nothing from its field a (R229, R241). -/
def leaderless (i : Instr) (c : Crew) : Bool :=
  match i with
  | .cpy _ f | .cpyq _ f | .gath _ f => c.active &&& c.leaderPred (f.imm.toNat % 4) == 0
  | _ => false

/-- An instruction that takes its operands from a leader, with the mailboxes it names emptied as it retires (R30). -/
def consuming (i : Instr) (r : Res) : Res :=
  match r with
  | .done x => .done (if inert x.c (view i) then x else x.consume (view i))
  | r => r

/-- The instructions at which a running-on crew stalls (R195, R286, R338). -/
def stallsRunOn (i : Instr) : Bool :=
  isBoundary i || match i with
  | .fenceAcq .. | .bkpt _ | .rewind _ | .commit _ | .bwait _ | .bwaitS _ => true
  | _ => match view i with
    | .fmtM _ _ f => f.cls == 2
    | _ => false

/-- Words that end redundant execution's sampling when executed (R357); copies are judged at issue. -/
def abandonsSampling (i : Instr) : Bool :=
  match i with
  | .publ _ | .fetchw _ | .dqpush _ | .dqpop _ | .dqsteal _ | .trap _ => true
  | _ => match view i with
    | .atom .. => true
    | .fmtM .st _ f => (f.cls == 2 && f.sp == 0) || f.sp == 2
    | .fmtM .xchg _ f => f.cls == 2 && f.sp == 0
    | _ => false

/-- The instruction that the step of an illegal word stands for, where the word decodes (R70). -/
def standsFor (i : Instr) : Instr :=
  match i with
  | .illegalEncoding w => match decodeWord w with | .ok j => j | .error _ => i
  | _ => i

/-- Field C of a word that is no assigned encoding (R52). -/
def strayChain (i : Instr) : Bool :=
  match i with
  | .illegalEncoding w => bitOf w 0
  | _ => false

/-- ILLEGAL_PACKET (R50): a misaligned address, a prefix or a B-format word after a prefix, C=1 in slot 2, a transfer
with C=1, a prefix in slot 2 or with C=0. DESIGN CHOICE (log 33): a prefix with C=1 in slot 2 is two of R50's cases, whose
records name C and the major; the model names C. -/
def packetFault (i : Instr) (c : Crew) : Option Flt :=
  let i := standsFor i
  let v := view i
  if slotOf c.pc % 4 != 0 then some { code := .illegalPacket, field := .major }
  else if c.pfx.isSome && (match v with | .fmtB .. | .fmtX _ => true | _ => false) then
    some { code := .illegalPacket, field := .major }
  else if (v.chain || strayChain i) && (slotOf c.wordAddr == 8 || isTransfer i) then some { code := .illegalPacket, field := .chain }
  else if (match v with | .fmtX f => slotOf c.wordAddr == 8 || !f.c | _ => false) then
    some { code := .illegalPacket, field := .major }
  else none

/-- Steps 2 and 3 of R72: an unassigned word is named by its major, minor or sub-op, whose codes come before those of the
prefix's fields (R70, R71). -/
def encodingBad (i : Instr) (p : Option XFields) : Option (Code × Field) :=
  match i with
  | .illegalEncoding w => match decodeWord w with
    | .ok j => legality j p
    | .error e => some (.illegalInstruction, e)
  | _ => legality i p

/-- Steps 1 to 3 of R72: what a word's encoding and its place in the packet forbid. -/
def encodingFault (i : Instr) (c : Crew) : Option Flt :=
  match packetFault i c with
  | some f => some f
  | none => (encodingBad i c.pfx).map fun e => { code := e.1, field := e.2 }

/-- Steps 1 to 4 of R72. -/
def firstFault (i : Instr) (c : Crew) (w : Wg) : Option Flt :=
  match encodingFault i c with
  | some f => some f
  | none =>
    if (view i).mainRegs.any fun n => c.v.length ≤ n then some { code := .regUnallocated } else
    match matrixNames i with
    | (t, k) => if t.any (fun n => w.acc ≤ n) || k.any (fun n => w.wsl ≤ n) then some { code := .matrixUnallocated } else none

/-- A latch-loss replay begins (R348): DIR 1, latches invalid. -/
def Crew.startReplay (c : Crew) (n : Nat) : Crew :=
  { c.clearLatches with
    walk := some ⟨0, .latch, n + 1, c.ic, [], [], []⟩, st := .ready, wait := .none, pfx := none }

/-- The invalid latch a word reads, if any (R27, R143). DESIGN CHOICE (log 33): a word with no active thread, or a copy with
no leader, reads none; R27, R143 and R348 do not say. -/
def lostLatch (i : Instr) (c : Crew) : Option Nat :=
  if inert c (view i) || leaderless i c then none else (view i).latchReads.find? fun n => !(c.latch n).valid

/-- The privileged instructions (R302). -/
def isPrivileged (i : Instr) : Bool :=
  match i with
  | .rft _ | .halt _ | .resume _ | .mfsr _ | .mtsr _ | .tlbiPage _ | .tlbiSize _ | .tlbiRegion _ | .tlbiAll _ => true
  | _ => false

/-- Whether a workgroup's region is a system region (R302). -/
def State.systemWg (s : State) (w : Wg) : Bool := (s.effOf w).any (·.system)

/-- What delays or ends a word of a crew before its own meaning, in the order of R72 and R273 (R168, R195, R295, R348):
none when it goes on to its meaning. PRIVILEGED is the first of step 5 (R302), after the waits for queues and mailboxes. DESIGN
CHOICE (log 33): a word with no active thread, or a copy with no leader, reads the registers it names as any word does, so
that one that fails its check is recovered first (R351); and a privileged word with no active thread that names a mailbox makes
R302's check, which acts whatever the mask, though R273 ends such a word before step 5. -/
def gate (i : Instr) (x : Ctx) : Option Res :=
  let v := view i
  match firstFault i x.c x.w with
  | some f => some (.fault f)
  | none =>
    let own := if isPrivileged i && !x.s.systemWg x.w then some (Res.fault { code := .privileged }) else none
    if x.c.runon.isSome && stallsRunOn i then some .stall
    else if v.vecRegs.any fun n => x.c.pendingRegs.contains n then some (.wait .score .pendingReg)
    else if x.c.replays.any fun r => r.lost && r.home == x.c.ic then some (.fault { code := .latchLost })
    else match x.c.failing (readRegs i) with
    | r :: rs =>
      if x.c.pend.any (·.vals.isSome) then some (.wait .score .pendingReg) else
      let p := x.s.recover x.w x.c (r :: rs)
      some (match p.2 with | .ok c => .keep { x with s := p.1, c := c } | .error f => .faultAt p.1 f)
    | [] => match lostLatch i x.c with
    | some n =>
      if x.c.pend.any (·.vals.isSome) then some (.wait .score .pendingReg)
      else some (.keep { x with c := x.c.startReplay n })
    | none =>
      if inert x.c v || leaderless i x.c then own
      else if (v.pushes ++ v.pops).any fun n => !(x.w.queue n).valid then some (.fault { code := .queueUnmapped })
      else if mailboxStalls x.c v then
        some (if x.s.attached x.w then .wait .blocked .mailbox else .fault { code := .mailboxStall })
      else if v.pushes.isEmpty && v.pops.isEmpty then own
      else if x.c.granted.isNone && !grantable x.s x.w x.c.ref x.s.nextId v.pops v.pushes then
        some (.wait .blocked (.queue v.pops v.pushes))
      else match x.ringFault v with
        | some f => some (.fault f)
        | none => if x.ringWatched v then some x.watchStop else own

/-- What a word that reads status registers is ordered after (R182): the copies whose status words they hold in any thread. -/
def Ctx.readStatus (x : Ctx) (i : Instr) : Ctx :=
  if x.c.stat.isEmpty then x else
  let regs := (view i).vecSrcs
  { x with c := { x.c with clock := x.c.stat.foldl (fun k e =>
      if regs.contains e.code && e.live != 0 then clkJoin k e.clock else k) x.c.clock } }

/-- The instruction at hand of the crew whose word runs: the crew, READY and not in a walk, and its workgroup. -/
def State.ctx (s : State) : Option Ctx :=
  match s.cur with
  | none => none
  | some r =>
    match s.crew? r, s.wg? r.wg with
    | some c, some w =>
      if c.st == .ready && c.walk.isNone && w.core.isSome then some ⟨s, c, w, c.after, false⟩ else none
    | _, _ => none

/-- The code of a stall reason (R360, Table 10). -/
def State.stallReason (_s : State) (w : Wg) (c : Crew) (issued : Bool) : Nat :=
  match c.st, c.wait with
  | .ready, _ =>
    if issued then 0 else match c.walk with
      | some k => if k.why == .latch then 20 else 19
      | none => if c.replays.any (·.latch) then 20 else 16
  | .score, .accrd => 1
  | .score, .pipe => 3
  | .score, _ => if c.pend.any (·.vals.isSome) then 21 else 22
  | .blocked, .queue pops _ => if pops.any fun n => (w.queue n).count < times pops n then 4 else 5
  | .blocked, .mailbox => 6
  | .blocked, .barrier _ _ => 7
  | .blocked, .take _ => 8
  | .blocked, .fetchw _ => 9
  | .blocked, .yield _ => 10
  | .blocked, .window => 11
  | .blocked, .mtile => 12
  | .blocked, _ => 1
  | .stalled, _ => 13
  | .parked, _ => 14
  | .halted, _ => 15
  | .exited, _ => 0

/-- A crew whose watchdog has expired raises WATCHDOG_EXPIRED at its next instruction, after the rollback of a run-on
(R295). -/
def State.expire (s : State) (c : Crew) : State :=
  let n := c.expired.getD 0
  let r := if c.runon.isSome then s.rolledBack c else (s, c)
  r.1.deliver { r.2 with expired := none } { code := .watchdogExpired, detail := n } r.2.pc r.2.ic

/-- The hang watchdog of a workgroup cleared (R295). -/
def State.clearHang (s : State) (uid : Nat) : State :=
  { s with wgs := s.wgs.map fun w => if w.uid == uid then { w with hang := 0 } else w }

/-- The workgroups resident on a core. -/
def State.onCore (s : State) (core : Nat) : List Wg := s.wgs.filter (·.core == some core)

/-- Latches lost by the other crews of a scheduler that issues a word of one (R27). -/
def State.loseOthers (s : State) (core : Nat) (c : Crew) : State :=
  let uids := ((s.onCore core).map (·.uid))
  { s with crews := s.crews.map fun (k : Crew) =>
      if uids.contains k.wg && k.sched == c.sched && k.ref != c.ref then k.loseLatches else k }

/-- Whether a word that issued completes its packet (R264): it is the packet's last, or it was a transfer that was taken (R49).
The crew is as the word left it. -/
def endsPacket (c : Crew) (now : Option Crew) : Bool :=
  slotOf c.wordAddr == 8 || now.any fun d => d.ic != c.ic && (d.xfer || d.pc != c.after)

/-- A word of a crew has issued (R27, R264, R295): WAITCNT and the watchdog begin anew, RUN counts the packet that it completes
where the crew is CUR, the other crews of the scheduler lose their latches, and the crew's chain is under way where more of it
is to issue: also while the word waits, having issued. -/
def State.issueBy (t : State) (core : Nat) (c : Crew) (more : Bool) : State :=
  let now := t.crew? c.ref
  let goes (d : Crew) : Bool := more && (d.wordAddr == c.wordAddr + 4 ||
    (d.wordAddr == c.wordAddr && d.ic == c.ic && (d.st == .blocked || d.st == .score)))
  let t := match now with
    | some d => t.setCrew { d with chain := goes d, waitcnt := 0 }
    | none => t
  let run (q : Sched) : Nat := if q.cur == some c.ref && endsPacket c now then q.run + 1 else q.run
  ((t.modCore core fun k =>
    { k with scheds := k.scheds.modify c.sched fun q => { q with run := run q }, issued := c.ref :: k.issued }).loseOthers
      core c).clearHang c.wg

/-- A word of the crew whose word runs: the checks of R72, then its meaning. -/
def runWord (i : Instr) (body : Ctx → Res) (s : State) : Host.Outcome State Fault Refusal :=
  match s.ctx with
  | none => .refused .noCrew
  | some x =>
    if x.c.expired.isSome then .next (s.expire x.c)
    else
      let s := if abandonsSampling i && (x.w.isShadow || x.w.sampled) then s.abandon x.w.uid else s
      match s.ctx with
      | none => .next s
      | some x => .next (s.finish x.c (isBoundary i) ((gate i x).getD (body (x.readStatus i))))

end Sys2Proof.Machine
end

