-- ==== Sys2Proof/Machine/Alu.lean ====
section
/-! DEFINITION. The shared shapes of register-to-register words: reading operands, recording history, delivering results
(R53, R110 to R113, R119 to R124). -/

namespace Sys2Proof.Machine

/-- Whether a vector word with no active thread stops at once because it names a queue or mailbox (R30, R273). -/
def idle (v : View) (x : Ctx) : Bool := v.namesQM && inert x.c v

/-- A vector result: the record of the old destination where one is due, pops and mailbox reads, the write, the latch
shift, the sticky flags. -/
def vecFinish (v : View) (d : BitVec 7) (rec_ : Bool) (vals : List Word) (fl : Flags) (x : Ctx) : Res :=
  if idle v x then .done x else
  let x := if rec_ then x.record d 1 else x
  let x := (x.consume v).deliver d vals v.shifts
  .done { x with c := x.c.raise fl }

/-- A scalar result: the record, mailbox reads, the write (R122). -/
def scalFinish (v : View) (d : BitVec 7) (rec_ : Bool) (w : Word) (x : Ctx) : Res :=
  let x := if rec_ then x.recordS d 1 else x
  .done ((x.consume v).deliverS d w)

/-- The old destination of an update or accumulating form, in each thread. -/
def Ctx.dest (x : Ctx) (d : BitVec 7) : List Word := (x.c.vreg d.toNat).vals

/-- A binary word of format G on either side: d = a op b, or d = d op a where b holds none (R53); `inv` where its update
form is class I (R112). -/
def gBin (i : Instr) (f : GFields) (inv : Bool) (op : Word → Word → Word) (x : Ctx) : Res :=
  let upd := f.b == 127
  let rec_ := if upd then !(inv && invOperand f.uni f.d f.a 1) else !f.f
  if f.uni then
    let r := if upd then op (x.c.sreg f.d.toNat) (x.c.scalarSrc f.a) else op (x.c.scalarSrc f.a) (x.c.scalarSrc f.b)
    scalFinish (view i) f.d rec_ r x
  else
    let p := if upd then x.dest f.d else x.srcA f.a
    let q := if upd then x.srcA f.a else x.srcB f.a f.b
    vecFinish (view i) f.d rec_ (perThread fun t => op (lane p t) (lane q t)) {} x

/-- A unary word of format G (R53). -/
def gUn (i : Instr) (f : GFields) (op : Word → Word) (x : Ctx) : Res :=
  if f.uni then scalFinish (view i) f.d (!f.f) (op (x.c.scalarSrc f.a)) x
  else
    let p := x.srcA f.a
    vecFinish (view i) f.d (!f.f) (perThread fun t => op (lane p t)) {} x

/-- An accumulating word of format G: d = op d a b (R113). -/
def gAcc (i : Instr) (f : GFields) (op : Word → Word → Word → Word) (x : Ctx) : Res :=
  if f.uni then
    scalFinish (view i) f.d true (op (x.c.sreg f.d.toNat) (x.c.scalarSrc f.a) (x.c.scalarSrc f.b)) x
  else
    let p := x.srcA f.a
    let q := x.srcB f.a f.b
    let d := x.dest f.d
    vecFinish (view i) f.d true (perThread fun t => op (lane d t) (lane p t) (lane q t)) {} x

/-- A predicate written in the active threads, with its record (R31, R111, R123). -/
def predFinish (v : View) (d : Nat) (rec_ : Bool) (bits : Mask) (fl : Flags) (x : Ctx) : Res :=
  if idle v x then .done x else
  let act := x.act
  let x := if rec_ && d < 7 then { x with c := x.c.push act (.pred d (x.c.pred d)) } else x
  let x := x.consume v
  .done { x with c := (x.c.setPred d act bits).raise fl }

/-- A scalar predicate written, with its record (R122). -/
def spredFinish (v : View) (d : Nat) (rec_ : Bool) (bit : Bool) (x : Ctx) : Res :=
  let x := if rec_ then { x with c := x.c.push x.act (.spred d (x.c.sp.getD d false)) } else x
  let x := x.consume v
  .done { x with c := { x.c with sp := x.c.sp.set d bit } }

/-- A compare (R123). -/
def gCmp (i : Instr) (f : GFields) (op : Word → Word → Bool) (x : Ctx) : Res :=
  if f.uni then spredFinish (view i) f.d.toNat true (op (x.c.scalarSrc f.a) (x.c.scalarSrc f.b)) x
  else
    let p := x.srcA f.a
    let q := x.srcB f.a f.b
    predFinish (view i) f.d.toNat true (maskOf fun t => op (lane p t) (lane q t)) {} x

/-- A word on predicates (R124): `inv` where its update form is class I unless a is d. -/
def gPred (i : Instr) (f : GFields) (inv : Bool) (op : Mask → Mask → Mask) (x : Ctx) : Res :=
  let upd := f.b == 127
  let rec_ := !(upd && inv && f.a != f.d)
  if f.uni then
    let sp (n : BitVec 7) : Mask := if x.c.sp.getD n.toNat false then allThreads else 0
    let r := if upd then op (sp f.d) (sp f.a) else op (sp f.a) (sp f.b)
    spredFinish (view i) f.d.toNat rec_ (r.getLsbD 0) x
  else
    let p (n : BitVec 7) := x.c.pred n.toNat
    let r := if upd then op (p f.d) (p f.a) else op (p f.a) (p f.b)
    predFinish (view i) f.d.toNat rec_ r {} x

/-- The two words of 32 pairs. -/
def lows (l : List DWord) : List Word := l.map loWord
/-- The high words. -/
def highs (l : List DWord) : List Word := l.map hiWord

/-- A word whose destination is a pair of vector registers: both records in one, l0 receives the low register (R119). -/
def pairFinish (v : View) (d : BitVec 7) (rec_ : Bool) (vals : List DWord) (x : Ctx) : Res :=
  if idle v x then .done x else
  let x := if rec_ then x.record d 2 else x
  let x := ((x.consume v).deliver (d + 1) (highs vals) false).deliver d (lows vals) v.shifts
  .done x

/-- A scalar word whose destination is a pair (R119, R122). -/
def pairFinishS (v : View) (d : BitVec 7) (rec_ : Bool) (r : DWord) (x : Ctx) : Res :=
  let x := if rec_ then x.recordS d 2 else x
  .done (((x.consume v).deliverS d (loWord r)).deliverS (d + 1) (hiWord r))

/-- A pair of s registers, or zero. -/
def Crew.pairS (c : Crew) (n : BitVec 7) : DWord := pairOf (c.scalarSrc n) (c.scalarSrc (n + 1))

/-- LEA and LEAU (R119): a 64-bit sum with an extended single addend. -/
def gLea (i : Instr) (f : GFields) (ext : Word → DWord) (x : Ctx) : Res :=
  let upd := f.b == 127
  let rec_ := if upd then !invOperand f.uni f.d f.a 2 else !f.f
  if f.uni then
    let r := if upd then x.c.pairS f.d + ext (x.c.scalarSrc f.a) else x.c.pairS f.a + ext (x.c.scalarSrc f.b)
    pairFinishS (view i) f.d rec_ r x
  else
    let base : List DWord := if upd then
        threads.map fun t => pairOf (lane (x.dest f.d) t) (lane (x.dest (f.d + 1)) t)
      else x.pairA f.a
    let add := if upd then x.srcA f.a else x.srcB f.a f.b
    pairFinish (view i) f.d rec_ (threads.map fun t => base.getD t 0 + ext (lane add t)) x

/-- ADD64 (R119). -/
def gAdd64 (i : Instr) (f : GFields) (x : Ctx) : Res :=
  let upd := f.b == 127
  let rec_ := if upd then !invOperand f.uni f.d f.a 2 else !f.f
  if f.uni then
    let r := if upd then x.c.pairS f.d + x.c.pairS f.a else x.c.pairS f.a + x.c.pairS f.b
    pairFinishS (view i) f.d rec_ r x
  else
    let base : List DWord := if upd then
        threads.map fun t => pairOf (lane (x.dest f.d) t) (lane (x.dest (f.d + 1)) t)
      else x.pairA f.a
    let add := if upd then x.pairA f.a else x.pairB f.b
    pairFinish (view i) f.d rec_ (threads.map fun t => base.getD t 0 + add.getD t 0) x

/-- SWAP (R120): d and a exchanged in each active thread, no history, l0 receives the new d. DESIGN CHOICE (log 33): a SWAP
of a register with itself retags it and shifts the latches, though R120 also says that it changes nothing. -/
def gSwap (i : Instr) (f : GFields) (x : Ctx) : Res :=
  if f.uni then
    let p := x.c.sreg f.d.toNat
    let q := x.c.sreg f.a.toNat
    .done ((x.deliverS f.a p).deliverS f.d q)
  else
    let p := x.dest f.d
    let q := x.dest f.a
    .done ((x.deliver f.a p false).deliver f.d q (view i).shifts)

/-- An immediate word on a vector register (R121): `inv` where it is class I. -/
def iVec (i : Instr) (f : IFields) (inv : Bool) (op : Word → Word) (x : Ctx) : Res :=
  let d := x.dest f.d
  vecFinish (view i) f.d (!inv) (perThread fun t => op (lane d t)) {} x

/-- An immediate word on an s register (R121, R122). -/
def iScal (i : Instr) (f : IFields) (inv : Bool) (op : Word → Word) (x : Ctx) : Res :=
  scalFinish (view i) f.d (!inv) (op (x.c.sreg f.d.toNat)) x

/-- The sign-extended immediate (R57). -/
def immS (f : IFields) : Word := f.imm.signExtend 32
/-- The zero-extended immediate (R57). -/
def immZ (f : IFields) : Word := f.imm.setWidth 32

end Sys2Proof.Machine
end

