-- ==== Sys2Proof/Machine/LoadStore.lean ====
section
/-! DEFINITION. Loads, stores and exchanges (R202 to R210); stores to the multicast-reduce window (R219, R220). -/

namespace Sys2Proof.Machine

/-- The signed byte offset of a format M word (R58). -/
def byteOff (f : MFields) (size : Nat) : Int := f.off.toInt * size

/-- The address of each active thread (R202): modulo 2^64 in global and window space, a signed sum in scratchpad. -/
def Ctx.addrs (x : Ctx) (f : MFields) (size : Nat) : List AReq :=
  (members x.act).map fun t =>
    if f.sp == 1 then ⟨t, (lane (x.rawSrc f.a 0) t).toNat + byteOff f size⟩
    else
      let base := pairOf (lane (x.rawSrc f.a 0) t) (lane (x.rawSrc (f.a + 1) 0) t)
      ⟨t, (base + BitVec.ofInt 64 (byteOff f size)).toNat⟩

/-- The word that n bytes from the k-th give, zero-extended (R205). -/
def wordOf (bs : List Byte) (k : Nat) : Word := BitVec.ofNat 32 (leNat ((bs.drop (4 * k)).take 4))

/-- Values read, per thread: word k of each active thread's bytes. -/
def loaded (l : List (Nat × List Byte)) (k : Nat) : List Word :=
  perThread fun t => match l.find? (·.1 == t) with | some p => wordOf p.2 k | none => 0

/-- n registers from field d written, the highest first, none shifting the latches. -/
def Ctx.deliverWords (x : Ctx) (d : BitVec 7) (word : Nat → List Word) : Nat → Ctx
  | 0 => x
  | n + 1 => (x.deliver (d + BitVec.ofNat 7 n) (word n) false).deliverWords d word n

/-- Registers that an access of a size names (R205). -/
def regsOf (size : Nat) : Nat := if size ≤ 4 then 1 else size / 4

/-- What every access in an ordinary space observes besides its bytes: bank stalls, L1 accesses. -/
def Ctx.observe (x : Ctx) (scratch : Bool) (way : Way) (l : List Acs) : Ctx :=
  if x.w.isShadow then x
  else if scratch then x.stallBanks (l.map fun a => (a.t, a.addr, a.n)) else x.countL1 way l

/-- A load (R205, R206): the checks of R203, one access per active thread, the write with its record. -/
def ldBody (size : Nat) (f : MFields) (x : Ctx) : Res :=
  if x.act == 0 then .done x else
  let scr := f.sp == 1
  match x.check scr .load f.cls.toNat false true size (x.addrs f size) with
  | .error e => .faultAt (x.walked scr .load false size (x.addrs f size)) e
  | .ok (s, accs) =>
    if watchHit s x.w scr .load accs then { x with s := s }.watchStop else
    let r := ({ x with s := s }.observe scr .load accs).readAll scr f.cls.toNat accs
    let n := regsOf size
    .done ((r.1.record f.d n).deliverWords f.d (loaded r.2) n)

/-- The bytes a store writes in a thread (R205). -/
def Ctx.storeBytes (x : Ctx) (d : BitVec 7) (size t : Nat) : List Byte :=
  ((List.range (regsOf size)).flatMap fun k =>
    leBytes (lane (x.rawWord d k) t).toNat 4).take size

/-- The old bytes of a running-on crew's store, threads in order (R193, R204, R208): what the bytes are for the crew itself,
its buffered stores merged over memory. -/
def Ctx.bufferOld (x : Ctx) (scr : Bool) : RunOn → List (Acs × List Byte) → List (Nat × List Byte)
  | _, [] => []
  | ro, p :: rest =>
    let at_ := (p.1.bytesAt scr .store).map (·.1)
    let old := at_.map fun a => (ro.buffered scr a).getD (memByte (if scr then x.w.scr else x.s.mem) a)
    (p.1.addr, old) :: x.bufferOld scr { ro with buf := ro.buf ++ [⟨scr, [], at_.zip p.2, true, x.c.ic, []⟩] } rest

/-- A store of a running-on crew enters its buffer (R288): the record holds what the bytes are for the crew itself. -/
def Ctx.bufferStore (x : Ctx) (scr : Bool) (cls : Nat) (l : List (Acs × List Byte)) (ro : RunOn) : Res :=
  let at_ (a : Acs) : List Nat := (a.bytesAt scr .store).map (·.1)
  let b : BufStore := ⟨scr, l.map fun p => (p.1.addr, p.2), l.flatMap fun p => (at_ p.1).zip p.2, cls != 0, x.c.ic, ro.pubs⟩
  if x.bufferFull ro b then .stall else
  let old := x.bufferOld scr ro l
  let c := x.c.push x.act (.store scr (l.head?.map (·.1.n) |>.getD 0) old)
  .done { x with c := { c with runon := some { ro with buf := ro.buf ++ [b] } } }

/-- A store to scratchpad or global space (R205). -/
def stBody (i : Instr) (size : Nat) (f : MFields) (x : Ctx) : Res :=
  if x.act == 0 then .done x else
  let scr := f.sp == 1
  let cls := f.cls.toNat
  match x.check scr .store cls false (cls != 2 && !(view i).namesQM) size (x.addrs f size) with
  | .error e => .faultAt (x.walked scr .store false size (x.addrs f size)) e
  | .ok (s, accs) =>
    if watchHit s x.w scr .store accs then { x with s := s }.watchStop else
    let x := { x with s := s }.observe scr .store accs
    let l := accs.map fun a => (a, x.storeBytes f.d size a.t)
    match x.c.runon with
    | some ro => x.bufferStore scr cls l ro
    | none =>
      let old := oldBytes scr x l
      let y := (x.consume (view i)).writeAll scr cls .store l
      let c := if cls == 2 then y.c.tick else y.c.push x.act (.store scr size old)
      .done { y with c := c }

/-! The multicast-reduce window (R219, R220) -/

/-- The group a handle names in a region (R219). -/
def State.groupOf (s : State) (region handle : Nat) : Option Group :=
  s.groups.find? fun g => g.region == region && g.handle == handle

/-- The member a workgroup is, if any (R378). -/
def Group.member (g : Group) (dev : Nat) (nodeAddr : Nat) (w : Wg) : Option Nat :=
  g.members.findIdx? fun m => m.dev == dev && m.node == nodeAddr && m.wg == w.index

/-- Whether a member's contribution to an offset is in an open round (R197). -/
def Group.has (g : Group) (off member : Nat) : Bool :=
  g.rounds.any fun r => r.off == off && r.parts.any (·.1 == member)

/-- A contribution added to the round of its offset (R197), with what a fence of the contributor has ordered before it. -/
def Group.contribute (g : Group) (off member : Nat) (val : Word) (clk : Clock) : Group :=
  if g.rounds.any (·.off == off) then
    { g with rounds := g.rounds.map fun r =>
        if r.off == off then { r with parts := r.parts ++ [(member, val)], clock := clkJoin r.clock clk } else r }
  else { g with rounds := g.rounds ++ [⟨off, [(member, val)], clk⟩] }

/-- One group replaced. -/
def State.setGroup (s : State) (g : Group) : State :=
  { s with groups := s.groups.map fun h => if h.id == g.id then g else h }

/-- The address of a workgroup's launch node. -/
def State.nodeAddr (s : State) (w : Wg) : Nat := ((s.node? w.launch).map (·.addr)).getD 0

/-- The group that a handle names for a workgroup, with the workgroup's place in it: a group of its region, or of an ancestor,
which may have members in its descendants (R378, R379); the nearest region that has one. -/
def State.groupFor (s : State) (w : Wg) (handle : Nat) : Option (Group × Nat) :=
  (w.region :: (((s.node? w.launch).map fun n => n.chain.map (·.1)).getD [])).findSome? fun r =>
    (s.groupOf r handle).bind fun g => (g.member s.port.devnum.toNat (s.nodeAddr w) w).map fun k => (g, k)

/-- The group and member behind a window address of the crew at hand, with the offset (R219): none for ADDRESS_RANGE. -/
def Ctx.window (x : Ctx) (addr size : Nat) : Option (Group × Nat × Nat) :=
  if 2 ^ 48 ≤ addr then none else
  match x.s.groupFor x.w (addr / 2 ^ 40) with
  | none => none
  | some (g, k) => if addr % 2 ^ 40 + size ≤ g.wsize then some (g, k, addr % 2 ^ 40) else none

/-- The lowest byte of a window access that fails ADDRESS_RANGE: past the window, or its first. -/
def Ctx.windowByte (x : Ctx) (addr : Nat) : Nat :=
  if 2 ^ 48 ≤ addr then addr else
  match x.s.groupFor x.w (addr / 2 ^ 40) with
  | some (g, _) => if addr % 2 ^ 40 < g.wsize then addr - addr % 2 ^ 40 + g.wsize else addr
  | none => addr

/-- A store to the window (R219, R220): a contribution per element, or a stall until the member's open rounds at its
offsets are delivered. A contribution releases nothing; what a release fence of package scope or wider put before it comes
before the delivery (R197, R222). DESIGN CHOICE (log 33): ADDR of MCR_DUPLICATE is that of the first thread that names an
earlier thread's offset. -/
def windowBody (i : Instr) (size : Nat) (f : MFields) (x : Ctx) : Res :=
  if x.act == 0 then .done x else
  let reqs := x.addrs f size
  match reqs.find? fun r => (x.window r.addr.toNat size).isNone with
  | some r => .fault { code := .addressRange, addr := x.windowByte r.addr.toNat, access := 2 }
  | none =>
    match alignFault .store size reqs with
    | some e => .fault e
    | none =>
      let dup := (reqs.zipIdx.find? fun r => (reqs.take r.2).any fun q =>
        overlap r.1.addr.toNat size q.addr.toNat size).map (·.1)
      match dup with
      | some r => .fault { code := .mcrDuplicate, addr := r.addr.toNat, access := 2 }
      | none =>
        let elems := reqs.flatMap fun r =>
          (List.range (size / 4)).map fun k => (r.addr.toNat + 4 * k, lane (x.rawWord f.d k) r.t)
        let busy := elems.any fun e => match x.window e.1 4 with
          | some (g, k, off) => g.has off k
          | none => false
        if windowHit x.s x.w (reqs.map fun r => (r.addr.toNat, size)) then x.watchStop else
        if busy then .wait .blocked .window else
        let x := x.consume (view i)
        .done (elems.foldl (fun x e => match x.window e.1 4 with
          | some (g, k, off) => { x with s := x.s.setGroup (g.contribute off k e.2 x.c.fenceClk) }
          | none => x) x)

/-- A store in any space. -/
def stAny (i : Instr) (size : Nat) (f : MFields) (x : Ctx) : Res :=
  if f.sp == 2 then windowBody i size f x else stBody i size f x

/-! Exchange (R210) -/

/-- One thread's exchange: the old word read, the new one written; a strong one acquires what it reads and releases
(R210). -/
def Ctx.exchange (x : Ctx) (scr : Bool) (cls : Nat) (new : Word → Word) (a : Acs) : Ctx × Word :=
  let r := if scr then memRead x.w.scr a.addr a.n else a.pieces.flatMap fun p => memRead x.s.mem p.phys.rd p.len
  let rels := if cls != 2 then [] else if scr then relsOf x.w.stags a.addr a.n
    else a.pieces.flatMap fun p => relsOf x.s.tags p.phys.rd p.len
  let old := wordOf r 0
  ({ x with c := x.c.acquireRels (crewPlace x.w x.c) (spaceScope scr) rels }.writeOne scr cls .both a (leBytes (new old).toNat 4), old)

/-- All threads' exchanges in the order given. -/
def Ctx.exchangeAll (x : Ctx) (scr : Bool) (cls : Nat) (d : List Word) : List Acs → Ctx × List (Nat × Word)
  | [] => (x, [])
  | a :: rest =>
    let r := x.exchange scr cls (fun _ => lane d a.t) a
    let q := r.1.exchangeAll scr cls d rest
    (q.1, (a.t, r.2) :: q.2)

/-- A running-on crew's exchanges: each reads through its buffer and buffers its store (R193, R288). -/
def Ctx.exchangeBuf (x : Ctx) (scr : Bool) (d : List Word) : List Acs → Ctx × List (Nat × Word)
  | [] => (x, [])
  | a :: rest =>
    let r := x.readOne scr 1 a
    let new := leBytes (lane d a.t).toNat 4
    let b : BufStore := ⟨scr, [(a.addr, new)], ((a.bytesAt scr .both).map (·.1)).zip new, true, x.c.ic, (r.1.c.runon.map (·.pubs)).getD []⟩
    let c := { r.1.c with runon := r.1.c.runon.map fun ro => { ro with buf := ro.buf ++ [b] } }
    let q := ({ r.1 with c := c }).exchangeBuf scr d rest
    (q.1, (a.t, wordOf r.2 0) :: q.2)

/-- XCHG on its operands: a plain one of a running-on crew stalls where the buffer lacks a sector (R195, R288). -/
def xchgBody (f : MFields) (x : Ctx) : Res :=
  if x.act == 0 then .done x else
  let scr := f.sp == 1
  match x.check scr .both f.cls.toNat true true 4 (x.addrs f 4) with
  | .error e => .faultAt (x.walked scr .both true 4 (x.addrs f 4)) e
  | .ok (s, accs) =>
    if watchHit s x.w scr .both accs then { x with s := s }.watchStop else
    let x := { x with s := s }.observe scr .both accs
    let all : BufStore := ⟨scr, [], accs.flatMap fun a => (a.bytesAt scr .both).map fun p => (p.1, 0), true, x.c.ic, []⟩
    if x.c.runon.any fun ro => x.bufferFull ro all then .stall else
    let r := if x.c.runon.isSome then x.exchangeBuf scr (x.dest f.d) accs
      else x.exchangeAll scr f.cls.toNat (x.dest f.d) accs
    let y := if f.cls == 2 then { r.1 with c := r.1.c.tick } else r.1
    .done (y.deliver f.d (perThread fun t => ((r.2.find? (·.1 == t)).map (·.2)).getD 0) false)

/-- LD.8 (R205). -/
def execLd8 (f : MFields) (s : State) : Host.Outcome State Fault Refusal := runWord (.ld8 f) (ldBody 1 f) s
/-- LD.16 (R205). -/
def execLd16 (f : MFields) (s : State) : Host.Outcome State Fault Refusal := runWord (.ld16 f) (ldBody 2 f) s
/-- LD.32 (R205). -/
def execLd32 (f : MFields) (s : State) : Host.Outcome State Fault Refusal := runWord (.ld32 f) (ldBody 4 f) s
/-- LD.64 (R205). -/
def execLd64 (f : MFields) (s : State) : Host.Outcome State Fault Refusal := runWord (.ld64 f) (ldBody 8 f) s
/-- LD.128 (R205). -/
def execLd128 (f : MFields) (s : State) : Host.Outcome State Fault Refusal := runWord (.ld128 f) (ldBody 16 f) s
/-- ST.8 (R205). -/
def execSt8 (f : MFields) (s : State) : Host.Outcome State Fault Refusal := runWord (.st8 f) (stAny (.st8 f) 1 f) s
/-- ST.16 (R205). -/
def execSt16 (f : MFields) (s : State) : Host.Outcome State Fault Refusal := runWord (.st16 f) (stAny (.st16 f) 2 f) s
/-- ST.32 (R205, R220). -/
def execSt32 (f : MFields) (s : State) : Host.Outcome State Fault Refusal := runWord (.st32 f) (stAny (.st32 f) 4 f) s
/-- ST.64 (R205, R220). -/
def execSt64 (f : MFields) (s : State) : Host.Outcome State Fault Refusal := runWord (.st64 f) (stAny (.st64 f) 8 f) s
/-- ST.128 (R205, R220). -/
def execSt128 (f : MFields) (s : State) : Host.Outcome State Fault Refusal := runWord (.st128 f) (stAny (.st128 f) 16 f) s
/-- XCHG (R210). -/
def execXchg (f : MFields) (s : State) : Host.Outcome State Fault Refusal := runWord (.xchg f) (xchgBody f) s

end Sys2Proof.Machine
end

