-- ==== Sys2Proof/Machine/Atomic.lean ====
section
/-! DEFINITION. Atomics (R211 to R218). -/

namespace Sys2Proof.Machine

/-- The new memory value of an atomic from the old value, the operand and, for CAS, the compare value (R212, Table 3;
R213): numbers of w bits. -/
inductive AtomOp where
  | add | fadd | and | or | xor | imin | imax | exch | umin | umax | cas
  deriving DecidableEq, Repr

/-- The signed value of a number of w bits. -/
def signedOf (w m : Nat) : Int := if m < 2 ^ (w - 1) then m else (m : Int) - (2 ^ w : Nat)

/-- ATOM.FADD of two words: RNE, no flush, no flag (R215). -/
def atomFaddWord (m x : Nat) : Nat :=
  (roundTo fp32 (Exact.sum false [fp32.value (m % 2 ^ 32), fp32.value (x % 2 ^ 32)]).1 ⟨.rne, false, false, 0⟩).1

/-- NewValue(op, m, x) (R212, R213): x is the operand, and for CAS the compare value below the new one. -/
def AtomOp.new (op : AtomOp) (w m x : Nat) : Nat :=
  match op with
  | .add => (m + x) % 2 ^ w
  | .fadd => atomFaddWord m x
  | .and => m &&& x
  | .or => m ||| x
  | .xor => m ^^^ x
  | .imin => if signedOf w m ≤ signedOf w x then m else x
  | .imax => if signedOf w m ≤ signedOf w x then x else m
  | .exch => x
  | .umin => min m x
  | .umax => max m x
  | .cas => if m == x % 2 ^ w then x / 2 ^ w else m

/-- The number that k registers from field b hold in a thread, the lowest register lowest, each permuted (R65). -/
def Ctx.operandNat (x : Ctx) (b : BitVec 7) (t : Nat) : Nat → Nat
  | 0 => 0
  | k + 1 => x.operandNat b t k + (lane (permute x.patB (x.rawSrc (b + BitVec.ofNat 7 k) 0)) t).toNat * 2 ^ (32 * k)

/-- The address of each active thread of an atomic (R211). -/
def Ctx.atomAddrs (x : Ctx) (scr : Bool) (a : BitVec 7) : List AReq :=
  (members x.act).map fun t =>
    if scr then ⟨t, (lane (x.srcA a) t).toNat⟩
    else ⟨t, (pairOf (lane (x.rawSrc a 0) t) (lane (x.rawSrc (a + 1) 0) t)).toNat⟩

/-- All threads' atomics in ascending order (R214): the old values by thread. -/
def Ctx.atomAll (x : Ctx) (scr : Bool) (op : AtomOp) (n : Nat) (operand : Nat → Nat) :
    List Acs → Ctx × List (Nat × List Byte)
  | [] => (x, [])
  | a :: rest =>
    let old := if scr then memRead x.w.scr a.addr n else a.pieces.flatMap fun p => memRead x.s.mem p.phys.rd p.len
    let rels := if scr then relsOf x.w.stags a.addr n else a.pieces.flatMap fun p => relsOf x.s.tags p.phys.rd p.len
    let new := leBytes (op.new (8 * n) (leNat old) (operand a.t)) n
    let y := { x with c := x.c.acquireRels (crewPlace x.w x.c) (spaceScope scr) rels }.writeAtom scr a new
    let q := y.atomAll scr op n operand rest
    (q.1, (a.t, old) :: q.2)

/-- The lines of the core's non-coherent L1 that an atomic touches, dropped (R216). -/
def Ctx.dropLines (x : Ctx) (l : List Acs) : Ctx :=
  if (x.s.core x.coreNo).ncl1.isEmpty then x else
  let lines := l.flatMap fun a => a.pieces.map fun p => p.phys.wr / 128
  { x with s := x.s.modCore x.coreNo fun k => { k with ncl1 := k.ncl1.filter fun e => !lines.contains (e.1 / 128) } }

/-- An atomic (R211 to R216): the checks of R203, each thread's read and write in order, the old values to d. -/
def atomBody (i : Instr) (scr : Bool) (op : AtomOp) (f : AFields) (x : Ctx) : Res :=
  if x.act == 0 then .done x else
  let k := atomRegs f.w
  let n := 4 * k
  match x.check scr .both 2 true true n (x.atomAddrs scr f.a) with
  | .error e => .faultAt (x.walked scr .both true n (x.atomAddrs scr f.a)) e
  | .ok (s, accs) =>
    if watchHit s x.w scr .both accs then { x with s := s }.watchStop else
    let x := { x with s := s }
    let x := if scr then x.observe true .both accs else x.dropLines accs
    let b (t : Nat) : Nat := x.operandNat f.b t (if op == .cas then 2 * k else k)
    let r := (x.consume (view i)).atomAll scr op n b accs
    let y := { r.1 with c := r.1.c.tick }
    .done (if f.d == 127 then y else y.deliverWords f.d (loaded r.2) k)

/-- ATOM.ADD (R211 to R215). -/
def execAtomAdd (f : AFields) (s : State) : Host.Outcome State Fault Refusal :=
  runWord (.atomAdd f) (atomBody (.atomAdd f) false .add f) s
/-- ATOM.FADD (R211 to R215). -/
def execAtomFadd (f : AFields) (s : State) : Host.Outcome State Fault Refusal :=
  runWord (.atomFadd f) (atomBody (.atomFadd f) false .fadd f) s
/-- ATOM.AND (R211 to R215). -/
def execAtomAnd (f : AFields) (s : State) : Host.Outcome State Fault Refusal :=
  runWord (.atomAnd f) (atomBody (.atomAnd f) false .and f) s
/-- ATOM.OR (R211 to R215). -/
def execAtomOr (f : AFields) (s : State) : Host.Outcome State Fault Refusal :=
  runWord (.atomOr f) (atomBody (.atomOr f) false .or f) s
/-- ATOM.XOR (R211 to R215). -/
def execAtomXor (f : AFields) (s : State) : Host.Outcome State Fault Refusal :=
  runWord (.atomXor f) (atomBody (.atomXor f) false .xor f) s
/-- ATOM.IMIN (R211 to R215). -/
def execAtomImin (f : AFields) (s : State) : Host.Outcome State Fault Refusal :=
  runWord (.atomImin f) (atomBody (.atomImin f) false .imin f) s
/-- ATOM.IMAX (R211 to R215). -/
def execAtomImax (f : AFields) (s : State) : Host.Outcome State Fault Refusal :=
  runWord (.atomImax f) (atomBody (.atomImax f) false .imax f) s
/-- ATOM.EXCH (R211 to R215). -/
def execAtomExch (f : AFields) (s : State) : Host.Outcome State Fault Refusal :=
  runWord (.atomExch f) (atomBody (.atomExch f) false .exch f) s
/-- ATOM.UMIN (R211 to R215). -/
def execAtomUmin (f : AFields) (s : State) : Host.Outcome State Fault Refusal :=
  runWord (.atomUmin f) (atomBody (.atomUmin f) false .umin f) s
/-- ATOM.UMAX (R211 to R215). -/
def execAtomUmax (f : AFields) (s : State) : Host.Outcome State Fault Refusal :=
  runWord (.atomUmax f) (atomBody (.atomUmax f) false .umax f) s
/-- ATOM.CAS (R211 to R215). -/
def execAtomCas (f : AFields) (s : State) : Host.Outcome State Fault Refusal :=
  runWord (.atomCas f) (atomBody (.atomCas f) false .cas f) s
/-- ATOM.ADD.SCR (R211 to R215). -/
def execAtomAddScr (f : AFields) (s : State) : Host.Outcome State Fault Refusal :=
  runWord (.atomAddScr f) (atomBody (.atomAddScr f) true .add f) s
/-- ATOM.FADD.SCR (R211 to R215). -/
def execAtomFaddScr (f : AFields) (s : State) : Host.Outcome State Fault Refusal :=
  runWord (.atomFaddScr f) (atomBody (.atomFaddScr f) true .fadd f) s
/-- ATOM.AND.SCR (R211 to R215). -/
def execAtomAndScr (f : AFields) (s : State) : Host.Outcome State Fault Refusal :=
  runWord (.atomAndScr f) (atomBody (.atomAndScr f) true .and f) s
/-- ATOM.OR.SCR (R211 to R215). -/
def execAtomOrScr (f : AFields) (s : State) : Host.Outcome State Fault Refusal :=
  runWord (.atomOrScr f) (atomBody (.atomOrScr f) true .or f) s
/-- ATOM.XOR.SCR (R211 to R215). -/
def execAtomXorScr (f : AFields) (s : State) : Host.Outcome State Fault Refusal :=
  runWord (.atomXorScr f) (atomBody (.atomXorScr f) true .xor f) s
/-- ATOM.IMIN.SCR (R211 to R215). -/
def execAtomIminScr (f : AFields) (s : State) : Host.Outcome State Fault Refusal :=
  runWord (.atomIminScr f) (atomBody (.atomIminScr f) true .imin f) s
/-- ATOM.IMAX.SCR (R211 to R215). -/
def execAtomImaxScr (f : AFields) (s : State) : Host.Outcome State Fault Refusal :=
  runWord (.atomImaxScr f) (atomBody (.atomImaxScr f) true .imax f) s
/-- ATOM.EXCH.SCR (R211 to R215). -/
def execAtomExchScr (f : AFields) (s : State) : Host.Outcome State Fault Refusal :=
  runWord (.atomExchScr f) (atomBody (.atomExchScr f) true .exch f) s
/-- ATOM.UMIN.SCR (R211 to R215). -/
def execAtomUminScr (f : AFields) (s : State) : Host.Outcome State Fault Refusal :=
  runWord (.atomUminScr f) (atomBody (.atomUminScr f) true .umin f) s
/-- ATOM.UMAX.SCR (R211 to R215). -/
def execAtomUmaxScr (f : AFields) (s : State) : Host.Outcome State Fault Refusal :=
  runWord (.atomUmaxScr f) (atomBody (.atomUmaxScr f) true .umax f) s
/-- ATOM.CAS.SCR (R211 to R215). -/
def execAtomCasScr (f : AFields) (s : State) : Host.Outcome State Fault Refusal :=
  runWord (.atomCasScr f) (atomBody (.atomCasScr f) true .cas f) s

end Sys2Proof.Machine
end

