-- ==== Sys2Proof/Machine/Barrier.lean ====
section
/-! DEFINITION. Barrier objects (R282 to R285): arrivals, counted bytes, the completion of a phase. -/

namespace Sys2Proof.Machine

/-- A barrier object (R282, Table 4); `res0` and `res1` are its reserved bits. -/
structure Obj where
  mask : Nat
  arrexp : Nat
  arrived : Nat
  phase : Nat
  exp : Nat
  res0 : Nat
  land : Nat
  res1 : Nat
  deriving DecidableEq, Repr

/-- The object at a scratchpad offset. -/
def Wg.obj (w : Wg) (off : Nat) : Obj :=
  let x := memNat w.scr off 16
  ⟨bitsOf x 31 0, bitsOf x 37 32, bitsOf x 43 38, bitsOf x 63 44, bitsOf x 90 64, bitsOf x 95 91, bitsOf x 122 96,
    bitsOf x 127 123⟩

/-- The 16 bytes of an object. -/
def Obj.bytes (o : Obj) : List Byte :=
  leBytes (o.mask + o.arrexp * 2 ^ 32 + o.arrived * 2 ^ 38 + o.phase * 2 ^ 44 + o.exp * 2 ^ 64 + o.res0 * 2 ^ 91 +
    o.land * 2 ^ 96 + o.res1 * 2 ^ 123) 16

/-- The arrivals a phase of the object needs (R282). -/
def Obj.need (o : Obj) (w : Wg) : Nat := if o.arrexp == 0 then w.ncrew else o.arrexp

/-- Whether the phase is complete (R283). -/
def Obj.complete (o : Obj) (w : Wg) : Bool := o.arrived == o.need w && o.land == o.exp

/-- Whether every arrival has come and more bytes have landed than are expected (R284). -/
def Obj.over (o : Obj) (w : Wg) : Bool := o.arrived == o.need w && o.exp < o.land

/-- The object at the start of its next phase (R283). -/
def Obj.nextPhase (o : Obj) : Obj :=
  { o with phase := (o.phase + 1) % 2 ^ 20, arrived := 0, mask := 0, exp := 0, land := 0 }

/-- Whether a wait for a phase returns: D lies in 1 to 2^19 (R285). -/
def Obj.passed (o : Obj) (k : Nat) : Bool :=
  let d := (o.phase + 2 ^ 20 - k % 2 ^ 20) % 2 ^ 20
  1 ≤ d && d ≤ 2 ^ 19

/-- The clocks of an object. -/
def Wg.barClk (w : Wg) (off : Nat) : BarClk := (w.bars.find? (·.off == off)).getD ⟨off, ⟨0, [], [], []⟩, []⟩

/-- The clocks of an object replaced. -/
def Wg.setBarClk (w : Wg) (k : BarClk) : Wg := { w with bars := w.bars.filter (·.off != k.off) ++ [k] }

/-- The clocks of a completed phase of an object. -/
def Wg.phaseClk (w : Wg) (off k : Nat) : Option PhaseClk := (w.barClk off).done.find? (·.phase == k % 2 ^ 20)

/-- Who adds to a phase (R191): a crew that arrives, or landed bytes. -/
inductive Adds where
  | crew (idx : Nat)
  | bytes
  deriving DecidableEq, Repr

/-- A phase with a participant's release (R191, R192). -/
def PhaseClk.add (p : PhaseClk) (by_ : Adds) (clk : Clock) : PhaseClk :=
  match by_ with
  | .crew i => { p with who := p.who ++ [i], crews := clkJoin p.crews clk }
  | .bytes => { p with copies := clkJoin p.copies clk }

/-- An object as an arrival or a count leaves it, as one strong access that releases the given clock to the waiters of its
phase (R191, R192); TryComplete (R283). Its bytes carry no release: the barrier orders nothing for other parties. -/
def State.putObj (s : State) (uid off : Nat) (o : Obj) (acc : Option Access) (by_ : Adds) (clk : Clock)
    (me : Option CrewRef) : State :=
  match s.wg? uid with
  | none => s
  | some w =>
    let k := w.barClk off
    let cur := { k.cur with phase := o.phase }.add by_ clk
    let done := o.complete w
    let w := w.writeScr acc .clear off (if done then o.nextPhase else o).bytes
    let past := k.done.filter fun p => (o.nextPhase).passed p.phase
    let s := s.setWg (w.setBarClk (if done then ⟨off, ⟨0, [], [], []⟩, cur :: past⟩ else ⟨off, cur, k.done⟩))
    let s := s.hitRunons (some uid) me off 16
    if done then s.phaseDone uid off cur else s

/-- DETAIL of BARRIER_BYTES (12 Table 3). -/
def Obj.bytesDetail (o : Obj) : Nat := o.land + o.exp * 2 ^ 32

/-- Landed bytes counted into an object (R284): by a copy command or a delivery, whose record `rec_` is completed here
and written when the count first brings the object into the state that cannot complete. BYTELAND past its field is a
value the spec does not state (log 5). DESIGN CHOICE (log 33): an object whose reserved bits are not 0 counts as any other and
keeps them, since R284 names no fault for R8's rejection. -/
def State.countBytes (s : State) (uid off n : Nat) (acc : Option Access) (clk : Clock) (rel : List Rel) (rec_ : FRec) :
    State :=
  match s.wg? uid with
  | none => s
  | some w =>
    let o := w.obj off
    let free := (Config.freeNat s.fresh) % 2 ^ 27
    let s := if 2 ^ 27 ≤ o.land + n then { s with fresh := s.fresh + 1 } else s
    let o' := { o with land := if 2 ^ 27 ≤ o.land + n then free else o.land + n }
    let s := s.putObj uid off o' acc .bytes clk none
    if o'.over w && !o.over w then
      s.reportFor w rel { rec_ with
        code := .barrierBytes, region := w.region / 512, wgid := w.index.toNat, node := w.node, addr := off,
        detail := o'.bytesDetail, access := 2 }
    else s

/-- Every barrier operation's accesses: one strong access of 16 bytes. -/
def objAcs (off : Nat) : List Acs := [⟨0, off, 16, []⟩]

end Sys2Proof.Machine
end

