-- ==== Sys2Proof/Machine/Control.lean ====
section
/-! DEFINITION. Control transfers, the mask stack, EXIT, NOP and BKPT, COMMIT and REWIND, the prefix word, and words that
are no assigned encoding (R49, R61, R70, R322 to R348). -/

namespace Sys2Proof.Machine

/-! Transfers -/

/-- The first address of the packet that holds an address (R46). -/
def packetBase (a : DWord) : DWord := a - BitVec.ofNat 64 (a.toNat % 12)

/-- A target given as a signed offset in packets (R57, R59). -/
def Ctx.packetTarget (x : Ctx) (off : DWord) : DWord := packetBase x.c.pc + 12 * off

/-- The CODE address of the crew's launch (R252). -/
def Ctx.codeBase (x : Ctx) : DWord := x.w.codeBase

/-- Whether a fetched word is ARRIVE (R326). -/
def isArrive (w : Word) : Bool := match instrOf w with | .arrive _ => true | _ => false

/-- A taken transfer (R324, R326): the checks, the CF record, CF, and the target. -/
def Ctx.transfer (x : Ctx) (act : Mask) (target : DWord) : Except (State × Flt) Ctx :=
  let dist : Int := ((x.c.pc.toNat : Int) - (target.toNat : Int)) / 4
  if decide (2 ^ 31 ≤ dist) || decide (dist ≤ -(2 ^ 31)) then .error (x.s, { code := .addressRange, addr := target.toNat })
  else
    let r := x.s.fetchWord x.w target
    match r.2 with
    | .error f => .error (r.1, f)
    | .ok word =>
      if isArrive word then
        .ok { x with s := r.1, c := { x.c.push act (.cf x.c.cf) with cf := BitVec.ofInt 32 dist }, next := target, taken := true }
      else .error (r.1, { code := .arriveMissing })

/-- A transfer as the end of an instruction: what the fetch at its target has cached stays where it faults (R200). -/
def Ctx.jump (x : Ctx) (act : Mask) (target : DWord) : Res :=
  match x.transfer act target with
  | .ok y => .done y
  | .error e => .faultAt e.1 e.2

/-- The predicate bits a B-format word names, its invert applied (R59, R332). -/
def Crew.bits (c : Crew) (f : BFields) : Mask := if f.inv then ~~~c.pred f.p.toNat else c.pred f.p.toNat

/-- A conditional transfer (R328). -/
def condBody (f : BFields) (cond : Crew → Bool) (x : Ctx) : Res :=
  if cond x.c then x.jump x.act (x.packetTarget (f.off.signExtend 64)) else .done x

/-- BRA (R328). -/
def execBra (f : BFields) (s : State) : Host.Outcome State Fault Refusal :=
  runWord (.bra f) (condBody f fun c => c.mask &&& ~~~c.bits f == 0) s

/-- BRA.ANY (R328). -/
def execBraAny (f : BFields) (s : State) : Host.Outcome State Fault Refusal :=
  runWord (.braAny f) (condBody f fun c => c.mask &&& c.bits f != 0) s

/-- BRP (R328). -/
def execBrp (f : BFields) (s : State) : Host.Outcome State Fault Refusal :=
  runWord (.brp f) (condBody f fun c => c.sp.getD f.p.toNat false != f.inv) s

/-- CALL on its operands (R329). -/
def callBody (f : BFields) (x : Ctx) : Res :=
  if x.c.mask &&& ~~~x.c.bits f != 0 then .done x else
  let ret := BitVec.ofNat 32 ((packetBase x.c.pc + 12 - x.codeBase).toNat / 12)
  let c := (x.c.push x.act (.sreg 31 [x.c.sreg 31])).setSreg 31 ret
  ({ x with c := c }).jump x.act (x.packetTarget (f.off.signExtend 64))

/-- CALL (R329). -/
def execCall (f : BFields) (s : State) : Host.Outcome State Fault Refusal := runWord (.call f) (callBody f) s

/-- RET (R329). -/
def execRet (f : SFields) (s : State) : Host.Outcome State Fault Refusal :=
  runWord (.ret f) (fun x => x.jump x.act (x.codeBase + 12 * (x.c.sreg 31).setWidth 64)) s

/-- LOOP on its operands (R330). -/
def loopBody (f : IFields) (x : Ctx) : Res :=
  let n := x.c.sreg f.d.toNat - 1
  let y := { x with c := x.c.setSreg f.d.toNat n }
  if n == 0 then .done y else y.jump x.act (x.packetTarget (f.imm.signExtend 64))

/-- LOOP (R330). -/
def execLoop (f : IFields) (s : State) : Host.Outcome State Fault Refusal := runWord (.loop f) (loopBody f) s

/-! Divergence (R331, R332) -/

/-- DIVR on its operands (R332). -/
def divrBody (f : BFields) (x : Ctx) : Res :=
  if x.c.mstack.length == 16 then .fault { code := .maskStackOverflow } else
  let n := x.c.mask &&& x.c.bits f
  let y := { x with c := { x.c with mstack := x.c.mask :: x.c.mstack, mask := n } }
  if n == 0 then y.jump x.act (x.packetTarget (f.off.signExtend 64)) else .done y

/-- DIVR (R332). -/
def execDivr (f : BFields) (s : State) : Host.Outcome State Fault Refusal := runWord (.divr f) (divrBody f) s

/-- FLIP on its operands (R332). -/
def flipBody (f : BFields) (x : Ctx) : Res :=
  match x.c.mstack with
  | [] => .fault { code := .maskStackEmpty }
  | top :: _ =>
    let n := top &&& ~~~x.c.mask &&& x.c.bits f
    let y := { x with c := { x.c.push x.act (.mask x.c.mask) with mask := n } }
    if n == 0 then y.jump x.act (x.packetTarget (f.off.signExtend 64)) else .done y

/-- FLIP (R332). -/
def execFlip (f : BFields) (s : State) : Host.Outcome State Fault Refusal := runWord (.flip f) (flipBody f) s

/-- MERGE on its operands (R332). -/
def mergeBody (x : Ctx) : Res :=
  match x.c.mstack with
  | [] => .fault { code := .maskStackEmpty }
  | top :: rest => .done { x with c := { x.c.push x.act (.mask x.c.mask) with mask := top, mstack := rest } }

/-- MERGE (R332). -/
def execMerge (f : SFields) (s : State) : Host.Outcome State Fault Refusal := runWord (.merge f) mergeBody s

/-! ARRIVE, EXIT, NOP, BKPT -/

/-- ARRIVE on the crew (R335). -/
def arriveBody (x : Ctx) : Res :=
  if x.c.xfer then .done x else .done { x with c := { x.c.push x.act (.cf x.c.cf) with cf := fall } }

/-- ARRIVE (R335). -/
def execArrive (f : SFields) (s : State) : Host.Outcome State Fault Refusal := runWord (.arrive f) arriveBody s

/-- The threads of MASK exited (R333). -/
def Crew.exitThreads (c : Crew) : Crew :=
  { c with exited := c.exited ||| c.mask, mask := 0, mstack := c.mstack.map (· &&& ~~~c.mask) }

/-- The crew once an EXIT after which every thread has exited retires (R333). -/
def Crew.retireExit (c : Crew) (next : DWord) : Crew :=
  { c.exitThreads.retire true next false with
    st := .exited, wait := .none, steps := none, reason := .none, halting := .none }

/-- EXIT on the crew (R333). -/
def exitBody (x : Ctx) : Res :=
  if x.c.mask == 0 then .done x
  else if (x.c.exited ||| x.c.mask) != allThreads then .done { x with c := x.c.exitThreads }
  else if x.c.pend.isEmpty then .keep { x with c := x.c.retireExit x.next }
  else .wait .score .exit

/-- EXIT (R333). -/
def execExit (f : SFields) (s : State) : Host.Outcome State Fault Refusal := runWord (.exit f) exitBody s

/-- NOP (R334). -/
def execNop (f : SFields) (s : State) : Host.Outcome State Fault Refusal := runWord (.nop f) .done s

/-- BKPT on the crew (R334). -/
def bkptBody (f : SFields) (x : Ctx) : Res :=
  if x.s.attached x.w && x.s.dbg.breaks.getLsbD f.imm.toNat && !x.c.bkptOnce then
    .keep { x with c := { x.c.halt .breakpoint with bkptOnce := true } }
  else .done x

/-- BKPT (R334). -/
def execBkpt (f : SFields) (s : State) : Host.Outcome State Fault Refusal := runWord (.bkpt f) (bkptBody f) s

/-! COMMIT and REWIND -/

/-- COMMIT on its operands (R342). -/
def commitBody (f : SFields) (x : Ctx) : Res :=
  if x.act == 0 || vecKind f.a == .zero then .done x else
  let t := if f.a == 127 then x.c.ic else
    let p := x.leaderPair f.a
    if p < x.c.ic then p else x.c.ic
  if x.c.commit < t then .done { x with c := x.c.commitTo t x.c.pc } else .done x

/-- COMMIT (R342). -/
def execCommit (f : SFields) (s : State) : Host.Outcome State Fault Refusal := runWord (.commit f) (commitBody f) s

/-- The crew past a REWIND without effect, which is not counted (R322, R343). -/
def Ctx.uncounted (x : Ctx) : Res :=
  .keep { x with c := { x.c with pc := x.next, pfx := none, granted := none, waitcnt := 0, xfer := false }.atPacket }

/-- DETAIL of REWIND_PAST_COMMIT (12 Table 3). -/
def Crew.commitDetail (c : Crew) : Nat := c.commit.toNat + c.commitAt.toNat * 2 ^ 64

/-- A walk begun (R323, R344): DIR 1, latches invalid. -/
def Crew.startWalk (c : Crew) (k : Walk) : Crew :=
  { c.clearLatches with walk := some k, st := .ready, wait := .none, pfx := none, granted := none }

/-- REWIND on its operands (R343). -/
def rewindBody (f : SFields) (x : Ctx) : Res :=
  if x.act == 0 then x.uncounted else
  let t := if vecKind f.a == .zero then 0 else x.leaderPair f.a
  if x.c.ic < t then .fault { code := .controlInvalid, field := .a }
  else if t < x.c.commit then .fault { code := .rewindPastCommit, detail := x.c.commitDetail }
  else if t == x.c.ic then x.uncounted
  else if x.c.pend.any (·.vals.isSome) then .wait .score .pendingReg
  else .keep { x with c := { x.c with xfer := false }.startWalk ⟨t, .rewind, 0, x.c.ic, [], [], []⟩ }

/-- REWIND (R343). -/
def execRewind (f : SFields) (s : State) : Host.Outcome State Fault Refusal := runWord (.rewind f) (rewindBody f) s

/-! The prefix word, and words that are no encoding -/

/-- PREFIX (R61): its fields wait for the word that follows; the two are one instruction (log 3). -/
def execPfx (f : XFields) (s : State) : Host.Outcome State Fault Refusal :=
  runWord (.pfx f) (fun x => .keep { x with c := { x.c with pfx := some f } }) s

/-- ILLEGAL_ENCODING (R50, R70, R72): a word that is no assigned encoding faults in the checks that every word makes; one
that decodes is a step of its own name, and the same fault is raised there. -/
def execIllegalEncoding (w : Word) (s : State) : Host.Outcome State Fault Refusal :=
  if (decodeWord w).isOk && s.ctx.all fun x => (encodingFault (.illegalEncoding w) x.c).isNone then
    .refused (.notEnabled "ILLEGAL_ENCODING: the word is legal")
  else runWord (.illegalEncoding w) (fun x => .fault ((encodingFault (.illegalEncoding w) x.c).getD
    { code := .illegalInstruction })) s

end Sys2Proof.Machine
end

