-- ==== Sys2Proof/Machine/Copy.lean ====
section
/-! DEFINITION. The copy engine (R227 to R246): command blocks, layout records, the checks at issue, the order of bytes,
conversion, and the engine's steps. -/

namespace Sys2Proof.Machine

/-! Blocks and records -/

/-- A signed 32-bit coordinate list at a bit offset (R230). -/
def coordList (x lo : Nat) : List Int :=
  [0, 1, 2, 3, 4].map fun i => (BitVec.ofNat 32 (x / 2 ^ (lo + 32 * i))).toInt

/-- A command block from its 96 bytes (R230, Table 5). -/
def blockOf (x : Nat) : Block :=
  ⟨bitsOf x 639 576, bitsOf x 546 544, bitsOf x 538 512, BitVec.ofNat 32 (bitsOf x 511 480), x.testBit 479, x.testBit 478,
    bitsOf x 467 448, coordList x 288, coordList x 128, bitsOf x 127 64, bitsOf x 63 0⟩

/-- Reserved bits of a block. -/
def blockReserved (x : Nat) : Bool :=
  bitsOf x 767 640 != 0 || bitsOf x 575 547 != 0 || bitsOf x 543 539 != 0 || bitsOf x 477 468 != 0

/-- A layout record from its 64 bytes (R231, Table 6). -/
def layoutOf (x : Nat) : Layout :=
  ⟨bitsOf x 489 488, bitsOf x 481 480, x.testBit 476, bitsOf x 474 472, bitsOf x 467 464,
    [0, 1, 2, 3, 4].map fun i => bitsOf x (16 * i + 399) (16 * i + 384),
    [0, 1, 2, 3, 4].map fun i => if i == 0 then 0 else bitsOf x (40 * i + 223) (40 * i + 184),
    [0, 1, 2, 3, 4].map fun i => bitsOf x (32 * i + 95) (32 * i + 64), bitsOf x 63 0⟩

/-- Reserved bits of a record. -/
def layoutReserved (x : Nat) : Bool :=
  bitsOf x 511 490 != 0 || bitsOf x 487 482 != 0 || bitsOf x 479 477 != 0 || x.testBit 475 || bitsOf x 471 468 != 0

/-- Width of an element format in bits (R232, Table 7). -/
def fmtWidth (k : Nat) : Nat := [32, 16, 16, 8, 8, 4, 32, 32, 16, 16, 8, 8, 4, 8].getD k 8

/-- Element width of a record. -/
def Layout.bits (l : Layout) : Nat := fmtWidth l.fmt

/-- Elements of a box. -/
def Layout.count (l : Layout) : Nat := l.box.foldl (fun n b => n * max b 1) 1

/-- The place of element m of an enumeration with the first dimension fastest (R235). -/
def digits : List Nat → Nat → List Nat
  | [], _ => []
  | b :: bs, m => m % max b 1 :: digits bs (m / max b 1)

/-- Byte offset of the element at given coordinates (R233). -/
def Layout.offset (l : Layout) (c : List Nat) : Nat :=
  c.getD 0 0 * l.bits / 8 + ((c.zip l.stride).map fun p => p.1 * p.2).sum

/-- The address of a byte offset, swizzled (R233). -/
def Layout.place (l : Layout) (o : Nat) : Nat :=
  if l.swz == 1 then l.base + (o ^^^ (o / l.stride.getD 1 0 % 8 * 16)) else l.base + o

/-- Whether coordinates lie in the tensor (R234). -/
def Layout.inside (l : Layout) (c : List Int) : Bool :=
  ((c.zip l.dim).take l.ndim).all fun p => decide (0 ≤ p.1) && decide (p.1 < (p.2 : Int))

/-- The nearest coordinates inside the tensor (R231, PAD 2). -/
def Layout.clamp (l : Layout) (c : List Int) : List Int :=
  (c.zip l.dim).zipIdx.map fun p => if p.2 < l.ndim then max 0 (min p.1.1 ((p.1.2 : Int) - 1)) else 0

/-- What a source element is: a padded value, or bits at a byte offset, the high half of the byte or not (R233, R236). -/
inductive Elem where
  | pad (nan : Bool)
  | bits (off : Nat) (odd : Bool)
  deriving DecidableEq, Repr

/-- The source element at given coordinates (R234). -/
def Layout.elem (l : Layout) (c : List Int) : Elem :=
  if l.inside c || l.pad == 2 then
    let c := (if l.inside c then c else l.clamp c).map Int.toNat
    .bits (l.offset c) (c.getD 0 0 % 2 == 1)
  else .pad (l.pad == 1)

/-- The bytes an element occupies, after swizzle. -/
def Layout.elemBytes (l : Layout) (o : Nat) : List Nat := (List.range (max 1 (l.bits / 8))).map fun i => l.place (o + i)

/-- Origins of the blocks of a command (R238): one, or one per gathered index. -/
def origins (org : List Int) (gather : Bool) (g step : Nat) (idxs : List Nat) : List (List Int) :=
  if gather then idxs.map fun n => org.set g (org.getD g 0 + (n * step : Nat)) else [org]

/-- The bytes of a source box that are read (R234, R242). DESIGN CHOICE (log 33): the elements of the box that lie outside the
tensor are read by nothing, and its span does not take them in. -/
def Layout.srcBytes (l : Layout) (orgs : List (List Int)) : List Nat :=
  orgs.flatMap fun org => (List.range l.count).flatMap fun m =>
    match l.elem ((org.zip (digits l.box m)).map fun p => p.1 + (p.2 : Int)) with
    | .pad _ => []
    | .bits o _ => l.elemBytes o

/-- The bytes of a destination box. -/
def Layout.dstBytes (l : Layout) (orgs : List (List Int)) : List Nat :=
  orgs.flatMap fun org => (List.range l.count).flatMap fun m =>
    l.elemBytes (l.offset ((org.zip (digits l.box m)).map fun p => (p.1 + (p.2 : Int)).toNat))

/-! Checks at issue (R241) -/

/-- LAYOUT_INVALID for the command block (R241, step 3). -/
def blockBad (kind : CopyKind) (trans x : Nat) : Bool :=
  let b := blockOf x
  blockReserved x || b.srcrec % 64 != 0 || (b.aux != 0 && trans != 2) || (b.gdim != 0 && kind != .gath) ||
  b.baroff % 16 != 0 || (b.baroff != 0 && !b.count) ||
  (if kind == .cpyq then
    b.dstrec / 256 != 0 || b.dstrec.testBit 3 || 14 ≤ bitsOf b.dstrec 7 4 || b.dstc.any (· != 0)
   else b.dstrec % 64 != 0)

/-- LAYOUT_INVALID for one record with its box origin (R231, R233, R241 step 6). -/
def recordBad (x : Nat) (org : List Int) : Bool :=
  let l := layoutOf x
  layoutReserved x || 14 ≤ l.fmt || 2 ≤ l.swz || l.pad == 3 || l.ndim == 0 || 5 < l.ndim ||
  (l.scratch && 2 ^ 32 ≤ l.base) ||
  ([0, 1, 2, 3, 4].any fun i =>
    if i < l.ndim then l.dim.getD i 0 == 0 || l.box.getD i 0 == 0
    else l.dim.getD i 0 != 0 || l.box.getD i 0 != 0 || l.stride.getD i 0 != 0 || org.getD i 0 != 0) ||
  (l.swz == 1 && (!l.scratch || l.ndim < 2 || l.base % 128 != 0 || l.stride.getD 1 0 == 0 || l.stride.getD 1 0 % 128 != 0)) ||
  (l.bits == 4 && (l.box.getD 0 0 % 2 != 0 || l.dim.getD 0 0 % 2 != 0 || org.getD 0 0 % 2 != 0))

/-- The first two dimensions exchanged (R234, transpose). -/
def swap01 {α : Type} : List α → List α
  | a :: b :: l => b :: a :: l
  | l => l

/-- Box relations of the transforms (R234, R237). -/
def boxesBad (trans : Nat) (src dst : Layout) (srcc : List Int) (aux : Nat) : Bool :=
  match trans with
  | 0 => dst.box != src.box
  | 1 => src.ndim < 2 || dst.box != swap01 src.box
  | _ => dst.box != (match src.box with | b :: bs => 2 * b :: bs | [] => []) || src.box.getD 0 0 % 16 != 0 ||
      src.dim.getD 0 0 % 16 != 0 || srcc.getD 0 0 % 16 != 0 || aux % 4 != 0

/-- A destination stride smaller than the tensor below it (R241, step 6). -/
def stridesBad (l : Layout) : Bool :=
  [1, 2, 3, 4].any fun i => i < l.ndim &&
    l.stride.getD i 0 < (if i == 1 then l.dim.getD 0 0 * l.bits / 8 else l.stride.getD (i - 1) 0 * l.dim.getD (i - 1) 0)

/-- A destination box outside its tensor. -/
def dstOutside (l : Layout) (orgs : List (List Int)) : Bool :=
  orgs.any fun org => [0, 1, 2, 3, 4].any fun i => decide (i < l.ndim) &&
    (decide (org.getD i 0 < 0) || decide ((l.dim.getD i 0 : Int) < org.getD i 0 + (l.box.getD i 0 : Nat)))

/-- Bytes of a command in destination order, the fill of CPYQ included (R235, R238). -/
def totalBytes (kind : CopyKind) (dst : Layout) (blocks : Nat) : Nat :=
  let n := blocks * dst.count * dst.bits / 8
  if kind == .cpyq then (n + 127) / 128 * 128 else n

/-- The destination record of a CPYQ: the source box in the queue's format (R238). -/
def queueLayout (src : Layout) (b : Block) : Layout :=
  { src with fmt := bitsOf b.dstrec 7 4, scratch := true, swz := 0, base := 0 }

/-- LAYOUT_INVALID for the records and shapes together (R241, step 6). `dir`: SPACE of source and destination, where the
direction fixes them. -/
def shapesBad (kind : CopyKind) (dir : Option (Bool × Bool)) (trans : Nat) (b : Block) (sx dx : Nat) (src dst : Layout)
    (sorgs dorgs : List (List Int)) : Bool :=
  recordBad sx b.srcc || (kind != .cpyq && recordBad dx b.dstc) ||
  (match dir with | some d => src.scratch != d.1 || dst.scratch != d.2 | none => false) ||
  (src.pad == 1 && 6 ≤ src.fmt) || ((src.fmt == 13) != (dst.fmt == 13)) ||
  (kind != .cpyq && boxesBad trans src dst b.srcc b.aux) || (kind == .gath && src.ndim ≤ b.gdim) ||
  (dst.bits == 4 && dst.box.getD 0 0 % 2 != 0) ||
  (kind != .cpyq && (stridesBad dst || dstOutside dst dorgs)) ||
  2 ^ 26 < sorgs.length * dst.count * dst.bits / 8 ||
  totalBytes kind dst sorgs.length < b.skip || (kind == .cpyq && b.skip % 128 != 0)

/-- The lowest of some scratchpad bytes at or beyond the allocation (R241, step 7). -/
def beyond (size : Nat) (l : List Nat) : Option Nat := (l.filter (size ≤ ·)).min?

/-- The lowest and highest of some addresses (R242). -/
def spanOf (l : List Nat) : Option (Nat × Nat) :=
  match l.min?, l.max? with
  | some a, some b => some (a, b)
  | _, _ => none

/-- Whether every page that holds a byte of a range is shadowed (R242): pages are translated for this purpose alone, and a
byte at or above 2^57 has none (R43). -/
def State.allShadowed (root : Nat) : Nat → State → Nat → Nat → State × Bool
  | 0, s, _, _ => (s, true)
  | n + 1, s, lo, hi =>
    if hi < lo then (s, true)
    else if 2 ^ 57 ≤ lo then (s, false) else
    let r := s.xlate root lo .store
    match r.2 with
    | .ok p => if p.shad then State.allShadowed root n r.1 (lo + p.left) hi else (r.1, false)
    | .error _ => (r.1, false)

/-- The overlap of a command (R242), with what the walks cache: none, harmless; some false, COPY_OVERLAP; some true, a plain
copy that overlaps. -/
def State.overlapOf (s : State) (root : Nat) (w : Option Wg) (kind : CopyKind) (trans : Nat) (b : Block) (src dst : Layout)
    (sorgs dorgs : List (List Int)) : State × Option Bool :=
  let sp := spanOf (src.srcBytes sorgs)
  let dp := if kind == .cpyq then
      let q := (w.map fun w => w.queue (b.dstrec % 8)).getD ⟨false, 0, 0, 0, 0, []⟩
      some (q.off * 128, (q.off + q.depth) * 128 - 1)
    else spanOf (dst.dstBytes dorgs)
  match sp, dp with
  | some p, some q =>
    if src.scratch != dst.scratch || q.2 < p.1 || p.2 < q.1 then (s, none) else
    let lo := max p.1 q.1
    let hi := min p.2 q.2
    let r := if dst.scratch then (s, false) else State.allShadowed root ((hi - lo) / 4096 + 2) s lo hi
    (r.1, if r.2 then none else some (kind != .cpyq && kind != .gath && trans == 0 && src.fmt == dst.fmt))
  | _, _ => (s, none)

/-- Whether the destination span begins above the source span (R242): positions run from the end. -/
def startsAbove (src dst : Layout) (sorgs dorgs : List (List Int)) : Bool :=
  match spanOf (src.srcBytes sorgs), spanOf (dst.dstBytes dorgs) with
  | some p, some q => p.1 < q.1
  | _, _ => false

/-! The engine's bytes -/

/-- Blocks of a command. -/
def CopyCmd.gidx (k : CopyCmd) : List Nat := k.idxs.map BitVec.toNat

/-- Source origins. -/
def CopyCmd.sorgs (k : CopyCmd) : List (List Int) :=
  origins k.block.srcc (k.kind == .gath) k.block.gdim (k.src.box.getD k.block.gdim 0) k.gidx

/-- Destination origins. -/
def CopyCmd.dorgs (k : CopyCmd) : List (List Int) :=
  origins k.block.dstc (k.kind == .gath) k.block.gdim (k.dst.box.getD k.block.gdim 0) (List.range k.idxs.length)

/-- Blocks. -/
def CopyCmd.blocks (k : CopyCmd) : Nat := if k.kind == .gath then k.idxs.length else 1

/-- Bytes of the whole command. -/
def CopyCmd.total (k : CopyCmd) : Nat := totalBytes k.kind k.dst k.blocks

/-- The party of a command (R176). -/
def CopyCmd.who (k : CopyCmd) : Who :=
  match k.kind with
  | .bulk _ => .bulk k.region
  | _ => .copy k.region k.launch k.wgid k.wg k.slot

/-- An access of a command, of the unit that R182 orders as a whole: its reads (0), or what it writes in one phase or
element. -/
def CopyCmd.access (k : CopyCmd) (unit : Nat) (write strong : Bool) : Access :=
  ⟨copyParty k.id unit, mapSet k.clock (copyParty k.id unit) 1, strong, write, k.who⟩

/-- The unit of what a command writes next: the phase of its barrier object that counts the bytes, or the queue element
(R182, R192). -/
def State.copyUnitNo (s : State) (k : CopyCmd) : Nat :=
  match k.kind, s.wg? k.wg with
  | .cpyq, _ => k.landed / 128 + 1
  | _, some w => if k.block.count then (w.obj k.block.baroff).phase + 1 else 1
  | _, none => 1

/-- Why a command ends early: the code of its status word (R240) and the fault its record carries (R244). -/
structure CopyErr where
  code : Nat
  flt : Flt
  deriving DecidableEq, Repr

/-- The table root of a command (R300). -/
def State.copyRoot (s : State) (k : CopyCmd) : Nat :=
  match k.kind with
  | .bulk a => ((s.nodes.find? fun n => n.addr == a && n.kind == 2).map (·.eff.ptroot)).getD 0
  | _ => ((s.wg? k.wg).map s.rootOf).getD 0

/-- Whether a command belongs to a shadow run (R357). -/
def State.shadowCopy (s : State) (k : CopyCmd) : Bool := (s.wg? k.wg).any (·.isShadow)

/-- The core of a command's workgroup and itself as a party (R176, R179). -/
def CopyCmd.place (k : CopyCmd) (w : Option Wg) : Place := ⟨copyParty k.id 0, w.map (·.uid), w.bind (·.core), false⟩

/-- What happens before a command's access through some pages (R182, R196), kept with all that it has done: the machine and
the access. -/
def State.copySees (s : State) (k : CopyCmd) (acc : Access) (l : List Piece) : State × Access :=
  if s.pubs.isEmpty then (s, acc) else
  let clk := s.pubClock acc.clock l
  (match s.copy? k.id with | some j => s.setCopy { j with did := clkJoin j.did clk } | none => s, { acc with clock := clk })

/-- A command with all that its accesses so far come after. -/
def CopyCmd.seen (k : CopyCmd) (s : State) : CopyCmd :=
  match s.copy? k.id with
  | some j => { k with did := clkJoin k.did j.did }
  | none => k

/-- Bytes a command reads, as plain reads (R243). DESIGN CHOICE (log 33): a page walk that meets an uncorrectable entry ends the
command with status code 1, as one whose translation fails, and MEMORY_UNCORRECTABLE in its record (R240, R352). -/
def State.copyRead (s : State) (k : CopyCmd) (scratch : Bool) (a n : Nat) : State × Except CopyErr (List Byte) :=
  let acc := k.access 0 false false
  if scratch then
    match s.wg? k.wg with
    | none => (s, .ok (List.replicate n 0))
    | some w =>
      let l : List Acs := [⟨0, a, n, []⟩]
      match (if w.isShadow then none else raceFault w.stags true .load (fun _ => acc) l) with
      | some f => (s, .error ⟨2, f⟩)
      | none => match failingFault s w true .load l with
        | some f => (s, .error ⟨3, f⟩)
        | none => (s.setWg { w with stags := noteAccess w.stags acc a n }, .ok (memRead w.scr a n))
  else if 2 ^ 57 < a + n then
    (s, .error ⟨1, { code := .addressRange, addr := max a (2 ^ 57), access := 1 }⟩)
  else
    let r := s.xlateRun (s.copyRoot k) a n .load
    match r.2 with
    | .error e => (r.1, .error ⟨1, { code := e.1, addr := e.2, access := 1 }⟩)
    | .ok ps =>
      let acs : Acs := ⟨0, a, n, ps⟩
      let shadow := s.shadowCopy k
      let p := r.1.copySees k acc ps
      let r := (p.1, r.2)
      let acc := p.2
      match (if shadow then none else findRace s.tags (tagged false .load (fun _ => acc) [acs])) with
      | some e => (r.1, .error ⟨2, { code := .memoryRace, addr := e.1, access := 1, detail := raceDetail 0 e.1 acc e.2.2 }⟩)
      | none =>
        match ps.find? fun p => s.failingAt p.phys.rd p.len with
        | some p => (r.1, .error ⟨3, { code := .memoryUncorrectable, addr := p.va, access := 1 }⟩)
        | none =>
          let tags := if shadow then s.tags
            else (acs.tagRuns false .load).foldl (fun t q => noteAccess t acc q.1 q.2.2) s.tags
          ({ r.1 with tags := tags }, .ok (ps.flatMap fun p => memRead s.mem p.phys.rd p.len))

/-- Bytes of the run of positions up to the next one, at most n, that a command has landed. -/
def CopyCmd.run (k : CopyCmd) (addr : Nat → Nat) (r n : Nat) : List Nat :=
  (List.range (min n (k.landed - k.block.skip + 1))).map fun i => addr (if k.desc then r + i else r - i)

/-- Whether landing a position completes the protected unit of some bytes that holds its address: the last positions landed
hold all of it (R352). -/
def CopyCmd.wholeUnit (k : CopyCmd) (addr : Nat → Nat) (r size : Nat) : Bool :=
  let l := k.run addr r size
  (List.range size).all fun j => l.contains (addr r / size * size + j)

/-- One byte a command writes, as a plain write (R243), with the old byte it replaces where the source could still read
it (R242), none if that fails its check, and what happens up to it (R182); `whole` where it completes the write of a protected
unit, which is then good again (R352). DESIGN CHOICE (log 33): the lines that its own core holds through non-coherent-L1 mappings stay as they were;
R199 speaks of writes from other cores only. A page walk that meets an uncorrectable entry ends the command with status code
1, as in State.copyRead (log 33). -/
def State.copyStore (s : State) (k : CopyCmd) (whole : Bool) (a : Nat) (b : Byte) :
    State × Except CopyErr (Option (Option Byte) × Clock) :=
  let acc := k.access (s.copyUnitNo k) true false
  if k.dst.scratch then
    match s.wg? k.wg with
    | none => (s, .ok (none, acc.clock))
    | some w =>
      let claim := w.claimed (fun i => .crew w.region w.launch w.index w.uid i) none [(a, 1)]
      match (if w.isShadow then none else raceFault w.stags true .store (fun _ => acc) [⟨0, a, 1, []⟩]),
          (if w.isShadow then none else claim) with
      | some f, _ => (s, .error ⟨2, f⟩)
      | none, some e =>
        (s, .error ⟨2, { code := .memoryRace, addr := a, access := 2, detail := raceDetail 1 a acc e.2 }⟩)
      | none, none =>
        let w' := w.writeScr (some acc) .clear a [b]
        let w' := if whole then { w' with scrFailing := w'.scrFailing.filter (· != a / 4) } else w'
        ((s.setWg w').hitRunons (some k.wg) none a 1, 
          .ok (some (if w.scrFailing.contains (a / 4) then none else some (memByte w.scr a)), acc.clock))
  else if 2 ^ 57 ≤ a then (s, .error ⟨1, { code := .addressRange, addr := a, access := 2 }⟩)
  else
    let r := s.xlate (s.copyRoot k) a .store
    match r.2 with
    | .error e => (r.1, .error ⟨1, { code := e, addr := a, access := 2 }⟩)
    | .ok p =>
      let q := r.1.copySees k acc [⟨a, 1, p⟩]
      let acc := q.2
      match (if p.chk then findRace s.tags [(acc, p.wr, a, 1)] else none) with
      | some e => (q.1, .error ⟨2, { code := .memoryRace, addr := e.1, access := 2, detail := raceDetail 0 e.1 acc e.2.2 }⟩)
      | none =>
        let t := q.1.writePhys (some k.launch) (if p.chk then some acc else none) .clear none p.wr [b]
        (if whole then { t with failing := t.failing.filter (· != p.wr / 8) } else t,
          .ok (if p.shad then none else some (if s.failingAt p.wr 1 then none else some (memByte s.mem p.wr)), acc.clock))

/-- The source bytes of an element, each byte at its own address and checked like any other; bytes that this command has
overwritten read as they were (R242), and one that failed its check then ends the command (R244, R352). DESIGN CHOICE (log 33): each
byte is an access of its own where an old translation may still be used; R313 gives an access of the copy engine no size. -/
def State.copyGather (s : State) (k : CopyCmd) : List Nat → State × Except CopyErr (List Byte)
  | [] => (s, .ok [])
  | a :: rest =>
    let r := s.copyRead k k.src.scratch a 1
    match r.2 with
    | .error e => (r.1, .error e)
    | .ok bs => match mapGet k.kept a with
      | some none => (r.1, .error ⟨3, { code := .memoryUncorrectable, addr := a, access := 1 }⟩)
      | old =>
        let q := r.1.copyGather k rest
        (q.1, q.2.map ((match old with | some (some b) => [b] | _ => bs) ++ ·))

/-- The bits of a source element, none where it is padded (R236). -/
def State.copyElem (s : State) (k : CopyCmd) (e : Elem) : State × Except CopyErr (Option Nat) :=
  match e with
  | .pad _ => (s, .ok none)
  | .bits o odd =>
    let r := s.copyGather k (k.src.elemBytes o)
    (r.1, r.2.map fun bs =>
      let x := leNat bs
      some (if k.src.bits == 4 then (if odd then x / 16 else x % 16) else x))

/-- The format of a layout code (R232); BYTE has none. -/
def layoutFmt (k : Nat) : Option NumFmt := if k == 0 then some (.flt fp32) else NumFmt.ofIndex k

/-- The rounding of element n of a command (R236). -/
def CopyCmd.rounding (k : CopyCmd) (n : Nat) : Rnd :=
  let mode : Mode := match k.rnd with | 0 => .rne | 1 => .rz | 2 => .ro | _ => .sr
  let seed := if k.block.seed == 0 then 1 else k.block.seed
  ⟨mode, k.block.sat, false, if mode == .sr then mix seed (BitVec.ofNat 32 n) else 0⟩

/-- The code that element n of destination order receives (R236): bits where the formats are equal, else a converted
value; a padded element is a value. -/
def CopyCmd.code (k : CopyCmd) (n : Nat) (e : Elem) (bits : Option Nat) : Nat :=
  let conv (x : Exact) : Nat := match layoutFmt k.dst.fmt with
    | some f => (f.round x (k.rounding n)).1
    | none => 0
  match e, bits with
  | .pad nan, _ => conv (if nan then .nan else .fin false 0 0)
  | .bits .., some x =>
    if k.src.fmt == k.dst.fmt then x else match layoutFmt k.src.fmt with
      | some f => conv (f.value x)
      | none => x
  | .bits .., none => 0

/-- The two indices of a 2:4 field (R95). -/
def s24Field (w : Word) (q : Nat) : Nat × Nat := ((w.toNat >>> (4 * q)) % 4, (w.toNat >>> (4 * q + 2)) % 4)

/-- Whether a 2:4 word holds a field with i0 not below i1 (R95). -/
def s24Bad (w : Word) (fields : List Nat) : Bool := fields.any fun q => (s24Field w q).2 ≤ (s24Field w q).1

/-- The source element of element n of an expanding copy (R237), after its metadata word is read and checked; none where
the position receives +0. DESIGN CHOICE (log 33): for rows and columns outside the tensor the address is the rule's formula
modulo 2^64. -/
def State.copyExpand (s : State) (k : CopyCmd) (n : Nat) : State × Except CopyErr (Option Elem) :=
  let c := (k.block.srcc.zip (digits k.dst.box n)).map fun p => p.1 + (p.2 : Int)
  let d := 2 * k.block.srcc.getD 0 0 + ((digits k.dst.box n).getD 0 0 : Int)
  let m := d / 32
  let dim (i : Nat) : Int := k.src.dim.getD i 0
  let row := c.getD 1 0 + dim 1 * (c.getD 2 0 + dim 2 * (c.getD 3 0 + dim 3 * c.getD 4 0))
  let a := ((k.block.aux : Int) + 4 * (row * dim 0 / 16 + m)) % 2 ^ 64
  let r := s.copyRead k false a.toNat 4
  match r.2 with
  | .error e => (r.1, .error e)
  | .ok bs =>
    let w := BitVec.ofNat 32 (leNat bs)
    if s24Bad w [0, 1, 2, 3, 4, 5, 6, 7] then
      (r.1, .error ⟨4, { code := .sparseMetadata, addr := a.toNat, access := 1 }⟩)
    else
      let p := (d % 32).toNat
      let f := s24Field w (p / 4)
      let at_ (j : Nat) : Elem := k.src.elem (c.set 0 (16 * m + (2 * (p / 4) + j : Nat)))
      (r.1, .ok (if p % 4 == f.1 then some (at_ 0) else if p % 4 == f.2 then some (at_ 1) else none))

/-- The code of element n of destination order. -/
def State.copyCode (s : State) (k : CopyCmd) (n : Nat) : State × Except CopyErr Nat :=
  let j := n / k.dst.count
  let m := n % k.dst.count
  let r : State × Except CopyErr (Option Elem) :=
    if k.trans == 2 then s.copyExpand k m
    else
      let ds := digits k.dst.box m
      let ds := if k.trans == 1 then swap01 ds else ds
      (s, .ok (some (k.src.elem (((k.sorgs.getD j []).zip ds).map fun p => p.1 + (p.2 : Int)))))
  match r.2 with
  | .error e => (r.1, .error e)
  | .ok none => (r.1, .ok (k.code n (.pad false) none))
  | .ok (some e) =>
    let q := r.1.copyElem k e
    (q.1, q.2.map (k.code n e))

/-- Bytes that one unit of destination order takes: an element, or two of four bits (R235). -/
def CopyCmd.unit (k : CopyCmd) : Nat := max 1 (k.dst.bits / 8)

/-- The bytes of unit q of destination order. -/
def State.copyUnit (s : State) (k : CopyCmd) (q : Nat) : State × Except CopyErr (List Byte) :=
  if k.dst.bits == 4 then
    let a := s.copyCode k (2 * q)
    match a.2 with
    | .error e => (a.1, .error e)
    | .ok x =>
      let b := a.1.copyCode k (2 * q + 1)
      (b.1, b.2.map fun y => leBytes (x + 16 * y) 1)
  else
    let a := s.copyCode k q
    (a.1, a.2.map fun x => leBytes x k.unit)

/-- The address of byte r of destination order (R233, R235). -/
def CopyCmd.dstAddr (k : CopyCmd) (r : Nat) : Nat :=
  let n := if k.dst.bits == 4 then 2 * r else r / k.unit
  let c := ((k.dorgs.getD (n / k.dst.count) []).zip (digits k.dst.box (n % k.dst.count))).map fun p => (p.1 + (p.2 : Int)).toNat
  k.dst.place (k.dst.offset c + (if k.dst.bits == 4 then 0 else r % k.unit))

/-- The byte of destination order that the next position stands for (R239, R242). -/
def CopyCmd.nextByte (k : CopyCmd) : Nat := if k.desc then k.total - 1 - k.landed else k.landed

/-- What ends a command whose count of landed bytes cannot be made (R165, R187, R282, R352): the count is a strong access to
the object. DEDUCED (log 31): the byte that would be counted is not written either, so that LANDED and the object agree. -/
def State.countFault (s : State) (k : CopyCmd) : Option CopyErr :=
  if !k.block.count then none else
  match s.wg? k.wg with
  | none => none
  | some w =>
    let a := k.block.baroff
    let acc := k.access (s.copyUnitNo k) true true
    let l : List Acs := [⟨0, a, 16, []⟩]
    if w.isShadow then (failingFault s w true .both l).map (⟨3, ·⟩) else
    match raceFault w.stags true .both (fun _ => acc) l,
        w.claimed (fun i => .crew w.region w.launch w.index w.uid i) none [(a, 16)] with
    | some f, _ => some ⟨2, f⟩
    | none, some e =>
      some ⟨2, { code := .memoryRace, addr := e.1, access := 2, detail := raceDetail 1 e.1 acc e.2 }⟩
    | none, none => (failingFault s w true .both l).map (⟨3, ·⟩)

/-- Landed bytes of a command counted (R243, R284): they and what happens before them are what the count orders before the
phase's waiters (R182, R192), and none of the command's reads. -/
def State.copyCount (s : State) (k : CopyCmd) (clk : Clock) (n : Nat) : State :=
  if !k.block.count then s else
  s.countBytes k.wg k.block.baroff n (some (k.access (s.copyUnitNo k) true true)) clk (validRel k.did (k.place (s.wg? k.wg)))
    { code := .barrierBytes, source := 1, slot := k.slot, pc := k.blockOff * 2 ^ 32 }

/-- Bytes of one unit landed from the next position on, up to the first that fails. -/
def State.copyLand (s : State) (k : CopyCmd) (bs : List Byte) : Nat → State × CopyCmd × Option CopyErr
  | 0 => (s, k, none)
  | n + 1 =>
    let r := k.nextByte
    if k.landed == k.total then (s, k, none) else
    let a := k.dstAddr r
    match s.countFault k with
    | some e => (s, k, some e)
    | none =>
    let failing := !s.failing.isEmpty || (s.wg? k.wg).any fun w => !w.scrFailing.isEmpty
    let w := s.copyStore k (failing && k.wholeUnit k.dstAddr r (if k.dst.scratch then 4 else 8)) a (bs.getD (r % k.unit) 0)
    match w.2 with
    | .error e => (w.1, k, some e)
    | .ok (old, clk) =>
      let k := k.seen w.1
      let kept := match old with
        | some b => if k.src.scratch == k.dst.scratch && k.trans == 0 && (mapGet k.kept a).isNone then mapSet k.kept a b else k.kept
        | none => k.kept
      let s := (w.1.copyCount k clk 1).clearHang k.wg
      s.copyLand { k with landed := k.landed + 1, kept := kept, did := clkJoin k.did clk } bs n

/-- The next unit of a command: bytes read and landed, and what stopped it, if anything did (R239, R243, R244). -/
def State.copyAdvance (s : State) (k : CopyCmd) : State × CopyCmd × Option CopyErr :=
  let r := k.nextByte
  let u := s.copyUnit k (r / k.unit)
  match u.2 with
  | .error e => (u.1, k, some e)
  | .ok bs => u.1.copyLand (k.seen u.1) bs (if k.desc then r % k.unit + 1 else k.unit - r % k.unit)

/-! Queue copies (R238) -/

/-- The 128 bytes of the next element, zero past the end. -/
def State.copyElement (s : State) (k : CopyCmd) : Nat → Nat → State × Except CopyErr (List Byte)
  | 0, _ => (s, .ok [])
  | n + 1, r =>
    if k.dst.count * k.dst.bits / 8 ≤ r then (s, .ok (List.replicate ((n + 1) * k.unit) 0)) else
    let u := s.copyUnit k (r / k.unit)
    match u.2 with
    | .error e => (u.1, .error e)
    | .ok bs =>
      let q := u.1.copyElement k n (r + k.unit)
      (q.1, q.2.map (bs ++ ·))

/-- Whether a CPYQ is the oldest of its queue (R227). -/
def State.firstCpyq (s : State) (k : CopyCmd) : Bool :=
  !s.copies.any fun j => j.kind == .cpyq && j.wg == k.wg && j.queueNo == k.queueNo && j.seq < k.seq

/-- Whether the queue of a CPYQ takes an element now (R238, R274). -/
def State.cpyqRoom (s : State) (k : CopyCmd) : Bool :=
  match s.wg? k.wg with
  | some w => w.core.isSome && grantable s w ⟨k.wg, 64⟩ (k.wait.getD s.nextId) [] [k.queueNo]
  | none => false

/-- The next element of a CPYQ pushed as a strong access of the command (R238, R272). -/
def State.cpyqPush (s : State) (k : CopyCmd) : State × CopyCmd × Option CopyErr :=
  let u := s.copyElement k (128 / k.unit) k.landed
  match u.2, u.1.wg? k.wg with
  | .error e, _ => (u.1, k, some e)
  | .ok _, none => (u.1, k, none)
  | .ok bs, some w =>
    let q := w.queue k.queueNo
    let a := q.slotAt q.count
    let acc := k.access (s.copyUnitNo k) true true
    match (if w.isShadow then none else raceFault w.stags true .store (fun _ => acc) [⟨0, a, 128, []⟩]).map (⟨2, ·⟩) <|>
        u.1.countFault k with
    | some e => (u.1, k, some e)
    | none =>
      let k := k.seen u.1
      let w := w.writeScr (some acc) (.set ⟨acc.clock, 1, k.place (some w)⟩) a (bs.take 128)
      let w := { w with queues := w.queues.set k.queueNo { q with count := q.count + 1, clocks := q.clocks ++ [acc.clock] } }
      let s := (u.1.setWg w).hitRunons (some k.wg) none a 128
      let s := ((s.copyCount k acc.clock 128).clearHang k.wg).wakeYields k.wg
      (s, { k with landed := k.landed + 128, wait := none, did := clkJoin k.did acc.clock }, none)

/-! The end of a command (R240, R244, R245) -/

/-- The status word (R240, Table 8). -/
def CopyCmd.status (k : CopyCmd) (code : Nat) : Word :=
  BitVec.ofNat 32 (code * 2 ^ 28 + (if k.desc then 2 ^ 27 else 0) + k.landed)

/-- A status word written to the crew that awaits it (R229, R182). -/
def Crew.landStatus (c : Crew) (id : Nat) (word : Word) (clk : Clock) : Crew :=
  c.pend.foldl (fun c p =>
    if p.vals.isNone && p.copy == id then
      let old := (c.stat.map fun r => if r.code == p.code then { r with mask := r.mask &&& ~~~p.mask } else r).filter (·.mask != 0)
      let c := { c.writeReg p.code p.mask (perThread fun _ => word) with
        pend := c.pend.filter (· != p), stat := old ++ [⟨p.code, p.mask, clk, []⟩] }
      if c.st == .score && c.wait == .pendingReg then { c with st := .ready, wait := .none } else c
    else c) c

/-- What a party of a workgroup has done goes before what the successors of its node do (R182, graph). -/
def State.endClock (s : State) (uid : Nat) (clk : Clock) : State :=
  match s.wg? uid with
  | none => s
  | some w => match s.node? w.launch with
    | none => s
    | some n => s.setNode { n with ended := clkJoin n.ended clk }

/-- A command ended with a status code: its slot is free, its word goes to the crew, or is held while the workgroup is
saved; YIELD ends (R229, R245, R293). -/
def State.copyFinish (s : State) (k : CopyCmd) (code : Nat) : State :=
  let word := k.status code
  let saved := match s.wg? k.wg with | some w => w.core.isNone | none => false
  if saved then s.setCopy { k with done := some word } else
  let s := ({ s with copies := s.copies.filter (·.id != k.id) }).endClock k.wg k.did
  let land (c : Crew) : Crew :=
    if c.wg == k.wg && c.idx == k.crew then
      let c := c.landStatus k.id word k.did
      match c.wait with | .yield _ => { c with wait := .yield 0 } | _ => c
    else c
  { s with crews := s.crews.map land, snaps := s.snaps.map land }

/-- The record of a command that ended early (R244, R349). -/
def CopyCmd.record (k : CopyCmd) (e : CopyErr) : FRec :=
  { detail := e.flt.detail, addr := e.flt.addr, pc := (k.status e.code).toNat + k.blockOff * 2 ^ 32, node := k.node,
    wgid := k.wgid.toNat, region := k.region / 512, code := e.flt.code, source := 1, slot := k.slot, access := e.flt.access }

/-! Issue (R228, R229, R241) -/

/-- pF written in every active thread (R229). -/
def Ctx.setFail (x : Ctx) (f : SFields) (v : Bool) : Ctx :=
  { x with c := x.c.setPred (f.imm.toNat / 4) x.act (if v then allThreads else 0) }

/-- The spaces of a CPY direction (R69, Table 13). -/
def dirSpaces (d : Nat) : Bool × Bool :=
  match d with | 0 => (true, true) | 1 => (false, true) | 2 => (true, false) | _ => (false, false)

/-- The lowest free slot of an engine: 0 to 31, or 32 to 39 for a CPYQ; a command that has ended holds none, though its
status word may still wait for a saved crew (R227, R244, R245). -/
def State.freeSlot (s : State) (core : Nat) (kind : CopyKind) : Option Nat :=
  let l := if kind == .cpyq then (List.range 8).map (· + 32) else List.range 32
  l.find? fun n => !s.copies.any fun k => k.core == core && k.slot == n && k.done.isNone &&
    !(match k.kind with | .bulk _ => true | _ => false)

/-- Steps 4 to 9 of R241, the records read: the command as it would start, and the accesses to its records; or the fault,
with the machine as the walks leave it (R200). -/
def Ctx.copyCheck (x : Ctx) (kind : CopyKind) (dir : Option Nat) (trans rnd ca reg : Nat) (bx : Nat) (idxs : List Word) :
    Except (State × Flt) (Ctx × CopyCmd × List Acs) :=
  let b := blockOf bx
  let recs : List AReq := ⟨0, (b.srcrec : Int)⟩ :: (if kind == .cpyq then [] else [⟨0, (b.dstrec : Int)⟩])
  match x.check false .load 1 false true 64 recs with
  | .error f => .error (x.walked false .load false 64 recs, f)
  | .ok (s, accs) =>
    let r := ({ x with s := s }).readAll false 1 accs
    let data : List Nat := r.2.map fun e => leNat e.2
    let sx := data.getD 0 0
    let dx := data.getD 1 0
    let src := layoutOf sx
    let dst := if kind == .cpyq then queueLayout src b else layoutOf dx
    let k : CopyCmd := ⟨x.s.nextId, kind, x.coreNo, 0, x.w.uid, x.c.idx, x.w.index, x.w.node, x.w.launch, x.w.region, trans, rnd, ca, b,
      src, dst, idxs, reg, false, b.skip, [], [], [], none, none, x.s.nextId⟩
    if shapesBad kind (dir.map dirSpaces) trans b sx dx src dst k.sorgs k.dorgs then .error (s, { code := .layoutInvalid }) else
    let bound (l : List Nat) (acc : Nat) : Option Flt :=
      (beyond x.w.scrSize l).map fun a => { code := .scratchBound, addr := a, access := acc }
    match (if src.scratch then bound (src.srcBytes k.sorgs) 1 else none),
        (if dst.scratch && kind != .cpyq then bound (dst.dstBytes k.dorgs) 2 else none),
        (if b.count then bound ((List.range 16).map (b.baroff + ·)) 2 else none) with
    | some f, _, _ => .error (s, f)
    | none, some f, _ => .error (s, f)
    | none, none, some f => .error (s, f)
    | none, none, none =>
      if kind == .cpyq && !(x.w.queue k.queueNo).valid then .error (s, { code := .queueUnmapped }) else
      let o := r.1.s.overlapOf x.eff.ptroot (some x.w) kind trans b src dst k.sorgs k.dorgs
      let y := { r.1 with s := o.1 }
      match o.2 with
      | some false => .error (s.walkedBy o.1, { code := .copyOverlap })
      | some true => .ok (y, { k with desc := startsAbove src dst k.sorgs k.dorgs }, accs)
      | none => .ok (y, k, accs)

/-- A copy instruction (R229, R241). -/
def copyBody (i : Instr) (kind : CopyKind) (dir : Option Nat) (trans rnd : Nat) (f : SFields) (x : Ctx) : Res :=
  if idle (view i) x then .done x else
  let reg := f.b.toNat + (if kind == .gath then 1 else 0)
  match lowest (x.act &&& x.c.leaderPred (f.imm.toNat % 4)) with
  | none =>
    let x := x.setFail f false
    .done { x with c := x.c.writeReg reg x.act (perThread fun _ => 0x60000000) }
  | some t =>
    let ca := (lane (x.rawSrc f.a 0) t).toNat
    let req : List AReq := [⟨t, (ca : Int)⟩]
    match alignFault .load 32 req with
    | some e => .fault e
    | none => match x.check true .load 1 false true 96 req with
      | .error e => .fault e
      | .ok (_, bacs) =>
        let bx := memNat x.w.scr ca 96
        if blockBad kind trans bx then .fault { code := .layoutInvalid } else
        let idxs := if kind == .gath then (members x.act).map fun u => lane (x.c.vreg f.b.toNat).vals u else []
        match x.copyCheck kind dir trans rnd ca reg bx idxs with
        | .error e => .faultAt e.1 e.2
        | .ok (y, k, racs) =>
          if watchHit x.s x.w true .load bacs || watchHit x.s x.w false .load racs then
            { x with s := x.s.walkedBy y.s }.watchStop else
          let y := ((y.readAll true 1 bacs).1).consume (view i)
          let y := if !k.dst.scratch && (y.w.isShadow || y.w.sampled) then y.mapS (·.abandon y.w.uid) else y
          match y.s.freeSlot y.coreNo kind with
          | none => .done (y.setFail f true)
          | some slot =>
            let k : CopyCmd := { k with slot := slot, clock := y.c.clock, did := mapSet y.c.clock (copyParty k.id 0) 1 }
            let live := (y.s.wg? y.w.uid).isSome
            let y := { y with s := { y.s with
              copies := if live then y.s.copies ++ [k] else y.s.copies
              nextId := y.s.nextId + 1 } }
            let c := { y.c.tick with pend := y.c.pend ++ [⟨reg, y.act, none, k.id⟩] }
            .done (({ y with c := c }).setFail f false)

/-- CPY (R228). -/
def execCpy (sel : BitVec 6) (f : SFields) (s : State) : Host.Outcome State Fault Refusal :=
  runWord (.cpy sel f) (copyBody (.cpy sel f) .cpy (some (sel.toNat / 16)) (sel.toNat / 4 % 4) (sel.toNat % 4) f) s

/-- CPYQ (R238). -/
def execCpyq (sel : BitVec 2) (f : SFields) (s : State) : Host.Outcome State Fault Refusal :=
  runWord (.cpyq sel f) (copyBody (.cpyq sel f) .cpyq none 0 sel.toNat f) s

/-- GATH (R238). -/
def execGath (sel : BitVec 2) (f : SFields) (s : State) : Host.Outcome State Fault Refusal :=
  runWord (.gath sel f) (copyBody (.gath sel f) .gath (some 1) 0 sel.toNat f) s

/-! The engine's steps -/

/-- Whether a command can move now: a scratchpad command moves only while its workgroup is resident (R245). -/
def State.copyLive (s : State) (k : CopyCmd) : Bool :=
  k.done.isNone && (match k.kind with
    | .bulk _ => true
    | _ => match s.wg? k.wg with
      | some w => w.core.isSome || (!k.src.scratch && !k.dst.scratch && !k.block.count)
      | none => false)

/-- COPY_WRITE (R243): the next unit of destination order, as far as it can be written. -/
def execCopyWrite (id : Nat) (s : State) : Host.Outcome State Fault Refusal :=
  match s.copy? id with
  | none => .refused (.notEnabled "COPY_WRITE: no such command")
  | some k =>
    if k.kind == .cpyq || k.landed == k.total || !s.copyLive k then .refused (.notEnabled "COPY_WRITE: nothing to write")
    else
      let r := s.copyAdvance k
      if r.2.1.landed == k.landed then .refused (.notEnabled "COPY_WRITE: the next byte cannot be written")
      else .next (r.1.setCopy r.2.1)

/-- CPYQ_ELEMENT_PUSH (R238): one element pushed, or the wait for room begins (R274). -/
def execCpyqElementPush (id : Nat) (s : State) : Host.Outcome State Fault Refusal :=
  match s.copy? id with
  | none => .refused (.notEnabled "CPYQ_ELEMENT_PUSH: no such command")
  | some k =>
    if k.kind != .cpyq || k.landed == k.total || !s.copyLive k || !s.firstCpyq k then
      .refused (.notEnabled "CPYQ_ELEMENT_PUSH: nothing to push")
    else if !s.cpyqRoom k then
      if k.wait.isSome then .refused (.notEnabled "CPYQ_ELEMENT_PUSH: the queue has no room")
      else .next { (s.setCopy { k with wait := some s.nextId }) with nextId := s.nextId + 1 }
    else
      let r := s.cpyqPush k
      if r.2.2.isSome then .refused (.notEnabled "CPYQ_ELEMENT_PUSH: the element cannot be pushed")
      else .next (r.1.setCopy r.2.1)

/-- COPY_COMPLETE (R240): every byte has landed. -/
def execCopyComplete (id : Nat) (s : State) : Host.Outcome State Fault Refusal :=
  match s.copy? id with
  | none => .refused (.notEnabled "COPY_COMPLETE: no such command")
  | some k =>
    match k.kind with
    | .bulk _ => .refused (.notEnabled "COPY_COMPLETE: a bulk-copy node ends by BULK_COPY_END")
    | _ =>
      if k.landed != k.total || k.done.isSome then .refused (.notEnabled "COPY_COMPLETE: bytes remain")
      else .next (s.copyFinish k 0)

/-- A command with a number of bytes of its next unit landed, the whole of which could land (R243). -/
def State.copyPart (s : State) (k : CopyCmd) (n : Nat) : State × CopyCmd :=
  if n == 0 then (s, k) else
  let u := s.copyUnit k (k.nextByte / k.unit)
  match u.2 with
  | .error _ => (s, k)
  | .ok bs => let r := u.1.copyLand (k.seen u.1) bs n; (r.1, r.2.1)

/-- The first byte further on that a command cannot translate, as it would land its bytes now. -/
def State.aheadFault : Nat → State → CopyCmd → Option CopyErr
  | 0, _, _ => none
  | n + 1, s, k =>
    if k.landed == k.total then none else
    let r := s.copyAdvance k
    match r.2.2 with
    | some e => if e.code == 1 then some e else none
    | none => State.aheadFault n r.1 r.2.1

/-- What stops a command, if anything does, with what it has landed by then (R244): its next byte or element cannot be read or
written; or the engine, which may try the bytes of a command in any order though it writes them in this one, has met one
further on that cannot be translated, and stops there or within the next unit (R239, R365; log 5). -/
def State.copyStop (s : State) (k : CopyCmd) : Option (State × CopyCmd × CopyErr) :=
  if k.landed == k.total || !s.copyLive k then none else
  if k.kind == .cpyq && (!s.firstCpyq k || !s.cpyqRoom k) then none else
  let r := if k.kind == .cpyq then s.cpyqPush k else s.copyAdvance k
  match r.2.2 with
  | some e => if r.2.1.landed == k.landed then some (r.1, k, e) else none
  | none =>
    if k.kind == .cpyq then none else
    match State.aheadFault (k.total - r.2.1.landed) r.1 r.2.1 with
    | some e =>
      if Config.readAhead k.id k.landed then
        let p := s.copyPart k (Config.readAheadPart k.id k.landed % (r.2.1.landed - k.landed))
        some (p.1, p.2, e)
      else none
    | none => none

/-- COPY_END_EARLY (R244): the status word, then the record. A command that ends so ends the sampling of its workgroup,
and one of a shadow does so in silence (R357). -/
def execCopyEndEarly (id : Nat) (s : State) : Host.Outcome State Fault Refusal :=
  match s.copy? id with
  | none => .refused (.notEnabled "COPY_END_EARLY: no such command")
  | some k =>
    match k.kind, s.copyStop k with
    | .bulk _, _ => .refused (.notEnabled "COPY_END_EARLY: a bulk-copy node ends by BULK_COPY_END")
    | _, none => .refused (.notEnabled "COPY_END_EARLY: the command can go on")
    | _, some (s', k, e) =>
      if s'.shadowCopy k then .next (s'.abandon k.wg) else
      let k := k.seen s'
      let s' := ((s'.abandon k.wg).copyFinish k e.code)
      .next (match s'.wg? k.wg with
        | some w => s'.reportFor w (validRel k.did (k.place (some w))) (k.record e)
        | none => s'.report k.region (k.record e))

end Sys2Proof.Machine
end

