-- ==== Sys2Proof/Machine/Fence.lean ====
section
/-! DEFINITION. Fences and publishing (R196, R221 to R226). -/

namespace Sys2Proof.Machine

/-- The non-coherent-L1 lines of a core discarded (R199). -/
def State.dropLines (s : State) (core : Nat) : State := s.modCore core fun k => { k with ncl1 := [] }

/-- A fence (R180, R222): crews run in program order here, so what it orders for the crew is ordered already; it widens the
scope of the releases after it and of the acquires before it, and an acquiring one of die scope or wider discards the
core's non-coherent lines. -/
def fenceBody (acquire release : Bool) (sel : BitVec 3) (x : Ctx) : Res :=
  let n := sel.toNat
  let x := if acquire then { x with c := x.c.fenceAcquire (crewPlace x.w x.c) n } else x
  let x := if release then { x with c := x.c.fenceRelease n } else x
  .done (if acquire && 3 ≤ n then { x with s := x.s.dropLines x.coreNo } else x)

/-- FENCE.ACQ (R222). -/
def execFenceAcq (sel : BitVec 3) (f : SFields) (s : State) : Host.Outcome State Fault Refusal :=
  runWord (.fenceAcq sel f) (fenceBody true false sel) s

/-- FENCE.REL (R222). -/
def execFenceRel (sel : BitVec 3) (f : SFields) (s : State) : Host.Outcome State Fault Refusal :=
  runWord (.fenceRel sel f) (fenceBody false true sel) s

/-- FENCE (R222). -/
def execFence (sel : BitVec 3) (f : SFields) (s : State) : Host.Outcome State Fault Refusal :=
  runWord (.fence sel f) (fenceBody true true sel) s

/-! Publishing -/

/-- The shadow-set number of an entry (R311). -/
def entrySet (e : Nat) : Nat := bitsOf e 91 80

/-- The valid leaf entries of a shadow set below a table, with their addresses (R224, R310). -/
def State.shadowLeaves (s : State) (set : Nat) : List (Nat × Nat) → Nat → List (Nat × Nat)
  | [], _ => []
  | (level, _) :: rest, table => (List.range 512).flatMap fun i =>
    let a := table + 16 * i
    let e := memNat s.mem a 16
    if e % 2 == 0 then []
    else if entrySize e == 15 then
      (if level == 4 || !populated (entryFrame e) 8192 then [] else s.shadowLeaves set rest (entryFrame e))
    else if !entryShad e || entrySet e != set || s.leafBad level table i e then [] else [(a, e)]

/-- Whether an entry that the search of shadow leaves below a table reads fails its check (R352). -/
def State.leavesFail (s : State) : List (Nat × Nat) → Nat → Bool
  | [], _ => false
  | (level, _) :: rest, table => (List.range 512).any fun i =>
    let e := memNat s.mem (table + 16 * i) 16
    s.failingAt (table + 16 * i) 16 ||
      (e % 2 != 0 && entrySize e == 15 && level != 4 && populated (entryFrame e) 8192 && s.leavesFail rest (entryFrame e))

/-- An entry with its visible and shadow frames exchanged (R225). -/
def swapFrames (e : Nat) : Nat :=
  let f := bitsOf e 63 28
  let g := bitsOf e 127 92
  e - f * 2 ^ 28 - g * 2 ^ 92 + g * 2 ^ 28 + f * 2 ^ 92

/-- What happens before the accesses through the mapping of a pair of frames: a publish added (R196). -/
def addPub (l : List (Nat × Nat × Clock)) (visible shadow : Nat) (clk : Clock) : List (Nat × Nat × Clock) :=
  let old := ((l.find? fun p => p.1 == shadow && p.2.1 == visible || p.1 == visible && p.2.1 == shadow).map (·.2.2)).getD []
  l.filter (fun p => !(p.1 == shadow && p.2.1 == visible || p.1 == visible && p.2.1 == shadow)) ++
    [(visible, shadow, clkJoin old clk)]

/-- One publish of a set of an address space (R196, R225): frames exchanged, the translations of the swapped pages gone
from every cache of the package, whatever address space they belong to, and what happened before it ordered before every
access through the new mapping. Crews that run on and have loaded through the old mapping are rolled back: after the wait they
use the new one (R193, R196). The mappings stay live (R200). -/
def State.publish (s : State) (root set : Nat) (clk : Clock) : State :=
  let leaves := (s.shadowLeaves set walkLevels root).eraseDups
  let s := leaves.foldl (fun s e => s.physWrite e.1 (leBytes (swapFrames e.2) 16)) s
  let olds := leaves.map fun e => BitVec.ofNat 128 e.2
  let of_ (t : Trans) : Bool := t.root == root && entryShad t.entry.toNat && entrySet t.entry.toNat == set
  { s with
    tlb := s.tlb.filter fun t => !(of_ t || olds.contains t.entry)
    pubs := leaves.foldl (fun l e => addPub l (entryShadow e.2) (entryFrame e.2) clk) s.pubs : State }.rollReaders
    (leaves.map fun e => (entryFrame e.2, pageBytes (entrySize e.2)))

/-- The check of a publish at an address (R225, step 1), with what its walk caches (R200): the set, or the fault. DESIGN CHOICE
(log 33): the pages of the set are found by a search of all the tables of the address space, and an entry of them that fails
its check raises MEMORY_UNCORRECTABLE with the address of PUBL (R352). -/
def State.publSet (s : State) (root va : Nat) : State × Except Flt Nat :=
  if 2 ^ 57 ≤ va then (s, .error { code := .addressRange, addr := va, access := 2 }) else
  let r := s.xlate root va .publ
  (r.1, match r.2 with
    | .error c => .error { code := c, addr := va, access := 2 }
    | .ok p =>
      if p.shad then
        if !s.failing.isEmpty && s.leavesFail walkLevels root then
          .error { code := .memoryUncorrectable, addr := va, access := 2 }
        else .ok p.sset
      else .error { code := .publishInvalid, addr := va, access := 2 })

/-- PUBL on its operands (R225). -/
def publBody (f : SFields) (x : Ctx) : Res :=
  if x.act == 0 then .done x else
  let r := x.s.publSet x.eff.ptroot (x.leaderPair f.a).toNat
  match r.2 with
  | .error e => .faultAt r.1 e
  | .ok set => .done (({ x with s := r.1, c := x.c.tick }).mapS fun s => s.publish x.eff.ptroot set x.c.clock)

/-- PUBL (R225). -/
def execPubl (f : SFields) (s : State) : Host.Outcome State Fault Refusal := runWord (.publ f) (publBody f) s

end Sys2Proof.Machine
end

