-- ==== Sys2Proof/Machine/Trans.lean ====
section
/-! DEFINITION. The transcendental functions (R87, R130): each value is computed to at least 250 bits below its leading
digit with a trailing bit that marks it inexact, so that RoundTo gives the correctly rounded result (log 9). -/

namespace Sys2Proof.Machine

/-- Fraction bits of the fixed-point evaluations. -/
def fixP : Nat := 900

/-- ⌊π/2 × 2^1100⌋. -/
def halfPi : Nat :=
  0x1921FB54442D18469898CC51701B839A252049C1114CF98E804177D4C76273644A29410F31C6809BBDF2A33679A748636605614DBE4BE286E9FC26ADADAA3848BC90B6AECC4BCFD8DE89885D34C6FDAD617FEB96DE80D6FDBDC70D7F6B5133F4B5D3E4822F8963FCC9250CCA3D9C8B67B8400F97142C77E0B31B4906C38ABA734D22C7F51FA499EBF06C

/-- ⌊ln 2 × 2^1100⌋. -/
def lnTwo : Nat :=
  0xB17217F7D1CF79ABC9E3B39803F2F6AF40F343267298B62D8A0D175B8BAAFA2BE7B876206DEBAC98559552FB4AFA1B10ED2EAE35C138214427573B291169B8253E96CA16224AE8C51ACBDA11317C387EB9EA9BC3B136603B256FA0EC7657F74B72CE87B19D6548CAF5DFA6BD38303248655FA1872F20E3A2DA2D97C50F3FD5C607F4CA11FB5BFB90610

/-- The exact value strictly between v and v + 1 units of 2^−p. -/
def between (v : Int) (p : Nat) : Exact :=
  if 0 ≤ v then .fin false (2 * v.toNat + 1) (-(p : Int) - 1) else .fin true (2 * (-v - 1).toNat + 1) (-(p : Int) - 1)

/-- The bits of the integer square root of n from bit k − 1 down, with the root found so far. -/
def isqrtGo (n : Nat) : Nat → Nat → Nat
  | 0, r => r
  | k + 1, r => let t := r + 2 ^ k; isqrtGo n k (if t * t ≤ n then t else r)

/-- The integer square root of a number below 2^(2 × k). -/
def isqrt (n k : Nat) : Nat := isqrtGo n k 0

/-- 1/x for x = m × 2^e, m nonzero. -/
def recipExact (s : Bool) (m : Nat) (e : Int) : Exact :=
  let q := 2 ^ 300 / m
  if q * m == 2 ^ 300 then .fin s q (-e - 300) else .fin s (2 * q + 1) (-e - 301)

/-- √x for x = m × 2^e, m nonzero and below 2^64. -/
def sqrtExact (m : Nat) (e : Int) : Exact :=
  let odd := e % 2 != 0
  let n := (if odd then 2 * m else m) <<< 200
  let e2 : Int := (if odd then e - 1 else e) / 2
  let r := isqrt n 140
  if r * r == n then .fin false r (e2 - 100) else .fin false (2 * r + 1) (e2 - 101)

/-- 1/√x for x = m × 2^e, m nonzero and below 2^64. -/
def rsqrtExact (m : Nat) (e : Int) : Exact :=
  let odd := e % 2 != 0
  let k := if odd then 2 * m else m
  let e2 : Int := (if odd then e - 1 else e) / 2
  let r := isqrt (2 ^ 400 / k) 201
  if r * r * k == 2 ^ 400 then .fin false r (-e2 - 200) else .fin false (2 * r + 1) (-e2 - 201)

/-- Σ r^i / i! in fixed point: the remaining terms from index i with the current term. -/
def expGo (r : Nat) : Nat → Nat → Nat → Nat → Nat
  | 0, _, _, acc => acc
  | k + 1, i, term, acc => let t := ((term * r) >>> fixP) / i; expGo r k (i + 1) t (acc + t)

/-- e^r for a fixed-point r below 1. -/
def expFix (r : Nat) : Nat := expGo r 160 1 (2 ^ fixP) (2 ^ fixP)

/-- x = m × 2^e as a fixed-point integer, truncated. -/
def toFix (m : Nat) (e : Int) (p : Nat) : Nat :=
  if 0 ≤ e + p then m <<< (e + p).toNat else m >>> (-(e + p)).toNat

/-- 2^x for x = m × 2^e of the given sign, m nonzero. -/
def exp2Exact (s : Bool) (m : Nat) (e : Int) : Exact :=
  if 10 ≤ floorLog2 m e then (if s then between 0 400 else .fin false (2 ^ 400 + 1) 0) else
  let x : Int := let v : Int := toFix m e fixP; if s then -v else v
  let n := x / (2 ^ fixP : Nat)
  let f := (x % (2 ^ fixP : Nat)).toNat
  if f == 0 then .fin false 1 n else
  let r := expFix ((f * lnTwo) >>> 1100)
  .fin false (2 * r + 1) (n - fixP - 1)

/-- Σ z^(2i+1) / (2i+1) in fixed point. -/
def atanhGo (z2 : Nat) : Nat → Nat → Nat → Nat → Nat
  | 0, _, _, acc => acc
  | k + 1, i, p, acc => atanhGo z2 k (i + 2) ((p * z2) >>> fixP) (acc + p / i)

/-- log₂ x for x = m × 2^e, m nonzero. -/
def log2Exact (m : Nat) (e : Int) : Exact :=
  let n := floorLog2 m e
  if m == 2 ^ Nat.log2 m then .ofInt n else
  let one := 2 ^ Nat.log2 m
  let z := ((m - one) <<< fixP) / (m + one)
  let ln := 2 * atanhGo ((z * z) >>> fixP) 300 1 z 0
  between (n * (2 ^ fixP : Nat) + (ln <<< 1100) / lnTwo) fixP

/-- Σ ± r^(2i+j) / (2i+j)! in fixed point, alternating from the given term. -/
def trigGo (r2 : Nat) : Nat → Nat → Int → Int → Int
  | 0, _, _, acc => acc
  | k + 1, i, term, acc =>
    let t := -((term * r2) / (2 ^ fixP : Nat)) / ((i + 1) * (i + 2) : Nat)
    trigGo r2 k (i + 2) t (acc + t)

/-- sin and cos of a fixed-point r in 0 to π/2. -/
def sinCosFix (r : Nat) : Int × Int :=
  let r2 := (r * r) >>> fixP
  (trigGo r2 90 1 r r, trigGo r2 90 0 (2 ^ fixP : Nat) (2 ^ fixP : Nat))

/-- The quadrant of |x| and its remainder, x = m × 2^e. -/
def quadrant (m : Nat) (e : Int) : Nat × Nat :=
  let x := toFix m e 1100
  (x / halfPi, (x % halfPi) >>> 200)

/-- sin x for nonzero x. -/
def sinExact (s : Bool) (m : Nat) (e : Int) : Exact :=
  let q := quadrant m e
  let sc := sinCosFix q.2
  let v := match q.1 % 4 with | 0 => sc.1 | 1 => sc.2 | 2 => -sc.1 | _ => -sc.2
  between (if s then -v else v) fixP

/-- cos x for nonzero x. -/
def cosExact (m : Nat) (e : Int) : Exact :=
  let q := quadrant m e
  let sc := sinCosFix q.2
  between (match q.1 % 4 with | 0 => sc.2 | 1 => -sc.1 | 2 => -sc.2 | _ => sc.1) fixP

/-- tanh x for nonzero x: (E − 1)/(E + 1) with E = e^(2x). -/
def tanhExact (s : Bool) (m : Nat) (e : Int) : Exact :=
  let v :=
    if 7 ≤ floorLog2 m e then 2 ^ fixP - 1 else
    let y := toFix m (e + 1) fixP
    let ln := lnTwo >>> 200
    let n := y / ln
    let ex := expFix (y % ln) <<< n
    ((ex - 2 ^ fixP) <<< fixP) / (ex + 2 ^ fixP)
  .fin s (2 * v + 1) (-(fixP : Int) - 1)

/-- The transcendental instructions (R130). -/
inductive TFun where
  | rcp | rsq | sqrt | ex2 | lg2 | sin | cos | tanh
  deriving DecidableEq, Repr

/-- f(x) with the cases of Table 7 (R130). -/
def TFun.eval (f : TFun) (x : Exact) : Exact × Flags :=
  let bad : Exact × Flags := (.nan, { nv := true })
  match x with
  | .nan => (.nan, {})
  | .inf s =>
    match f with
    | .rcp => (.fin s 0 0, {})
    | .rsq => if s then bad else (.fin false 0 0, {})
    | .sqrt | .lg2 => if s then bad else (.inf false, {})
    | .ex2 => if s then (.fin false 0 0, {}) else (.inf false, {})
    | .sin | .cos => bad
    | .tanh => (.fin s 1 0, {})
  | .fin s m e =>
    if m == 0 then
      match f with
      | .rcp | .rsq => (.inf s, { dz := true })
      | .lg2 => (.inf true, { dz := true })
      | .sqrt | .sin | .tanh => (.fin s 0 0, {})
      | .ex2 | .cos => (.fin false 1 0, {})
    else
      match f with
      | .rcp => (recipExact s m e, {})
      | .rsq => if s then bad else (rsqrtExact m e, {})
      | .sqrt => if s then bad else (sqrtExact m e, {})
      | .ex2 => (exp2Exact s m e, {})
      | .lg2 => if s then bad else (log2Exact m e, {})
      | .sin => (sinExact s m e, {})
      | .cos => (cosExact m e, {})
      | .tanh => (tanhExact s m e, {})

end Sys2Proof.Machine
end

