-- ==== Sys2Proof/Machine/Float.lean ====
section
/-! DEFINITION. Floating, packed, transcendental, conversion and dot-product words (R125 to R137). -/

namespace Sys2Proof.Machine

/-! Shared shapes -/

/-- Prefix modifiers on a word: absolute value, then negation, on bit 31, and on bit 15 too where packed (R61, R126). -/
def modWord (packed : Bool) (m : BitVec 2) (w : Word) : Word :=
  let sign : Word := if packed then 0x80008000 else 0x80000000
  let w := if m.getLsbD 1 then w &&& ~~~sign else w
  if m.getLsbD 0 then w ^^^ sign else w

/-- The modifiers of field a (R61). -/
def Ctx.modsA (x : Ctx) : BitVec 2 := match x.c.pfx with | some p => p.mods.extractLsb' 2 2 | none => 0
/-- The modifiers of field b (R61). -/
def Ctx.modsB (x : Ctx) : BitVec 2 := match x.c.pfx with | some p => p.mods.extractLsb' 0 2 | none => 0

/-- Field a with its modifiers. -/
def Ctx.fsrcA (x : Ctx) (packed : Bool) (a : BitVec 7) : List Word := (x.srcA a).map (modWord packed x.modsA)
/-- Field b with its modifiers. -/
def Ctx.fsrcB (x : Ctx) (packed : Bool) (a b : BitVec 7) : List Word := (x.srcB a b).map (modWord packed x.modsB)

/-- The environment of a rounding word, with the generator stepped where its mode is stochastic (R100, R103). -/
def Ctx.roundEnv (x : Ctx) (rnd : Nat) : FEnv :=
  let e := x.c.fenv rnd
  if e.mode == .sr then { e with lfsr := lfsrForward e.lfsr } else e

/-- The flags of the active threads (R98). -/
def activeFlags (act : Mask) (l : List (Word × Flags)) : Flags :=
  Flags.all ((threads.filter (act.getLsbD ·)).map fun t => (l.getD t (0, {})).2)

/-- A floating result: flags of the active threads, the generator as stepped, the write. The generator steps whether or
not any thread is active (R103); DEDUCED (log 33): so too where a word names a queue or a mailbox and stops there for want
of an active thread (R273). -/
def fFinish (v : View) (d : BitVec 7) (rec_ : Bool) (e : FEnv) (l : List (Word × Flags)) (x : Ctx) : Res :=
  let x := { x with c := { x.c with lfsr := e.lfsr } }
  if idle v x then .done x else vecFinish v d rec_ (l.map (·.1)) (activeFlags x.act l) x

/-- A binary floating word with update and assign forms (R53, R56, R125): op on the operands as words. -/
def fBin (i : Instr) (f : FFields) (packed : Bool) (op : FEnv → Nat → Word → Word → Word × Flags) (x : Ctx) : Res :=
  let e := x.roundEnv f.rnd.toNat
  let upd := f.b == 127
  let p := if upd then x.dest f.d else x.fsrcA packed f.a
  let q := if upd then x.fsrcA packed f.a else x.fsrcB packed f.a f.b
  fFinish (view i) f.d (upd || !f.f) e (threads.map fun t => op e t (lane p t) (lane q t)) x

/-- A fused multiply-add (R56, R125, R129). -/
def fAcc (i : Instr) (f : FFields) (packed : Bool) (op : FEnv → Nat → Word → Word → Word → Word × Flags) (x : Ctx) : Res :=
  let e := x.roundEnv f.rnd.toNat
  let d := x.dest f.d
  let p := x.fsrcA packed f.a
  let q := x.fsrcB packed f.a f.b
  fFinish (view i) f.d true e (threads.map fun t => op e t (lane d t) (lane p t) (lane q t)) x

/-! Binary32 arithmetic (R125) -/

/-- x + y. -/
def addWord (e : FEnv) (t : Nat) (x y : Word) : Word × Flags := e.to32 t (Exact.sum (e.mode == .rm) [e.val32 x, e.val32 y])
/-- x − y. -/
def subWord (e : FEnv) (t : Nat) (x y : Word) : Word × Flags :=
  e.to32 t (Exact.sum (e.mode == .rm) [e.val32 x, (e.val32 y).neg])
/-- x × y. -/
def mulWord (e : FEnv) (t : Nat) (x y : Word) : Word × Flags := e.to32 t ((e.val32 x).mul (e.val32 y))
/-- d + x × y, rounded once. -/
def fmaWord (e : FEnv) (t : Nat) (d x y : Word) : Word × Flags :=
  e.to32 t (Exact.fma (e.mode == .rm) (e.val32 d) (e.val32 x) (e.val32 y))

/-- FADD (R125). -/
def execFadd (f : FFields) (s : State) : Host.Outcome State Fault Refusal := runWord (.fadd f) (fBin (.fadd f) f false addWord) s
/-- FSUB (R125). -/
def execFsub (f : FFields) (s : State) : Host.Outcome State Fault Refusal := runWord (.fsub f) (fBin (.fsub f) f false subWord) s
/-- FMUL (R125). -/
def execFmul (f : FFields) (s : State) : Host.Outcome State Fault Refusal := runWord (.fmul f) (fBin (.fmul f) f false mulWord) s
/-- FFMA (R125). -/
def execFfma (f : FFields) (s : State) : Host.Outcome State Fault Refusal := runWord (.ffma f) (fAcc (.ffma f) f false fmaWord) s

/-! Compares, minimum, maximum and sign (R127, R128) -/

/-- A floating compare: the condition, and whether a NaN operand sets NV (R127). -/
def fCmp (i : Instr) (f : GFields) (nv : Bool) (op : Exact → Exact → Bool) (x : Ctx) : Res :=
  let e := x.c.fenv 0
  let p := x.fsrcA false f.a
  let q := x.fsrcB false f.a f.b
  let bad := maskOf fun t => (e.val32 (lane p t)).isNan || (e.val32 (lane q t)).isNan
  predFinish (view i) f.d.toNat true (maskOf fun t => op (e.val32 (lane p t)) (e.val32 (lane q t)))
    { nv := nv && bad &&& x.act != 0 } x

/-- A comparison that a NaN makes false. -/
def ordered (op : Int → Bool) (x y : Exact) : Bool := !x.isNan && !y.isNan && op (x.cmp y)

/-- FCMP.EQ (R127). -/
def execFcmpEq (f : GFields) (s : State) : Host.Outcome State Fault Refusal :=
  runWord (.fcmpEq f) (fCmp (.fcmpEq f) f false (ordered (· == 0))) s
/-- FCMP.LT (R127). -/
def execFcmpLt (f : GFields) (s : State) : Host.Outcome State Fault Refusal :=
  runWord (.fcmpLt f) (fCmp (.fcmpLt f) f true (ordered (· < 0))) s
/-- FCMP.LE (R127). -/
def execFcmpLe (f : GFields) (s : State) : Host.Outcome State Fault Refusal :=
  runWord (.fcmpLe f) (fCmp (.fcmpLe f) f true (ordered (· ≤ 0))) s
/-- FCMP.UN (R127). -/
def execFcmpUn (f : GFields) (s : State) : Host.Outcome State Fault Refusal :=
  runWord (.fcmpUn f) (fCmp (.fcmpUn f) f false fun x y => x.isNan || y.isNan) s

/-- A word of major 0x11 after DAZ (R128). -/
def dazWord (e : FEnv) (w : Word) : Word := BitVec.ofNat 32 (fp32.daz e.daz w.toNat)

/-- FMIN and FMAX of two words (R128). -/
def minMax (max_ : Bool) (e : FEnv) (x y : Word) : Word :=
  let a := e.val32 x
  let b := e.val32 y
  let x := dazWord e x
  let y := dazWord e y
  if a.isNan && b.isNan then nan32 else if a.isNan then y else if b.isNan then x
  else
    let less := a.cmp b < 0 || (a.cmp b == 0 && x.msb)
    if less != max_ then x else y

/-- FMIN and FMAX on their operands. -/
def fMinMax (i : Instr) (f : GFields) (max_ : Bool) (x : Ctx) : Res :=
  let e := x.c.fenv 0
  let upd := f.b == 127
  let p := if upd then x.dest f.d else x.fsrcA false f.a
  let q := if upd then x.fsrcA false f.a else x.fsrcB false f.a f.b
  vecFinish (view i) f.d (upd || !f.f) (perThread fun t => minMax max_ e (lane p t) (lane q t)) {} x

/-- FABS and FNEG (R128). -/
def fSign (i : Instr) (f : GFields) (op : Word → Word) (x : Ctx) : Res :=
  let e := x.c.fenv 0
  let p := x.fsrcA false f.a
  vecFinish (view i) f.d (!f.f)
    (perThread fun t => if (e.val32 (lane p t)).isNan then nan32 else op (dazWord e (lane p t))) {} x

/-- FMIN (R128). -/
def execFmin (f : GFields) (s : State) : Host.Outcome State Fault Refusal := runWord (.fmin f) (fMinMax (.fmin f) f false) s
/-- FMAX (R128). -/
def execFmax (f : GFields) (s : State) : Host.Outcome State Fault Refusal := runWord (.fmax f) (fMinMax (.fmax f) f true) s
/-- FABS (R128). -/
def execFabs (f : GFields) (s : State) : Host.Outcome State Fault Refusal :=
  runWord (.fabs f) (fSign (.fabs f) f (· &&& 0x7FFFFFFF)) s
/-- FNEG (R128). -/
def execFneg (f : GFields) (s : State) : Host.Outcome State Fault Refusal :=
  runWord (.fneg f) (fSign (.fneg f) f (· ^^^ 0x80000000)) s

/-! Packed 16-bit arithmetic (R129) -/

/-- Element i of a packed word as a value, under DAZ. -/
def elem16 (f : Fmt) (e : FEnv) (w : Word) (i : Nat) : Exact := f.value (f.daz e.daz ((w.toNat >>> (16 * i)) % 65536))

/-- Two element results packed. -/
def pack16 (f : Fmt) (e : FEnv) (t : Nat) (op : Nat → Exact × Flags) : Word × Flags :=
  let r (i : Nat) : Nat × Flags := let v := op i; let q := roundTo f v.1 (e.rnd false t i); (q.1, v.2.or q.2)
  (BitVec.ofNat 32 ((r 0).1 + 65536 * (r 1).1), (r 0).2.or (r 1).2)

/-- x + y by elements. -/
def add16 (f : Fmt) (e : FEnv) (t : Nat) (x y : Word) : Word × Flags :=
  pack16 f e t fun i => Exact.sum (e.mode == .rm) [elem16 f e x i, elem16 f e y i]
/-- d + x × y by elements. -/
def fma16 (f : Fmt) (e : FEnv) (t : Nat) (d x y : Word) : Word × Flags :=
  pack16 f e t fun i => Exact.fma (e.mode == .rm) (elem16 f e d i) (elem16 f e x i) (elem16 f e y i)

/-- HADD2 (R129). -/
def execHadd2 (f : FFields) (s : State) : Host.Outcome State Fault Refusal :=
  runWord (.hadd2 f) (fBin (.hadd2 f) f true (add16 fp16)) s
/-- HFMA2 (R129). -/
def execHfma2 (f : FFields) (s : State) : Host.Outcome State Fault Refusal :=
  runWord (.hfma2 f) (fAcc (.hfma2 f) f true (fma16 fp16)) s
/-- BADD2 (R129). -/
def execBadd2 (f : FFields) (s : State) : Host.Outcome State Fault Refusal :=
  runWord (.badd2 f) (fBin (.badd2 f) f true (add16 bf16)) s
/-- BFMA2 (R129). -/
def execBfma2 (f : FFields) (s : State) : Host.Outcome State Fault Refusal :=
  runWord (.bfma2 f) (fAcc (.bfma2 f) f true (fma16 bf16)) s

/-! Transcendentals (R130) -/

/-- A transcendental of each thread, rounded under FMODE.RND. -/
def fTrans (i : Instr) (f : GFields) (k : TFun) (x : Ctx) : Res :=
  let e := x.roundEnv 0
  let p := x.srcA f.a
  fFinish (view i) f.d (!f.f) e (threads.map fun t => e.to32 t (k.eval (e.val32 (lane p t)))) x

/-- RCP (R130). -/
def execRcp (f : GFields) (s : State) : Host.Outcome State Fault Refusal := runWord (.rcp f) (fTrans (.rcp f) f .rcp) s
/-- RSQ (R130). -/
def execRsq (f : GFields) (s : State) : Host.Outcome State Fault Refusal := runWord (.rsq f) (fTrans (.rsq f) f .rsq) s
/-- SQRT (R130). -/
def execSqrt (f : GFields) (s : State) : Host.Outcome State Fault Refusal := runWord (.sqrt f) (fTrans (.sqrt f) f .sqrt) s
/-- EX2 (R130). -/
def execEx2 (f : GFields) (s : State) : Host.Outcome State Fault Refusal := runWord (.ex2 f) (fTrans (.ex2 f) f .ex2) s
/-- LG2 (R130). -/
def execLg2 (f : GFields) (s : State) : Host.Outcome State Fault Refusal := runWord (.lg2 f) (fTrans (.lg2 f) f .lg2) s
/-- SIN (R130). -/
def execSin (f : GFields) (s : State) : Host.Outcome State Fault Refusal := runWord (.sin f) (fTrans (.sin f) f .sin) s
/-- COS (R130). -/
def execCos (f : GFields) (s : State) : Host.Outcome State Fault Refusal := runWord (.cos f) (fTrans (.cos f) f .cos) s
/-- TANH (R130). -/
def execTanh (f : GFields) (s : State) : Host.Outcome State Fault Refusal := runWord (.tanh f) (fTrans (.tanh f) f .tanh) s

/-! Conversions and scaling (R131 to R135) -/

/-- CVT on its operand: modifiers act on bit 31. -/
def fCvt (i : Instr) (f : FFields) (x : Ctx) : Res :=
  let e := x.roundEnv f.rnd.toNat
  let p := x.fsrcA false f.a
  fFinish (view i) f.d (!f.f) e (threads.map fun t => convert f.b.toNat e t (lane p t)) x

/-- CVT (R131). -/
def execCvt (f : FFields) (s : State) : Host.Outcome State Fault Refusal := runWord (.cvt f) (fCvt (.cvt f) f) s

/-- The element format of a conversion control word, where Table 8 of R132 admits it. -/
def packFmt (c : Word) : Option NumFmt :=
  let k := (c.extractLsb' 0 4).toNat
  if k == 6 || k == 7 then none else NumFmt.ofIndex k

/-- ELEM of a control word (R132). -/
def packElem (c : Word) : Nat := (c.extractLsb' 4 3).toNat
/-- RND of a control word (R132). -/
def packRnd (c : Word) : Nat := (c.extractLsb' 8 3).toNat

/-- Whether a control word is valid (R132). -/
def packOk (unpk : Bool) (c : Word) : Bool :=
  match packFmt c with
  | none => false
  | some f => packElem c < 32 / f.bits && packRnd c != 7 && (!unpk || packRnd c == 0) && !c.getLsbD 7 &&
      c.extractLsb' 11 21 == 0

/-- Element i of a word, w bits wide. -/
def elemOf (w : Nat) (x : Word) (i : Nat) : Nat := (x.toNat >>> (w * i)) % 2 ^ w

/-- PACK of one thread (R133): the element written into d, with the flags of the conversion. -/
def packWord (e : FEnv) (t : Nat) (d x c : Word) : Word × Flags :=
  match packFmt c with
  | none => (d, {})
  | some f =>
    let i := packElem c
    let r := f.round (e.val32 x) (e.rnd true t i)
    let m := BitVec.ofNat 32 (2 ^ f.bits - 1) <<< (f.bits * i)
    ((d &&& ~~~m) ||| (BitVec.ofNat 32 r.1 <<< (f.bits * i)), r.2)

/-- PACK on its operands: the generator steps once if any active thread's mode is stochastic (R103). -/
def fPack (i : Instr) (f : GFields) (x : Ctx) : Res :=
  if idle (view i) x then .done x else
  let d := x.dest f.d
  let p := x.srcA f.a
  let q := x.srcB f.a f.b
  let act := members x.act
  if act.any fun t => !packOk false (lane q t) then .fault { code := .controlInvalid, field := .b } else
  let mode (t : Nat) : Mode := (x.c.fenv (packRnd (lane q t))).mode
  let step := act.any fun t => mode t == .sr
  let lfsr := if step then lfsrForward x.c.lfsr else x.c.lfsr
  let l := threads.map fun t =>
    packWord { x.c.fenv (packRnd (lane q t)) with lfsr := lfsr } t (lane d t) (lane p t) (lane q t)
  let x := { x with c := { x.c with lfsr := lfsr } }
  let x := if (view i).namesQM then x else
    { x with c := { x.c.push x.act (.reg f.d.toNat [x.c.vreg f.d.toNat]) with
        wake := match (x.c.push x.act (.reg f.d.toNat [x.c.vreg f.d.toNat])).wake with
          | r :: rest => { r with stepped := step } :: rest
          | [] => [] } }
  vecFinish (view i) f.d false (l.map (·.1)) (activeFlags x.act l) x

/-- PACK (R133). -/
def execPack (f : GFields) (s : State) : Host.Outcome State Fault Refusal := runWord (.pack f) (fPack (.pack f) f) s

/-- UNPK of one thread (R134): the exact value of the element. -/
def unpkWord (x c : Word) : Word :=
  match packFmt c with
  | none => 0
  | some f => BitVec.ofNat 32 (roundTo fp32 (f.value (elemOf f.bits x (packElem c))) ⟨.rne, false, false, 0⟩).1

/-- UNPK on its operands (R134). -/
def fUnpk (i : Instr) (f : GFields) (x : Ctx) : Res :=
  if idle (view i) x then .done x else
  let upd := f.b == 127
  let p := if upd then x.dest f.d else x.srcA f.a
  let q := if upd then x.srcA f.a else x.srcB f.a f.b
  if (members x.act).any fun t => !packOk true (lane q t) then
    .fault { code := .controlInvalid, field := if upd then .a else .b }
  else vecFinish (view i) f.d (upd || !f.f) (perThread fun t => unpkWord (lane p t) (lane q t)) {} x

/-- UNPK (R134). -/
def execUnpk (f : GFields) (s : State) : Host.Outcome State Fault Refusal := runWord (.unpk f) (fUnpk (.unpk f) f) s

/-- A BS10 code: none for an invalid block, otherwise its exact scale, zero for a zero block (R92). -/
def bs10 (c : Nat) : Option Exact :=
  let e := c / 8 % 128
  if e == 127 then none else if e == 0 then some (.fin false 0 0) else some (.fin false (8 + c % 8) ((e : Int) - 66))

/-- SCAL of one thread (R135). -/
def scalWord (e : FEnv) (t : Nat) (x c : Word) : Word × Flags :=
  match bs10 (c.toNat % 1024) with
  | none => (nan32, {})
  | some k => if c.toNat / 8 % 128 == 0 then (0, {}) else e.to32 t ((e.val32 x).mul k)

/-- SCAL on its operands (R135). -/
def fScal (i : Instr) (f : GFields) (x : Ctx) : Res :=
  let e := x.roundEnv 0
  let upd := f.b == 127
  let p := if upd then x.dest f.d else x.srcA f.a
  let q := if upd then x.srcA f.a else x.srcB f.a f.b
  if (members x.act).any fun t => lane q t >>> (10 : Nat) != 0 then .fault { code := .blockScaleInvalid, field := .b }
  else fFinish (view i) f.d (upd || !f.f) e (threads.map fun t => scalWord e t (lane p t) (lane q t)) x

/-- SCAL (R135). -/
def execScal (f : GFields) (s : State) : Host.Outcome State Fault Refusal := runWord (.scal f) (fScal (.scal f) f) s

/-! Dot products (R136, R137) -/

/-- The sum of products of signed elements w bits wide, added to d (R136). -/
def dotInt (w : Nat) (d x y : Word) : Word :=
  let f : IntFmt := ⟨w, true⟩
  d + BitVec.ofInt 32 (((List.range (32 / w)).map fun i => f.value (elemOf w x i) * f.value (elemOf w y i)).sum)

/-- DOT2 (R136). -/
def execDot2 (f : GFields) (s : State) : Host.Outcome State Fault Refusal := runWord (.dot2 f) (gAcc (.dot2 f) f (dotInt 16)) s
/-- DOT4 (R136). -/
def execDot4 (f : GFields) (s : State) : Host.Outcome State Fault Refusal := runWord (.dot4 f) (gAcc (.dot4 f) f (dotInt 8)) s
/-- DOT8 (R136). -/
def execDot8 (f : GFields) (s : State) : Host.Outcome State Fault Refusal := runWord (.dot8 f) (gAcc (.dot8 f) f (dotInt 4)) s

/-- Four E4M3 products and d summed exactly and rounded once (R137). -/
def dot4fWord (e : FEnv) (t : Nat) (d x y : Word) : Word × Flags :=
  let ps := [0, 1, 2, 3].map fun i => ((e4m3.value (elemOf 8 x i)).mul (e4m3.value (elemOf 8 y i))).1
  e.to32 t (Exact.sum (e.mode == .rm) (e.val32 d :: ps))

/-- DOT4F on its operands (R137). -/
def fDot4f (i : Instr) (f : GFields) (x : Ctx) : Res :=
  let e := x.roundEnv 0
  let d := x.dest f.d
  let p := x.srcA f.a
  let q := x.srcB f.a f.b
  fFinish (view i) f.d true e (threads.map fun t => dot4fWord e t (lane d t) (lane p t) (lane q t)) x

/-- DOT4F (R137). -/
def execDot4f (f : GFields) (s : State) : Host.Outcome State Fault Refusal := runWord (.dot4f f) (fDot4f (.dot4f f) f) s

end Sys2Proof.Machine
end

