-- ==== Sys2Proof/Machine/Integer.lean ====
section
/-! DEFINITION. Integer, logic, shift, bit-field, move, pair, immediate, compare and predicate words (R114 to R124). -/

namespace Sys2Proof.Machine

/-- Bits 63:32 of the signed or unsigned product (R114). -/
def mulHigh (signed : Bool) (x y : Word) : Word :=
  hiWord (if signed then x.signExtend 64 * y.signExtend 64 else x.setWidth 64 * y.setWidth 64)

/-- A shift by the whole of y; `big` is the result for amounts of 32 or more (R116). -/
def shiftBy (op : Word → Nat → Word) (big : Word → Word) (x y : Word) : Word :=
  if 32 ≤ y.toNat then big x else op x y.toNat

/-- Rotation left by y[4:0] (R116). -/
def rotl (x y : Word) : Word := x.rotateLeft (y.toNat % 32)

/-- Rotation right by y[4:0]. -/
def rotr (x y : Word) : Word := x.rotateRight (y.toNat % 32)

/-- The effective width of a bit-field control word (R117). -/
def fieldWidth (c : Word) : Nat := min (min (c.extractLsb' 8 6).toNat 32) (32 - (c.extractLsb' 0 5).toNat)

/-- BFE (R117). -/
def bfeWord (x c : Word) : Word :=
  let w := fieldWidth c
  let r := (x >>> (c.extractLsb' 0 5).toNat) &&& BitVec.ofNat 32 (2 ^ w - 1)
  if w == 0 then 0
  else if c.getLsbD 16 && r.getLsbD (w - 1) then r ||| ~~~BitVec.ofNat 32 (2 ^ w - 1) else r

/-- BFI (R117). -/
def bfiWord (d x c : Word) : Word :=
  let pos := (c.extractLsb' 0 5).toNat
  let m := BitVec.ofNat 32 (2 ^ fieldWidth c - 1) <<< pos
  (d &&& ~~~m) ||| ((x <<< pos) &&& m)

/-- The bits of a word that are one, from bit n − 1 down. -/
def popCount (x : Word) : Nat → Nat
  | 0 => 0
  | n + 1 => (if x.getLsbD n then 1 else 0) + popCount x n

/-- Leading zeros of the low n bits. -/
def leadZeros (x : Word) : Nat → Nat
  | 0 => 0
  | n + 1 => if x.getLsbD n then 0 else leadZeros x n + 1

/-- The bit order reversed (R118). -/
def bitRev (x : Word) : Word := maskOf fun i => x.getLsbD (31 - i)

/-- IADD (R114). -/
def execIadd (f : GFields) (s : State) : Host.Outcome State Fault Refusal := runWord (.iadd f) (gBin (.iadd f) f true (· + ·)) s

/-- ISUB (R114). -/
def execIsub (f : GFields) (s : State) : Host.Outcome State Fault Refusal := runWord (.isub f) (gBin (.isub f) f true (· - ·)) s

/-- IMUL (R114). -/
def execImul (f : GFields) (s : State) : Host.Outcome State Fault Refusal := runWord (.imul f) (gBin (.imul f) f false (· * ·)) s

/-- IMULH (R114). -/
def execImulh (f : GFields) (s : State) : Host.Outcome State Fault Refusal := runWord (.imulh f) (gBin (.imulh f) f false (mulHigh true)) s

/-- IMULHU (R114). -/
def execImulhu (f : GFields) (s : State) : Host.Outcome State Fault Refusal := runWord (.imulhu f) (gBin (.imulhu f) f false (mulHigh false)) s

/-- IMAD (R115). -/
def execImad (f : GFields) (s : State) : Host.Outcome State Fault Refusal := runWord (.imad f) (gAcc (.imad f) f fun d x y => d + x * y) s

/-- IMIN (R114). -/
def execImin (f : GFields) (s : State) : Host.Outcome State Fault Refusal := runWord (.imin f) (gBin (.imin f) f false fun x y => if x.slt y then x else y) s

/-- IMAX (R114). -/
def execImax (f : GFields) (s : State) : Host.Outcome State Fault Refusal := runWord (.imax f) (gBin (.imax f) f false fun x y => if x.slt y then y else x) s

/-- UMIN (R114). -/
def execUmin (f : GFields) (s : State) : Host.Outcome State Fault Refusal := runWord (.umin f) (gBin (.umin f) f false fun x y => if x.ult y then x else y) s

/-- UMAX (R114). -/
def execUmax (f : GFields) (s : State) : Host.Outcome State Fault Refusal := runWord (.umax f) (gBin (.umax f) f false fun x y => if x.ult y then y else x) s

/-- IABS (R114). -/
def execIabs (f : GFields) (s : State) : Host.Outcome State Fault Refusal := runWord (.iabs f) (gUn (.iabs f) f fun x => if x.msb then -x else x) s

/-- INEG (R114). -/
def execIneg (f : GFields) (s : State) : Host.Outcome State Fault Refusal := runWord (.ineg f) (gUn (.ineg f) f fun x => -x) s

/-- AND (R116). -/
def execAnd (f : GFields) (s : State) : Host.Outcome State Fault Refusal := runWord (.and f) (gBin (.and f) f false (· &&& ·)) s

/-- OR (R116). -/
def execOr (f : GFields) (s : State) : Host.Outcome State Fault Refusal := runWord (.or f) (gBin (.or f) f false (· ||| ·)) s

/-- XOR (R116). -/
def execXor (f : GFields) (s : State) : Host.Outcome State Fault Refusal := runWord (.xor f) (gBin (.xor f) f true (· ^^^ ·)) s

/-- ANDN (R116). -/
def execAndn (f : GFields) (s : State) : Host.Outcome State Fault Refusal := runWord (.andn f) (gBin (.andn f) f false fun x y => x &&& ~~~y) s

/-- SHL (R116). -/
def execShl (f : GFields) (s : State) : Host.Outcome State Fault Refusal := runWord (.shl f) (gBin (.shl f) f false (shiftBy (· <<< ·) fun _ => 0)) s

/-- SHR (R116). -/
def execShr (f : GFields) (s : State) : Host.Outcome State Fault Refusal := runWord (.shr f) (gBin (.shr f) f false (shiftBy (· >>> ·) fun _ => 0)) s

/-- SAR (R116). -/
def execSar (f : GFields) (s : State) : Host.Outcome State Fault Refusal := runWord (.sar f) (gBin (.sar f) f false (shiftBy (fun x n => x.sshiftRight n) fun x => if x.msb then 0xFFFFFFFF else 0)) s

/-- ROT (R116). -/
def execRot (f : GFields) (s : State) : Host.Outcome State Fault Refusal := runWord (.rot f) (gBin (.rot f) f true rotl) s

/-- BFE (R117). -/
def execBfe (f : GFields) (s : State) : Host.Outcome State Fault Refusal := runWord (.bfe f) (gBin (.bfe f) f false bfeWord) s

/-- BFI (R117). -/
def execBfi (f : GFields) (s : State) : Host.Outcome State Fault Refusal := runWord (.bfi f) (gAcc (.bfi f) f bfiWord) s

/-- POPC (R116). -/
def execPopc (f : GFields) (s : State) : Host.Outcome State Fault Refusal := runWord (.popc f) (gUn (.popc f) f fun x => BitVec.ofNat 32 (popCount x 32)) s

/-- CLZ (R116). -/
def execClz (f : GFields) (s : State) : Host.Outcome State Fault Refusal := runWord (.clz f) (gUn (.clz f) f fun x => BitVec.ofNat 32 (leadZeros x 32)) s

/-- BREV (R118). -/
def execBrev (f : GFields) (s : State) : Host.Outcome State Fault Refusal := runWord (.brev f) (gUn (.brev f) f bitRev) s

/-- MOV (R118). -/
def execMov (f : GFields) (s : State) : Host.Outcome State Fault Refusal := runWord (.mov f) (gUn (.mov f) f id) s

/-- LEA (R119). -/
def execLea (f : GFields) (s : State) : Host.Outcome State Fault Refusal := runWord (.lea f) (gLea (.lea f) f (·.signExtend 64)) s

/-- LEAU (R119). -/
def execLeau (f : GFields) (s : State) : Host.Outcome State Fault Refusal := runWord (.leau f) (gLea (.leau f) f (·.setWidth 64)) s

/-- SWAP (R120). -/
def execSwap (f : GFields) (s : State) : Host.Outcome State Fault Refusal := runWord (.swap f) (gSwap (.swap f) f) s

/-- NOT (R118). -/
def execNot (f : GFields) (s : State) : Host.Outcome State Fault Refusal := runWord (.not f) (gUn (.not f) f (~~~·)) s

/-- ADD64 (R119). -/
def execAdd64 (f : GFields) (s : State) : Host.Outcome State Fault Refusal := runWord (.add64 f) (gAdd64 (.add64 f) f) s

/-- ICMP.EQ (R123). -/
def execIcmpEq (f : GFields) (s : State) : Host.Outcome State Fault Refusal := runWord (.icmpEq f) (gCmp (.icmpEq f) f (· == ·)) s

/-- ICMP.NE (R123). -/
def execIcmpNe (f : GFields) (s : State) : Host.Outcome State Fault Refusal := runWord (.icmpNe f) (gCmp (.icmpNe f) f (· != ·)) s

/-- ICMP.LT (R123). -/
def execIcmpLt (f : GFields) (s : State) : Host.Outcome State Fault Refusal := runWord (.icmpLt f) (gCmp (.icmpLt f) f BitVec.slt) s

/-- ICMP.LE (R123). -/
def execIcmpLe (f : GFields) (s : State) : Host.Outcome State Fault Refusal := runWord (.icmpLe f) (gCmp (.icmpLe f) f BitVec.sle) s

/-- ICMP.ULT (R123). -/
def execIcmpUlt (f : GFields) (s : State) : Host.Outcome State Fault Refusal := runWord (.icmpUlt f) (gCmp (.icmpUlt f) f BitVec.ult) s

/-- ICMP.ULE (R123). -/
def execIcmpUle (f : GFields) (s : State) : Host.Outcome State Fault Refusal := runWord (.icmpUle f) (gCmp (.icmpUle f) f BitVec.ule) s

/-- ITEST (R123). -/
def execItest (f : GFields) (s : State) : Host.Outcome State Fault Refusal := runWord (.itest f) (gCmp (.itest f) f fun x y => x &&& y != 0) s

/-- PAND (R124). -/
def execPand (f : GFields) (s : State) : Host.Outcome State Fault Refusal := runWord (.pand f) (gPred (.pand f) f false (· &&& ·)) s

/-- POR (R124). -/
def execPor (f : GFields) (s : State) : Host.Outcome State Fault Refusal := runWord (.por f) (gPred (.por f) f false (· ||| ·)) s

/-- PXOR (R124). -/
def execPxor (f : GFields) (s : State) : Host.Outcome State Fault Refusal := runWord (.pxor f) (gPred (.pxor f) f true (· ^^^ ·)) s

/-- The unary word on predicates (R124). -/
def gPnot (i : Instr) (f : GFields) (x : Ctx) : Res :=
  if f.uni then spredFinish (view i) f.d.toNat true (!x.c.sp.getD f.a.toNat false) x
  else predFinish (view i) f.d.toNat true (~~~x.c.pred f.a.toNat) {} x

/-- PNOT (R124). -/
def execPnot (f : GFields) (s : State) : Host.Outcome State Fault Refusal := runWord (.pnot f) (gPnot (.pnot f) f) s

/-- IADDI (R121). -/
def execIaddi (f : IFields) (s : State) : Host.Outcome State Fault Refusal := runWord (.iaddi f) (iVec (.iaddi f) f true (· + immS f)) s

/-- IMULI (R121). -/
def execImuli (f : IFields) (s : State) : Host.Outcome State Fault Refusal := runWord (.imuli f) (iVec (.imuli f) f (f.imm.getLsbD 0) (· * immS f)) s

/-- MOVIL (R121). -/
def execMovil (f : IFields) (s : State) : Host.Outcome State Fault Refusal := runWord (.movil f) (iVec (.movil f) f false fun _ => immZ f) s

/-- MOVIH (R121). -/
def execMovih (f : IFields) (s : State) : Host.Outcome State Fault Refusal := runWord (.movih f) (iVec (.movih f) f false fun d => (d &&& 0xFFFF) ||| ((immZ f) <<< (16 : Nat))) s

/-- ANDI (R121). -/
def execAndi (f : IFields) (s : State) : Host.Outcome State Fault Refusal := runWord (.andi f) (iVec (.andi f) f false (· &&& immZ f)) s

/-- ORI (R121). -/
def execOri (f : IFields) (s : State) : Host.Outcome State Fault Refusal := runWord (.ori f) (iVec (.ori f) f false (· ||| immZ f)) s

/-- XORI (R121). -/
def execXori (f : IFields) (s : State) : Host.Outcome State Fault Refusal := runWord (.xori f) (iVec (.xori f) f true (· ^^^ immZ f)) s

/-- ROTI (R121). -/
def execRoti (f : IFields) (s : State) : Host.Outcome State Fault Refusal := runWord (.roti f) (iVec (.roti f) f true (rotl · (immZ f))) s

/-- SMOVIL (R121). -/
def execSmovil (f : IFields) (s : State) : Host.Outcome State Fault Refusal := runWord (.smovil f) (iScal (.smovil f) f false fun _ => immZ f) s

/-- SMOVIH (R121). -/
def execSmovih (f : IFields) (s : State) : Host.Outcome State Fault Refusal := runWord (.smovih f) (iScal (.smovih f) f false fun d => (d &&& 0xFFFF) ||| ((immZ f) <<< (16 : Nat))) s

/-- SADDI (R121). -/
def execSaddi (f : IFields) (s : State) : Host.Outcome State Fault Refusal := runWord (.saddi f) (iScal (.saddi f) f true (· + immS f)) s

end Sys2Proof.Machine
end

