-- ==== Sys2Proof/Machine/Lane.lean ====
section
/-! DEFINITION. Lane words and random numbers (R138 to R140). -/

namespace Sys2Proof.Machine

/-- A lane word's result: with no active thread only the record is pushed, and neither a flag nor a latch changes
(R138). -/
def laneFinish (i : Instr) (f : GFields) (e : FEnv) (l : List (Word × Flags)) (x : Ctx) : Res :=
  let rec_ := f.b == 127 || !f.f
  if x.act == 0 then
    let x := if rec_ && !(view i).namesQM then x.record f.d 1 else x
    .done { x with c := { x.c with lfsr := e.lfsr } }
  else fFinish (view i) f.d rec_ e l x

/-- Field a and the key of a lane word: field b, or D in the update form (R138). -/
def Ctx.laneSrc (x : Ctx) (f : GFields) : List Word × List Word :=
  (x.srcA f.a, if f.b == 127 then x.dest f.d else x.srcB f.a f.b)

/-- A lane word whose thread value comes from the active threads' values and its own key (R138): `upTo` for the scans. -/
def lFold (i : Instr) (f : GFields) (upTo : Bool) (op : Word → Word → Word) (x : Ctx) : Res :=
  let p := x.laneSrc f
  let act := members x.act
  laneFinish i f (x.c.fenv 0)
    (threads.map fun t =>
      ((act.filter fun u => !upTo || u ≤ t).foldl (fun r u => op r (lane p.1 u)) (lane p.2 t), {})) x

/-- The floating sums (R139): every term exact, one rounding. -/
def lFadd (i : Instr) (f : GFields) (upTo : Bool) (x : Ctx) : Res :=
  let e := x.roundEnv 0
  let p := x.laneSrc f
  let act := members x.act
  laneFinish i f e
    (threads.map fun t => e.to32 t (Exact.sum (e.mode == .rm)
      (e.val32 (lane p.2 t) :: (act.filter fun u => !upTo || u ≤ t).map fun u => e.val32 (lane p.1 u)))) x

/-- A word of bits over the active threads (R138). -/
def lMask (i : Instr) (f : GFields) (op : (Nat → Word) → (Nat → Word) → Nat → Nat → Bool) (x : Ctx) : Res :=
  let p := x.laneSrc f
  laneFinish i f (x.c.fenv 0)
    (threads.map fun t => (maskOf fun u => x.act.getLsbD u && op (lane p.1) (lane p.2) t u, {})) x

/-- SHFL on its operands: the update form reads D(k) with k from a (R138). -/
def lShfl (i : Instr) (f : GFields) (x : Ctx) : Res :=
  let upd := f.b == 127
  let p := if upd then x.dest f.d else x.srcA f.a
  let k := if upd then x.srcA f.a else x.srcB f.a f.b
  laneFinish i f (x.c.fenv 0) (threads.map fun t => (lane p ((lane k t).toNat % 32), {})) x

/-- RAND on its operands (R140): the generator steps whether or not any thread is active. -/
def lRand (i : Instr) (f : GFields) (x : Ctx) : Res :=
  let p := x.laneSrc f
  let e := { x.c.fenv 0 with lfsr := lfsrForward x.c.lfsr }
  laneFinish i f e (threads.map fun t => (mix e.lfsr (lane p.1 t + lane p.2 t), {})) x

/-- SHFL (R138). -/
def execShfl (f : GFields) (s : State) : Host.Outcome State Fault Refusal := runWord (.shfl f) (lShfl (.shfl f) f) s
/-- VOTE (R138). -/
def execVote (f : GFields) (s : State) : Host.Outcome State Fault Refusal :=
  runWord (.vote f) (lMask (.vote f) f fun a b _ u => a u != b u) s
/-- MATCH (R138). -/
def execMatchAny (f : GFields) (s : State) : Host.Outcome State Fault Refusal :=
  runWord (.matchAny f) (lMask (.matchAny f) f fun a b t u => a u == a t && b u == b t) s
/-- RAND (R140). -/
def execRand (f : GFields) (s : State) : Host.Outcome State Fault Refusal := runWord (.rand f) (lRand (.rand f) f) s
/-- REDL.ADD (R138). -/
def execRedlAdd (f : GFields) (s : State) : Host.Outcome State Fault Refusal :=
  runWord (.redlAdd f) (lFold (.redlAdd f) f false (· + ·)) s
/-- REDL.FADD (R139). -/
def execRedlFadd (f : GFields) (s : State) : Host.Outcome State Fault Refusal :=
  runWord (.redlFadd f) (lFadd (.redlFadd f) f false) s
/-- SCANL.ADD (R138). -/
def execScanlAdd (f : GFields) (s : State) : Host.Outcome State Fault Refusal :=
  runWord (.scanlAdd f) (lFold (.scanlAdd f) f true (· + ·)) s
/-- SCANL.FADD (R139). -/
def execScanlFadd (f : GFields) (s : State) : Host.Outcome State Fault Refusal :=
  runWord (.scanlFadd f) (lFadd (.scanlFadd f) f true) s
/-- The smaller or the larger as INT32. -/
def sMinMax (max_ : Bool) (x y : Word) : Word := if x.slt y != max_ then x else y
/-- REDL.MIN (R138). -/
def execRedlMin (f : GFields) (s : State) : Host.Outcome State Fault Refusal :=
  runWord (.redlMin f) (lFold (.redlMin f) f false (sMinMax false)) s
/-- REDL.MAX (R138). -/
def execRedlMax (f : GFields) (s : State) : Host.Outcome State Fault Refusal :=
  runWord (.redlMax f) (lFold (.redlMax f) f false (sMinMax true)) s
/-- SCANL.MIN (R138). -/
def execScanlMin (f : GFields) (s : State) : Host.Outcome State Fault Refusal :=
  runWord (.scanlMin f) (lFold (.scanlMin f) f true (sMinMax false)) s
/-- SCANL.MAX (R138). -/
def execScanlMax (f : GFields) (s : State) : Host.Outcome State Fault Refusal :=
  runWord (.scanlMax f) (lFold (.scanlMax f) f true (sMinMax true)) s

end Sys2Proof.Machine
end

