-- ==== Sys2Proof/Machine/Wait.lean ====
section
/-! DEFINITION. Waiting (R269 to R296): register claims, barrier waits and run-on, work fetch and deques, yielding, queue
mappings, the grants that end waits, and the report of waits that nothing can end. -/

namespace Sys2Proof.Machine

/-! Register claims (R251, R278 to R281) -/

/-- The effective values that bound a workgroup: of its region and of the ancestors, as they were read for its node (R250,
R251). -/
def State.bounds (s : State) (w : Wg) : List (Nat × Eff) := ((s.node? w.launch).map (·.chain)).getD []

/-- L of R279: the smallest effective REGBLK of the region and its ancestors. -/
def State.regLimit (s : State) (w : Wg) : Nat := (s.bounds w).foldl (fun m e => min m e.2.regblk) 98304

/-- Register blocks that a workgroup holds. -/
def State.blocksOf (s : State) (uid : Nat) : Nat := ((s.crewsOf uid).map Crew.blocks).sum

/-- The workgroups resident in the subtree of a region as it stood when they were placed; shadows do not count against a
budget (R250, R251, R357). -/
def State.residents (s : State) (top : Nat) : List Wg :=
  s.wgs.filter fun w => w.core.isSome && !w.isShadow && (s.bounds w).any (·.1 == top)

/-- Register blocks held in the subtree of a region (R251). -/
def State.heldBlocks (s : State) (top : Nat) : Nat := ((s.residents top).map fun w => s.blocksOf w.uid).sum

/-- Register blocks free in a core's pool (R21). -/
def State.poolFree (s : State) (core : Nat) : Nat :=
  384 - ((s.wgs.filter (·.core == some core)).map fun w => s.blocksOf w.uid).sum

/-- Whether the budgets of a workgroup's region and its ancestors have room for n more blocks (R251). -/
def State.budgetRoom (s : State) (w : Wg) (n : Nat) : Bool :=
  w.isShadow || (s.bounds w).all fun e => s.heldBlocks e.1 + n ≤ e.2.regblk

/-- Whether an earlier TAKE of the core holds back a later one (R280): one that only its region's budget keeps out does
not hold back those of other regions. -/
def State.takeHeld (s : State) (w : Wg) (me : CrewRef) (since : Nat) : Bool :=
  s.crews.any fun c => match c.wait, s.wg? c.wg with
    | .take n, some v => c.ref != me && c.since < since && v.core == w.core &&
        !(v.region != w.region && n ≤ s.poolFree (v.core.getD 0) && !s.budgetRoom v n)
    | _, _ => false

/-- Whether a TAKE can be granted now (R280). -/
def State.takeRoom (s : State) (w : Wg) (me : CrewRef) (since n : Nat) : Bool :=
  n ≤ s.poolFree (w.core.getD 0) && s.budgetRoom w n && !s.takeHeld w me since

/-- The top n blocks given back (R278). -/
def Crew.giveBlocks (c : Crew) (n : Nat) : Crew :=
  let top := 8 * (c.blocks - n)
  { c with
    v := c.v.take top
    badRegs := c.badRegs.filter fun b => b.1 < top || 96 ≤ b.1
    stat := c.stat.filter fun b => b.code < top || 96 ≤ b.code }

/-- n blocks of zero registers received (R23). -/
def Crew.takeBlocks (c : Crew) (n : Nat) : Crew := { c with v := c.v ++ List.replicate (8 * n) VReg.zero }

/-- GIVE on the crew (R278). -/
def giveBody (f : SFields) (x : Ctx) : Res :=
  let n := f.imm.toNat
  if x.c.blocks < n then .fault { code := .regUnallocated }
  else if x.c.pendingRegs.any fun r => 8 * (x.c.blocks - n) ≤ r && r < 96 then .wait .score .pendingReg
  else .done { x with c := x.c.giveBlocks n }

/-- GIVE (R278). -/
def execGive (f : SFields) (s : State) : Host.Outcome State Fault Refusal := runWord (.give f) (giveBody f) s

/-- DETAIL of the register-claim faults (12 Table 3). -/
def State.claimDetail (s : State) (w : Wg) (n : Nat) : Nat := n + s.blocksOf w.uid * 2 ^ 4 + s.regLimit w * 2 ^ 16

/-- TAKE on the crew (R279, R280). -/
def takeBody (f : SFields) (x : Ctx) : Res :=
  let n := f.imm.toNat
  if 12 < x.c.blocks + n || x.s.regLimit x.w < x.c.blocks + n then
    .fault { code := .regClaimLimit, detail := x.s.claimDetail x.w n }
  else if x.s.takeRoom x.w x.c.ref x.s.nextId n then .done { x with c := x.c.takeBlocks n }
  else .wait .blocked (.take n)

/-- TAKE (R279). -/
def execTake (f : SFields) (s : State) : Host.Outcome State Fault Refusal := runWord (.take f) (takeBody f) s

/-- A crew of a resident workgroup, with the workgroup. -/
def State.residentCrew (s : State) (r : CrewRef) : Option (Crew × Wg) :=
  match s.crew? r, s.wg? r.wg with
  | some c, some w => if w.core.isSome then some (c, w) else none
  | _, _ => none

/-- TAKE_GRANT (R280). -/
def execTakeGrant (r : CrewRef) (s : State) : Host.Outcome State Fault Refusal :=
  match s.residentCrew r with
  | none => .refused (.notEnabled "TAKE_GRANT: no such crew")
  | some (c, w) =>
    match c.st, c.wait with
    | .blocked, .take n =>
      if s.takeRoom w c.ref c.since n then .next (s.setCrew ((c.takeBlocks n).retire true c.after false))
      else .refused (.notEnabled "TAKE_GRANT: the blocks are not free")
    | _, _ => .refused (.notEnabled "TAKE_GRANT: the crew waits on no TAKE")

/-! Barriers (R282 to R286) -/

/-- The checks that barrier operations share, up to the reading of the object (R283, R285): the machine, the accesses
and the object. -/
def Ctx.barCheck (x : Ctx) (way : Way) (a : BitVec 7) (ctl : Bool) : Except Flt (State × List Acs × Obj) :=
  let off := (x.leader a).toNat
  let req : List AReq := [⟨0, (off : Int)⟩]
  match alignFault way 16 req, boundFault way x.w.scrSize 16 req with
  | some f, _ => .error f
  | none, some f => .error f
  | none, none =>
    if ctl then .error { code := .controlInvalid, field := .b } else
    match x.check true way 2 true true 16 req with
    | .error f => .error f
    | .ok r => .ok (r.1, r.2, x.w.obj off)

/-- BARR on its operands (R283). -/
def barrBody (f : SFields) (x : Ctx) : Res :=
  if x.act == 0 then .done x else
  let m := x.leader f.b
  let n := (x.leader (f.b + 1)).toNat
  match x.barCheck .both f.a (2 ^ 27 ≤ n) with
  | .error e => .fault e
  | .ok (_, accs, o) =>
    let off := (x.leader f.a).toNat
    let o' : Obj := { o with mask := if o.arrived == 0 then m.toNat else o.mask, arrived := o.arrived + 1, exp := o.exp + n }
    if o.res0 != 0 || o.res1 != 0 || o.need x.w ≤ o.arrived then .fault { code := .barrierInvalid }
    else if x.act != m || (o.arrived != 0 && m.toNat != o.mask) then .fault { code := .barrierMask }
    else if 2 ^ 27 ≤ o'.exp || o'.over x.w then .fault { code := .barrierBytes, addr := off, access := 2, detail := o.bytesDetail }
    else if watchHit x.s x.w true .both accs then x.watchStop
    else
      let y := { x with c := x.c.tick }
      .done (y.mapS fun s =>
        s.putObj x.w.uid off o' (some (x.access true true)) (.crew x.c.idx) x.c.release (some x.c.ref))

/-- BARR (R283). -/
def execBarr (f : SFields) (s : State) : Host.Outcome State Fault Refusal :=
  runWord (.barr f) (fun x => consuming (.barr f) (barrBody f x)) s

/-- A wait that returns (R191, R194, R285): an acquire of the phase's releases. -/
def Ctx.passBarrier (x : Ctx) (off k : Nat) : Ctx :=
  { x with c := { x.c.afterPhase (x.w.phaseClk off k) with norun := false } }

/-- A run-on begun (R193, R286). -/
def Ctx.runOnFrom (x : Ctx) (off phase : Nat) : Ctx :=
  let others := x.s.snaps.filter fun k => !(k.wg == x.c.wg && k.idx == x.c.idx)
  { x with
    s := { x.s with snaps := others ++ [x.c] }
    c := { x.c with runon := some ⟨off, phase, x.c.ic, [], [], []⟩ } }

/-- BWAIT and BWAIT.S on their operands (R285, R286): `spec` where the crew may run on. A phase whose arrivals are
complete and whose bytes are not is a phase to wait for. -/
def bwaitBody (spec : Bool) (f : SFields) (x : Ctx) : Res :=
  if x.act == 0 then .done x else
  let k := (x.leader f.b).toNat
  match x.barCheck .load f.a (2 ^ 20 ≤ k) with
  | .error e => .fault e
  | .ok (_, accs, o) =>
    let off := (x.leader f.a).toNat
    if o.res0 != 0 || o.res1 != 0 || o.need x.w < o.arrived then .fault { code := .barrierInvalid }
    else if watchHit x.s x.w true .load accs then x.watchStop
    else
      let y := (x.readAll true 2 accs).1
      if o.passed k then .done (y.passBarrier off k)
      else if spec && !x.c.norun then .done (y.runOnFrom off k)
      else y.waits .blocked (.barrier off k)

/-- BWAIT (R285). -/
def execBwait (f : SFields) (s : State) : Host.Outcome State Fault Refusal :=
  runWord (.bwait f) (fun x => consuming (.bwait f) (bwaitBody false f x)) s

/-- BWAIT.S (R286). -/
def execBwaitS (f : SFields) (s : State) : Host.Outcome State Fault Refusal :=
  runWord (.bwaitS f) (fun x => consuming (.bwaitS f) (bwaitBody true f x)) s

/-- The instruction at hand of a crew: that of its packet (R46). -/
def State.atHand (s : State) (w : Wg) (c : Crew) : Option Prev :=
  match (s.instrNext w c).2 with
  | .ok p => some p
  | .error _ => none

/-- A waiting instruction of a crew, as it goes on now: its context and its end (R263, R309). -/
def State.retry (s : State) (c : Crew) (w : Wg) (body : Instr → Ctx → Res) : Option (Bool × Res) :=
  (s.atHand w c).map fun p => (isBoundary p.i, body p.i ⟨s, { c with st := .ready, wait := .none }, w, c.after, false⟩)

/-- A crew with the mailboxes emptied that the instruction it waits at reads (R30). -/
def State.emptied (s : State) (c : Crew) (w : Wg) : Crew :=
  match s.atHand w c with
  | some p => (view p.i).mboxReads.foldl (fun c n => c.setMbox n { c.mbox n with full := false }) c
  | none => c

/-- BWAIT_RETURN (R285): the object, read again as a strong load, shows the phase complete, and the wait returns. The
instruction's checks have been made, and its first read noted, when it began to wait; a failing word of the object is met
again (R352), and a watchpoint set since halts the crew before the effect (R359). -/
def execBwaitReturn (r : CrewRef) (s : State) : Host.Outcome State Fault Refusal :=
  match s.residentCrew r with
  | none => .refused (.notEnabled "BWAIT_RETURN: no such crew")
  | some (c, w) =>
    match c.st, c.wait with
    | .blocked, .barrier off k =>
      match failingFault s w true .load (objAcs off) with
      | some f => .next (s.raiseFault { c with st := .ready, wait := .none } f)
      | none =>
      if (w.obj off).passed k then
        let d := { s.emptied c w with st := .ready, wait := .none }
        let x : Ctx := ⟨s, d, w, c.after, false⟩
        let boundary := (s.atHand w c).any fun p => isBoundary p.i
        if watchHit s w true .load (objAcs off) then .next (s.finish d boundary { x with c := { c with st := .ready, wait := .none } }.watchStop)
        else .next (s.finish d boundary (.done (((x.readAll true 2 (objAcs off)).1).passBarrier off k)))
      else .refused (.notEnabled "BWAIT_RETURN: the phase is not complete")
    | _, _ => .refused (.notEnabled "BWAIT_RETURN: the crew waits on no barrier")

/-- Run-ons whose object shows their phase complete end, in ascending crew order (R193, R289): a store may have changed
PHASE, where no phase of the object completed. -/
def State.settleRunons (s : State) : State :=
  s.crews.foldl (fun s c =>
    match c.runon, s.wg? c.wg with
    | some r, some w => if (w.obj r.off).passed r.phase then s.endRunOn c.ref (w.phaseClk r.off r.phase) else s
    | _, _ => s) s

/-! Work fetch and deques (R261, R262, R291, R292) -/

/-- The workgroup indices of a launch (R260). -/
def NodeRun.total (n : NodeRun) : Nat := n.desc.dimx * n.desc.dimy * n.desc.dimz

/-- FETCHW's checks (R291). -/
def Ctx.fetchwCheck (x : Ctx) (off : Nat) : Except Flt (List Acs) :=
  (x.check true .store 2 true false 16 [⟨0, (off : Int)⟩]).map (·.2)

/-- FETCHW on its operands (R291). -/
def fetchwBody (f : SFields) (x : Ctx) : Res :=
  if x.act == 0 then .done x
  else if x.eff.mode != 1 then .fault { code := .fetchMode }
  else
    let off := (x.leader f.a).toNat
    match x.fetchwCheck off with
    | .error e => .fault e
    | .ok accs => if watchHit x.s x.w true .store accs then x.watchStop else .wait .blocked (.fetchw off)

/-- FETCHW (R291). -/
def execFetchw (f : SFields) (s : State) : Host.Outcome State Fault Refusal :=
  runWord (.fetchw f) (fun x => consuming (.fetchw f) (fetchwBody f x)) s

/-- The record of an index, or of none (R291): FLAG and the coordinates of R15. -/
def NodeRun.fetchRecord (n : NodeRun) (i : Option Nat) : List Byte :=
  match i with
  | some i => leBytes 1 4 ++ leBytes (i % n.desc.dimx) 4 ++ leBytes (i / n.desc.dimx % n.desc.dimy) 4 ++
      leBytes (i / n.desc.dimx / n.desc.dimy) 4
  | none => leBytes 2 4 ++ leBytes 0 12

/-- FETCHW_REPLY (R261, R291): the lowest unplaced index is withdrawn and its record written as one strong store, unless a
watchpoint set since the crew began to wait halts it before (R359). -/
def execFetchwReply (r : CrewRef) (s : State) : Host.Outcome State Fault Refusal :=
  match s.residentCrew r with
  | none => .refused (.notEnabled "FETCHW_REPLY: no such crew")
  | some (c, w) =>
    match c.st, c.wait, s.node? w.launch with
    | .blocked, .fetchw off, some n =>
      let x : Ctx := ⟨s, { c with st := .ready, wait := .none }, w, c.after, false⟩
      match x.fetchwCheck off with
      | .error e => .next (s.finish x.c true (.fault e))
      | .ok accs =>
        if watchHit s w true .store accs then .next (s.finish x.c true x.watchStop) else
        let i : Option Nat := if n.next < n.total && !n.closed then some n.next else none
        let s' := match i with | some _ => s.setNode { n with next := n.next + 1 } | none => s
        let w' := match i with | some i => { w with withdrawn := w.withdrawn ++ [i] } | none => w
        let y := ({ x with s := s', w := w' }).writeAll true 2 .store (accs.map fun a => (a, n.fetchRecord i))
        .next (s.finish x.c true (.done { y with c := s.emptied y.c.tick w }))
    | _, _, _ => .refused (.notEnabled "FETCHW_REPLY: the crew waits on no FETCHW")

/-- The deque of a launch on a core (R292). -/
def State.deque (s : State) (core launch : Nat) : Deque :=
  (((s.core core).deques).find? (·.launch == launch)).getD ⟨launch, []⟩

/-- A deque replaced. -/
def State.setDeque (s : State) (core : Nat) (d : Deque) : State :=
  s.modCore core fun k => { k with deques := k.deques.filter (·.launch != d.launch) ++ [d] }

/-- DQPUSH on its operands (R292). -/
def dqpushBody (f : SFields) (x : Ctx) : Res :=
  if x.act == 0 then .done x
  else if x.eff.mode != 2 then .fault { code := .fetchMode }
  else
    let p := x.leaderPair f.a
    let d := x.s.deque x.coreNo x.w.launch
    if p == BitVec.allOnes 64 then .fault { code := .controlInvalid, field := .a }
    else if 1024 ≤ d.ents.length then .fault { code := .dequeFull }
    else .done { x with s := x.s.setDeque x.coreNo { d with ents := (p, x.c.release) :: d.ents }, c := x.c.tick }

/-- DQPUSH (R292). -/
def execDqpush (f : SFields) (s : State) : Host.Outcome State Fault Refusal := runWord (.dqpush f) (dqpushBody f) s

/-- An entry, or none, written to the pair a in the active threads; a removal that takes it is an acquire (R292). -/
def Ctx.takeEntry (x : Ctx) (a : BitVec 7) (e : Option (DWord × Clock)) : Ctx :=
  let v := (e.map (·.1)).getD (BitVec.allOnes 64)
  let x := match e with | some e => { x with c := x.c.acquire [e.2] } | none => x
  (x.deliver (a + 1) (perThread fun _ => hiWord v) false).deliver a (perThread fun _ => loWord v) false

/-- DQPOP on its operands (R292). -/
def dqpopBody (f : SFields) (x : Ctx) : Res :=
  if x.act == 0 then .done x
  else if x.eff.mode != 2 then .fault { code := .fetchMode }
  else
    let d := x.s.deque x.coreNo x.w.launch
    match d.ents with
    | [] => .done (x.takeEntry f.a none)
    | e :: rest => .done (({ x with s := x.s.setDeque x.coreNo { d with ents := rest } }).takeEntry f.a (some e))

/-- DQPOP (R292). -/
def execDqpop (f : SFields) (s : State) : Host.Outcome State Fault Refusal := runWord (.dqpop f) (dqpopBody f) s

/-- The cores, other than one, whose deque of a launch holds entries. -/
def State.victims (s : State) (me launch : Nat) : List Nat :=
  (List.range s.cores.length).filter fun k => k != me && !(s.deque k launch).ents.isEmpty

/-- DQSTEAL on its operands (R292): which core is chosen is free (log 5). -/
def dqstealBody (f : SFields) (x : Ctx) : Res :=
  if x.act == 0 then .done x
  else if x.eff.mode != 2 then .fault { code := .fetchMode }
  else
    let l := x.s.victims x.coreNo x.w.launch
    match l[Config.freeNat x.s.fresh % l.length]? with
    | none => .done (x.takeEntry f.a none)
    | some k =>
      let d := x.s.deque k x.w.launch
      let s := { x.s with fresh := x.s.fresh + 1 }.setDeque k { d with ents := d.ents.dropLast }
      .done (({ x with s := s }).takeEntry f.a d.ents.getLast?)

/-- DQSTEAL (R292). -/
def execDqsteal (f : SFields) (s : State) : Host.Outcome State Fault Refusal := runWord (.dqsteal f) (dqstealBody f) s

/-! YIELD (R293) -/

/-- The local cycle counter of a crew's core (log 7). -/
def State.cycOf (s : State) (w : Wg) : Nat := (s.core (w.core.getD 0)).cyc.toNat

/-- YIELD (R293). -/
def execYield (f : SFields) (s : State) : Host.Outcome State Fault Refusal :=
  runWord (.yield f) (fun x => .wait .blocked (.yield (x.s.cycOf x.w + 2 ^ f.imm.toNat))) s

/-- YIELD_WAKE (R293): the time has passed, or an event of the workgroup has ended the wait. -/
def execYieldWake (r : CrewRef) (s : State) : Host.Outcome State Fault Refusal :=
  match s.residentCrew r with
  | none => .refused (.notEnabled "YIELD_WAKE: no such crew")
  | some (c, w) =>
    match c.st, c.wait with
    | .blocked, .yield t =>
      if t ≤ s.cycOf w then .next ((s.countRecovery w c).leave (c.retire false c.after false))
      else .refused (.notEnabled "YIELD_WAKE: the time has not passed")
    | _, _ => .refused (.notEnabled "YIELD_WAKE: the crew does not yield")

/-! Queue mappings (R270 to R276) -/

/-- The queue a mapping word installs (R270). -/
def queueOf (w : Word) : Queue := ⟨w.getLsbD 31, (w.extractLsb' 16 13).toNat, (w.extractLsb' 0 13).toNat, 0, 0, []⟩

/-- Whether a mapping word breaks R270, among the other queues of its workgroup. -/
def qwordBad (w : Word) (scrSize : Nat) (others : List Queue) : Bool :=
  let q := queueOf w
  if !q.valid then w != 0
  else q.depth == 0 || 6144 < q.depth || scrSize < (q.off + q.depth) * 128 || w.extractLsb' 29 2 != 0 ||
    w.extractLsb' 13 3 != 0 || others.any fun o => o.valid && overlap q.off q.depth o.off o.depth

/-- Whether a CPYQ or a crew that waits or has a grant uses a queue (R273, R275). -/
def State.queueBusy (s : State) (uid n : Nat) : Bool :=
  s.copies.any (fun k => k.kind == .cpyq && k.wg == uid && k.queueNo == n) ||
  (s.crewsOf uid).any fun c => c.granted.any (fun g => g.1.contains n || g.2.contains n) || match c.wait with
    | .queue p q => p.contains n || q.contains n
    | _ => false

/-- QMAP on its operands (R275). -/
def qmapBody (f : SFields) (x : Ctx) : Res :=
  if x.act == 0 then .done x else
  let n := f.imm.toNat % 8
  let w := x.leader f.a
  if qwordBad w x.w.scrSize (x.w.queues.eraseIdx n) then .fault { code := .controlInvalid, field := .a }
  else if x.s.queueBusy x.w.uid n || (x.w.queue n).count != 0 then .fault { code := .queueBusy }
  else .done { x with w := { x.w with queues := x.w.queues.set n (queueOf w) } }

/-- QMAP (R275). -/
def execQmap (f : SFields) (s : State) : Host.Outcome State Fault Refusal :=
  runWord (.qmap f) (fun x => consuming (.qmap f) (qmapBody f x)) s

/-- QRESET on its operands (R275). -/
def qresetBody (f : SFields) (x : Ctx) : Res :=
  let n := f.imm.toNat % 8
  if x.s.queueBusy x.w.uid n then .fault { code := .queueBusy }
  else .done { x with w := { x.w with queues := x.w.queues.set n { x.w.queue n with head := 0, count := 0, clocks := [] } } }

/-- QRESET (R275). -/
def execQreset (f : SFields) (s : State) : Host.Outcome State Fault Refusal := runWord (.qreset f) (qresetBody f) s

/-- Whether the mailboxes of the instruction a crew waits at no longer hold it: they changed, or no debugger is attached
any more (R277). -/
def State.mailboxOver (s : State) (c : Crew) (w : Wg) : Bool :=
  !s.attached w || match s.atHand w c with
    | some p => !mailboxStalls c (view p.i)
    | none => true

/-- QUEUE_GRANT (R273, R274): the request is granted, and the crew is READY to run the instruction with what is reserved
for it, when its scheduler selects it (R264). -/
def execQueueGrant (r : CrewRef) (s : State) : Host.Outcome State Fault Refusal :=
  match s.residentCrew r with
  | none => .refused (.notEnabled "QUEUE_GRANT: no such crew")
  | some (c, w) =>
    let go (granted : Option (List Nat × List Nat)) : State := s.setCrew { c with st := .ready, wait := .none, granted := granted }
    match c.st, c.wait with
    | .blocked, .queue pops pushes =>
      if grantable s w r c.since pops pushes then .next (go (some (pops, pushes)))
      else .refused (.notEnabled "QUEUE_GRANT: the queues cannot grant it")
    | .blocked, .mailbox =>
      if s.mailboxOver c w then .next (go none) else .refused (.notEnabled "QUEUE_GRANT: the mailbox has not changed")
    | _, _ => .refused (.notEnabled "QUEUE_GRANT: the crew waits on no queue or mailbox")

/-! What keeps a READY crew's next word from issuing (R263) -/

/-- The wait that an instruction's own meaning comes to before it has any effect (R168, R220, R278, R288, R333, R343). -/
def bodyWait (i : Instr) (x : Ctx) : Option (CrewSt × Wait) :=
  let store (size : Nat) (f : MFields) : Res := if f.sp == 2 || x.c.runon.isSome then stAny i size f x else .done x
  let r : Res := match i with
    | .exit _ => exitBody x
    | .give f => giveBody f x
    | .rewind f => rewindBody f x
    | .st8 f => store 1 f
    | .st16 f => store 2 f
    | .st32 f => store 4 f
    | .st64 f => store 8 f
    | .st128 f => store 16 f
    | .xchg f => if x.c.runon.isSome then xchgBody f x else .done x
    | _ => .done x
  match r with
  | .wait st k => some (st, k)
  | .stall => some (.stalled, .runon)
  | _ => none

/-- The wait that the next word of a crew comes to before it has any effect (R263): a register, a queue, a mailbox, a round
of the window, or the stall of a run-on; none where it can issue. -/
def State.issueWait (s : State) (w : Wg) (c : Crew) : Option (CrewSt × Wait) :=
  match (s.fetchNext w c).2.2 with
  | .error _ => none
  | .ok word =>
    let i := instrOf word
    let x : Ctx := ⟨s, c, w, c.after, false⟩
    match gate i x with
    | some (.wait st k) => some (st, k)
    | some .stall => some (.stalled, .runon)
    | some _ => none
    | none => bodyWait i x

/-! Waits that nothing can end (R281, R294, R296) -/

/-- The bytes that deliveries may still count at a barrier object of a workgroup whose crews add nothing (R197, R378, R379):
of the open rounds to which the workgroup itself has contributed. -/
def State.deliverable (s : State) (w : Wg) (off : Nat) : Nat :=
  4 * (s.groups.flatMap fun g => g.members.zipIdx.flatMap fun m =>
    if m.1.dev == (s.port.devnum.extractLsb' 0 16).toNat && m.1.node == w.node && m.1.wg == w.index && m.1.count &&
        m.1.baroff == off then g.rounds.filter fun r => r.parts.any (·.1 == m.2)
    else []).length

/-- Whether deliveries can still end a wait for a phase (R284, R296): every arrival has come, and the bytes that they may count
bring the phase that ends it to completion. -/
def State.deliveryEnds (s : State) (w : Wg) (off k : Nat) : Bool :=
  let o := w.obj off
  let left := o.exp - o.land
  o.arrived == o.need w && o.land < o.exp && left % 4 == 0 && left ≤ s.deliverable w off && o.nextPhase.passed k

/-- Whether a crew's wait is one of condition 2 of R281, and nothing that stands now ends it (R296). -/
def State.deadWait (s : State) (w : Wg) (c : Crew) : Bool :=
  match c.st, c.wait with
  | .exited, _ => true
  | .stalled, _ => match c.runon with | some r => !s.deliveryEnds w r.off r.phase | none => false
  | .blocked, .queue pops pushes => !grantable s w c.ref c.since pops pushes
  | .blocked, .mailbox => !s.mailboxOver c w
  | .blocked, .barrier off k => !(w.obj off).passed k && !s.deliveryEnds w off k
  | _, _ => false

/-- Whether a copy command only waits for room in a queue (R281, condition 3). -/
def State.copyWaits (s : State) (k : CopyCmd) : Bool :=
  k.kind == .cpyq && k.landed != k.total && (!s.firstCpyq k || !s.cpyqRoom k)

/-- A workgroup none of whose waits can end: some false where it is all-blocked, some true in claim deadlock (R281,
R294). -/
def State.stuck (s : State) (w : Wg) : Option Bool :=
  let crews := s.crewsOf w.uid
  let takes := crews.filter fun c => c.st == .blocked && (match c.wait with | .take _ => true | _ => false)
  let others := crews.filter fun c => !(c.st == .blocked && (match c.wait with | .take _ => true | _ => false))
  if w.core.isNone || crews.all (·.st == .exited) || !others.all (s.deadWait w) ||
      s.copies.any (fun k => k.wg == w.uid && (match k.kind with | .bulk _ => false | _ => true) && !s.copyWaits k) then none
  else if takes.isEmpty then some false
  else if takes.all fun c => match c.wait with
      | .take n => min 384 (s.regLimit w) - s.blocksOf w.uid < n
      | _ => false then some true
  else none

/-- A run-on rolled back, if it has not been yet. -/
def State.offRunOn (s : State) (c : Crew) : State × Crew := if c.runon.isSome then s.rolledBack c else (s, c)

/-- The reports of a workgroup that is stuck, in ascending crew index (R281, R294): for each crew what it waited for as it was
found, raised where it stands by then, since the record of one may roll the run-on of another back (R194). -/
def State.reportStuck (s : State) (w : Wg) : State :=
  (s.crewsOf w.uid).foldl (fun s found =>
    let reason := s.stallReason w found false
    match s.crew? found.ref with
    | none => s
    | some c =>
      match found.st, found.wait with
      | .blocked, .take n => s.raiseFault c { code := .regClaimDeadlock, detail := s.claimDetail w n }
      | .blocked, _ => s.raiseFault c { code := .allBlocked, detail := reason }
      | .stalled, _ =>
        let r := s.offRunOn c
        r.1.deliver r.2 { code := .allBlocked, detail := reason } r.2.pc r.2.ic
      | _, _ => s) s

/-- What the core finds at one moment (R296). -/
def State.settleStuck (s : State) : State :=
  s.wgs.foldl (fun s w => match s.wg? w.uid with
    | some w => if (s.stuck w).isSome then s.reportStuck w else s
    | none => s) s

end Sys2Proof.Machine
end

