-- ==== Sys2Proof/Machine/Matrix.lean ====
section
/-! DEFINITION. The matrix unit (R106 to R109, R146 to R167): weight slots, the multiply, tiles and their watermark, the
tile sequencer, error injection. -/

namespace Sys2Proof.Machine

/-! Formats -/

/-- The element format of a dense format code (R68). -/
def matNum (k : Nat) : NumFmt :=
  [.flt e4m3, .flt e5m2, .flt e2m1, .int ⟨8, true⟩, .int ⟨8, false⟩, .int ⟨4, true⟩, .flt bf16, .flt fp16].getD k (.flt bf16)

/-- The element format of a weight format (R68): CB3 decodes to BF16. -/
def weightNum (k : Nat) : NumFmt := matNum ([0, 1, 2, 3, 4, 5, 6, 7, 0, 2, 3, 5, 0, 2, 3, 6].getD k 6)

/-- Whether a weight format is block-scaled. -/
def isBlockFmt (k : Nat) : Bool := 8 ≤ k && k ≤ 11
/-- Whether a weight format is N-of-32. -/
def isSparseFmt (k : Nat) : Bool := 12 ≤ k && k ≤ 14

/-- K_s (R146, Table 1). -/
def kExtent (fmt : Nat) (s24 : Bool) (n : Nat) : Nat :=
  let base := [128, 128, 256, 128, 128, 256, 64, 64, 128, 256, 128, 256, 256, 512, 256, 128].getD fmt 128
  if s24 then 2 * base else if isSparseFmt fmt && n == 24 then base / 2 else base

/-- The size of a weight image (R152, Table 5). -/
def imageSize (fmt : Nat) (s24 : Bool) (n : Nat) : Nat :=
  let gs := kExtent fmt s24 n / 32
  if s24 then 8192 + 256 * gs
  else if isBlockFmt fmt then 8192 + 128 * gs
  else if isSparseFmt fmt then 256 * gs + 64 * gs * n * matBits fmt / 8
  else if fmt == 15 then 3072 else 8192

/-- Whether an operation works in the integer domain (R106). -/
def intDomain (act wfmt : Nat) : Bool := [3, 4, 5].contains act && [3, 4, 5, 14].contains wfmt

/-- Element n of packed data of a given width, the data as one little-endian number (R91). -/
def packedAt (x bits n : Nat) : Nat := x / 2 ^ (bits * n) % 2 ^ bits

/-- A decoded element under a scale container (R92): a zero block decodes to +0, an invalid one to NaN. -/
def scaled (x : Exact) (c : Nat) : Exact :=
  match bs10 (c % 1024) with
  | none => .nan
  | some k => if c / 8 % 128 == 0 then .fin false 0 0 else (x.mul k).1

/-- Bits set below a position of a bitmap. -/
def rankBelow (b p : Nat) : Nat := (List.range p).countP (b.testBit ·)

/-- The weight at (k, j) of a slot, its image and table as numbers (R106, R152). -/
def weightAt (w : WSlot) (img tab k j : Nat) : Exact :=
  let e := matBits w.fmt
  let num := weightNum w.fmt
  let g := k / 32
  let gs := kExtent w.fmt w.s24 w.n / 32
  if w.s24 then
    let f := s24Field (BitVec.ofNat 32 (packedAt img 32 (2048 + 64 * g + j))) (k / 4 % 8)
    if k % 4 == f.1 then num.value (packedAt img e (64 * (2 * (k / 4)) + j))
    else if k % 4 == f.2 then num.value (packedAt img e (64 * (2 * (k / 4) + 1) + j))
    else .fin false 0 0
  else if isBlockFmt w.fmt then scaled (num.value (packedAt img e (64 * k + j))) (packedAt img 16 (4096 + 64 * g + j))
  else if isSparseFmt w.fmt then
    let b := packedAt img 32 (64 * g + j)
    if b.testBit (k % 32) then num.value (packedAt (img / 2 ^ (2048 * gs)) e ((64 * g + j) * w.n + rankBelow b (k % 32)))
    else .fin false 0 0
  else if w.fmt == 15 then num.value (packedAt tab 16 (8 * j + packedAt (packedAt img 384 j) 3 k))
  else num.value (packedAt img e (64 * k + j))

/-! Group sums (R107) -/

/-- AddGroup: one group's exact sum added to an element (R107). -/
def addGroup (int : Bool) (acc : Word) (g : Exact) : Word :=
  if int then acc + BitVec.ofInt 32 (g.scaled 0)
  else
    let gr := (roundTo fp32 g { mode := .rne }).1
    let s := Exact.sum false [fp32.value acc.toNat, fp32.value gr]
    BitVec.ofNat 32 (roundTo fp32 s.1 { mode := .rne }).1

/-- The exact sum of a group's products (R107). -/
def groupSum (a w : Nat → Exact) (ks : List Nat) : Exact := (Exact.sum false (ks.map fun k => ((a k).mul (w k)).1)).1

/-- ApplyPerturbation (R167). -/
def perturbed (int : Bool) (acc addend : Word) : Word :=
  if int then acc + addend
  else BitVec.ofNat 32 (roundTo fp32 (Exact.sum false [fp32.value acc.toNat, fp32.value addend.toNat]).1 { mode := .rne }).1

/-- A row of a tile after an operation over some groups of K (R155, R165). -/
def rowAfter (int z : Bool) (old : List Word) (groups : List (List Nat)) (a : Nat → Exact) (w : Nat → Nat → Exact)
    (hit : Option (Nat × Word)) : List Word :=
  (List.range 64).map fun j =>
    let x := groups.foldl (fun acc ks => addGroup int acc (groupSum a (fun k => w k j) ks)) (if z then 0 else old.getD j 0)
    match hit with
    | some (col, add) => if col == j then perturbed int x add else x
    | none => x

/-- The groups of 32 of a range of K. -/
def groupsOf (ks : Nat) : List (List Nat) := (List.range (ks / 32)).map fun g => (List.range 32).map (32 * g + ·)

/-! Tiles and slots -/

/-- A tile. -/
def Wg.tile (w : Wg) (t : Nat) : Tile := w.tiles.getD t ⟨[], none, []⟩
/-- A tile replaced. -/
def Wg.setTile (w : Wg) (t : Nat) (x : Tile) : Wg := { w with tiles := w.tiles.set t x }
/-- A weight slot. -/
def Wg.slot (w : Wg) (n : Nat) : WSlot := w.slots.getD n ⟨false, 0, false, 0, [], none, []⟩
/-- A weight slot replaced. -/
def Wg.setSlot (w : Wg) (n : Nat) (x : WSlot) : Wg := { w with slots := w.slots.set n x }

/-- A row of a tile. -/
def Tile.row (t : Tile) (r : Nat) : List Word := (t.elems.drop (64 * r)).take 64
/-- A row of a tile replaced. -/
def Tile.setRow (t : Tile) (r : Nat) (l : List Word) : Tile :=
  { t with elems := t.elems.take (64 * r) ++ l.take 64 ++ t.elems.drop (64 * r + 64) }

/-- A row of a tile with the columns of it that fail their check now (R352). -/
def Tile.markRow (t : Tile) (r : Nat) (cols : List Nat) : Tile :=
  { t with failing := (t.failing.filter fun e => e / 64 != r) ++ cols.map (64 * r + ·) }
/-- The columns of a row whose elements fail their check (R352). -/
def Tile.failingCols (t : Tile) (r : Nat) : List Nat := (t.failing.filter fun e => e / 64 == r).map (· % 64)

/-- The number of a tile row or a slot in race tags and race details (R148, R189). -/
def rowKey (t r : Nat) : Nat := 32 * t + r
/-- The number of a slot. -/
def slotKey (n : Nat) : Nat := 256 + n

/-- Rows of a tile that the matrix unit has still to write for retired instructions (R157). -/
def Wg.opRows (w : Wg) (t : Nat) : List Nat :=
  w.mops.flatMap fun o => match o with
    | .mma u _ _ _ _ rows => if u == t then rows.map (·.1) else []
    | .accwr u rows => if u == t then rows.map (·.1) else []
    | .accz u rows => if u == t then rows else []
    | .wtab _ => []

/-- Rows of a tile with a pending write (R157, R165). -/
def Wg.pendingRows (w : Wg) (t : Nat) : List Nat :=
  w.opRows t ++ w.mtiles.flatMap fun m => if m.tile == t then members m.mask else []

/-- The watermark of a tile (R157). -/
def Wg.watermark (w : Wg) (t : Nat) : Nat := (w.pendingRows t).foldl min 32

/-- The race of an access to rows and slots (R148). -/
def Ctx.matFault (x : Ctx) (write : Bool) (keys : List Nat) : Option Flt :=
  if x.w.isShadow then none else
  let a := x.access write false
  (findRace x.w.mtags (keys.map fun k => (a, k, k, 1))).map fun r =>
    { code := .memoryRace, access := if write then 2 else 1, detail := raceDetail 2 r.1 a r.2.2 }

/-- An access to rows and slots noted. -/
def Ctx.matNote (x : Ctx) (write : Bool) (keys : List Nat) : Ctx :=
  { x with w := { x.w with mtags := keys.foldl (fun t k => noteAccess t (x.access write false) k 1) x.w.mtags } }

/-- The first of some faults. -/
def firstOf (l : List (Option Flt)) : Option Flt := l.findSome? id

/-- Scratchpad reads of a matrix instruction as accesses, race-checked (R149). -/
def Ctx.readRace (x : Ctx) (accs : List Acs) : Option Flt :=
  if x.w.isShadow then none else raceFault x.w.stags true .load (x.accessAt false false) accs

/-- A range of scratchpad as one access. -/
def scrAcs (r : Nat × Nat) : Acs := ⟨0, r.1, r.2, []⟩

/-- SCRATCH_BOUND of some ranges in order. -/
def Ctx.rangesBound (x : Ctx) (l : List (Nat × Nat)) : Option Flt :=
  l.findSome? fun r => boundFault .load x.w.scrSize r.2 [⟨0, (r.1 : Int)⟩]

/-! Weights (R152 to R154) -/

/-- A fault that names the scratchpad word whose contents are refused. -/
def contentFault (c : Code) (a : Nat) : Flt := { code := c, addr := a, access := 1 }

/-- Whether a scale container is refused (R92, R93): bits above the code, or e = 127 in an integer format. -/
def scaleBad (fmt c : Nat) : Bool := 1024 ≤ c || (c / 8 % 128 == 127 && (fmt == 10 || fmt == 11))

/-- BLOCK_SCALE_INVALID of containers from an address (R92, R93). -/
def scaleFault (fmt base : Nat) (bytes n : Nat) : Option Flt :=
  ((List.range n).find? fun i => scaleBad fmt (packedAt bytes 16 i)).map fun i => contentFault .blockScaleInvalid (base + 2 * i)

/-- The content checks of a weight image (R153, step 4). -/
def imageFault (fmt : Nat) (s24 : Bool) (n sa img : Nat) : Option Flt :=
  let gs := kExtent fmt s24 n / 32
  if s24 then
    ((List.range (64 * gs)).find? fun i => s24Bad (BitVec.ofNat 32 (packedAt img 32 (2048 + i))) [0, 1, 2, 3, 4, 5, 6, 7]).map
      fun i => contentFault .sparseMetadata (sa + 8192 + 4 * i)
  else if isBlockFmt fmt then scaleFault fmt (sa + 8192) (img / 2 ^ 65536) (64 * gs)
  else if isSparseFmt fmt then
    ((List.range (64 * gs)).find? fun i => rankBelow (packedAt img 32 i) 32 != n).map
      fun i => contentFault .sparseMetadata (sa + 4 * i)
  else none

/-- The N a WLOAD declares (R151). -/
def declaredN (fmt : Nat) (imm : BitVec 5) : Nat :=
  if isSparseFmt fmt then [4, 8, 16, 24].getD (imm.toNat / 4 % 4) 4 else 0

/-- WLOAD and WLOAD.S24 on their operands (R153). -/
def wloadBody (fmt : Nat) (s24 : Bool) (f : SFields) (x : Ctx) : Res :=
  if x.act == 0 then .done x else
  let n := if s24 then 0 else declaredN fmt f.imm
  let sl := f.imm.toNat % 4
  let sa := (x.leader f.a).toNat
  let size := imageSize fmt s24 n
  let accs := [scrAcs (sa, size)]
  let bytes := memRead x.w.scr sa size
  match firstOf [alignFault .load 16 [⟨0, (sa : Int)⟩], x.rangesBound [(sa, size)], x.readRace accs,
      x.matFault true [slotKey sl], failingFault x.s x.w true .load accs, imageFault fmt s24 n sa (leNat bytes)] with
  | some e => .fault e
  | none =>
    if watchHit x.s x.w true .load accs then x.watchStop else
    let y := ((x.readAll true 1 accs).1).matNote true [slotKey sl]
    let old := y.w.slot sl
    .done { y with w := y.w.setSlot sl ⟨true, fmt, s24, n, bytes, if fmt == 15 && !s24 then old.table else none, []⟩ }

/-- WLOAD (R153). -/
def execWload (sel : BitVec 4) (f : SFields) (s : State) : Host.Outcome State Fault Refusal :=
  runWord (.wload sel f) (fun x => consuming (.wload sel f) (wloadBody sel.toNat false f x)) s

/-- WLOAD.S24 (R153). -/
def execWloadS24 (sel : BitVec 3) (f : SFields) (s : State) : Host.Outcome State Fault Refusal :=
  runWord (.wloadS24 sel f) (fun x => consuming (.wloadS24 sel f) (wloadBody sel.toNat true f x)) s

/-- WTAB on its operands (R154): the words are read at retirement; the transfer waits in matrix order. -/
def wtabBody (f : SFields) (x : Ctx) : Res :=
  if x.act == 0 then .done x else
  let sl := f.imm.toNat % 4
  let ta := (x.leader f.a).toNat
  let accs := [scrAcs (ta, 1024)]
  match firstOf [alignFault .load 16 [⟨0, (ta : Int)⟩], x.rangesBound [(ta, 1024)], x.readRace accs,
      x.matFault true [slotKey sl], failingFault x.s x.w true .load accs] with
  | some e => .fault e
  | none =>
    if watchHit x.s x.w true .load accs then x.watchStop else
    let y := ((x.readAll true 1 accs).1).matNote true [slotKey sl]
    let w := y.w.setSlot sl { y.w.slot sl with table := some (memRead x.w.scr ta 1024) }
    .done { y with w := { w with mops := w.mops ++ [.wtab sl] } }

/-- WTAB (R154). -/
def execWtab (f : SFields) (s : State) : Host.Outcome State Fault Refusal :=
  runWord (.wtab f) (fun x => consuming (.wtab f) (wtabBody f x)) s

/-! Multiply (R155) -/

/-- MMA and MMA.Z on their operands (R155): the rows are staged at retirement; the tile updates follow in matrix order. -/
def mmaBody (act : Nat) (z : Bool) (f : SFields) (x : Ctx) : Res :=
  if x.act == 0 then .done x else
  let t := f.imm.toNat / 4
  let sl := f.imm.toNat % 4
  let slot := x.w.slot sl
  if !slot.loaded || (slot.fmt == 15 && !slot.s24 && slot.table.isNone) then .fault { code := .weightEmpty } else
  let n := kExtent slot.fmt slot.s24 slot.n * matBits act / 8
  let rows := members x.act
  let reqs : List AReq := rows.map fun r => ⟨r, ((lane (x.rawSrc f.a 0) r).toNat : Int)⟩
  let accs : List Acs := rows.map fun r => ⟨r, (lane (x.rawSrc f.a 0) r).toNat, n, []⟩
  let keys := rows.map (rowKey t)
  match firstOf [alignFault .load 4 reqs, boundFault .load x.w.scrSize n reqs, x.readRace accs, x.matFault false [slotKey sl],
      x.matFault true keys, failingFault x.s x.w true .load accs] with
  | some e => .fault e
  | none =>
    if watchHit x.s x.w true .load accs then x.watchStop else
    let r := x.readAll true 1 accs
    let y := (r.1.matNote false [slotKey sl]).matNote true keys
    let tile := y.w.tile t
    let w := y.w.setTile t { tile with perturb := none }
    .done { y with w := { w with mops := w.mops ++ [.mma t act z slot tile.perturb r.2] } }

/-- MMA (R155). -/
def execMma (sel : BitVec 3) (f : SFields) (s : State) : Host.Outcome State Fault Refusal :=
  runWord (.mma sel f) (mmaBody sel.toNat false f) s

/-- MMA.Z (R155). -/
def execMmaZ (sel : BitVec 3) (f : SFields) (s : State) : Host.Outcome State Fault Refusal :=
  runWord (.mmaZ sel f) (mmaBody sel.toNat true f) s

/-- A row of an MMA applied in full (R155). -/
def mmaRow (act : Nat) (z : Bool) (slot : WSlot) (perturb : Option (Nat × Nat × Word)) (r : Nat) (bytes : List Byte)
    (old : List Word) : List Word :=
  let img := leNat slot.image
  let tab := leNat (slot.table.getD [])
  let a := leNat bytes
  let hit := match perturb with | some (row, col, add) => if row == r then some (col, add) else none | none => none
  rowAfter (intDomain act slot.fmt) z old (groupsOf (kExtent slot.fmt slot.s24 slot.n))
    (fun k => (matNum act).value (packedAt a (matBits act) k)) (weightAt slot img tab) hit

/-- The columns of a row that fail after a multiply: those of failing weights, and those that failed where the row is
added to (R352). -/
def derivedCols (z : Bool) (slot old : List Nat) : List Nat := (slot ++ if z then [] else old).eraseDups

/-- The first row of the oldest pending operation applied (R157); what it derives from a failing element fails, and what it
replaces no longer does (R352). -/
def Wg.applyRow (w : Wg) : Option Wg :=
  match w.mops with
  | .mma t act z slot p ((r, bytes) :: rows) :: rest =>
    let old := w.tile t
    let w := w.setTile t ((old.setRow r (mmaRow act z slot p r bytes (old.row r))).markRow r
      (derivedCols z slot.failing (old.failingCols r)))
    some { w with mops := if rows.isEmpty then rest else .mma t act z slot p rows :: rest }
  | .accwr t ((r, els) :: rows) :: rest =>
    let old := w.tile t
    let w := w.setTile t ((old.setRow r (els.foldl (fun l e => l.set e.1 e.2) (old.row r))).markRow r
      ((old.failingCols r).filter fun col => !els.any (·.1 == col)))
    some { w with mops := if rows.isEmpty then rest else .accwr t rows :: rest }
  | .accz t (r :: rows) :: rest =>
    let w := w.setTile t (((w.tile t).setRow r (List.replicate 64 0)).markRow r [])
    some { w with mops := if rows.isEmpty then rest else .accz t rows :: rest }
  | _ => none

/-- Every pending matrix operation applied, as before a save (R174). -/
def Wg.settleMatrix (w : Wg) : Nat → Wg
  | 0 => w
  | n + 1 => match w.mops with
    | [] => w
    | .wtab _ :: rest => ({ w with mops := rest }).settleMatrix n
    | _ :: rest => match w.applyRow with
      | some v => v.settleMatrix n
      | none => ({ w with mops := rest }).settleMatrix n

/-- MATRIX_ROW_FINAL (R157). -/
def execMatrixRowFinal (wg : Nat) (s : State) : Host.Outcome State Fault Refusal :=
  match (s.wg? wg).bind Wg.applyRow with
  | some w => .next (s.setWg w)
  | none => .refused (.notEnabled "MATRIX_ROW_FINAL: no row is pending")

/-- WTAB_TRANSFER (R154): the transfer's turn in matrix order comes. -/
def execWtabTransfer (wg : Nat) (s : State) : Host.Outcome State Fault Refusal :=
  match s.wg? wg with
  | none => .refused (.notEnabled "WTAB_TRANSFER: no such workgroup")
  | some w => match w.mops with
    | .wtab _ :: rest => .next (s.setWg { w with mops := rest })
    | _ => .refused (.notEnabled "WTAB_TRANSFER: no transfer is next")

/-! Tile elements (R158 to R162, R167) -/

/-- WMARK on its operands (R158). -/
def wmarkBody (f : SFields) (x : Ctx) : Res :=
  if x.act == 0 then .done x else
  .done (x.deliver f.a (perThread fun _ => BitVec.ofNat 32 (x.w.watermark (f.imm.toNat / 4))) false)

/-- WMARK (R158). -/
def execWmark (f : SFields) (s : State) : Host.Outcome State Fault Refusal := runWord (.wmark f) (wmarkBody f) s

/-- The element pairs that the active threads name (R159): thread, row, column pair; none where a reserved bit is set. -/
def Ctx.elements (x : Ctx) (b : BitVec 7) : Option (List (Nat × Nat × Nat)) :=
  let l := (members x.act).map fun t => (t, (lane (x.rawSrc b 0) t).toNat)
  if l.any fun e => 1024 ≤ e.2 then none else some (l.map fun e => (e.1, e.2 % 32, e.2 / 32))

/-- The reading of an ACCRD whose rows lie below the watermark (R160); an element that fails its check is reported (R352). -/
def accrdRead (f : SFields) (x : Ctx) (els : List (Nat × Nat × Nat)) : Res :=
  let tile := x.w.tile (f.imm.toNat / 4)
  let elem (odd : Nat) (e : Nat × Nat × Nat) : Nat := 64 * e.2.1 + 2 * e.2.2 + odd
  if els.any fun e => tile.failing.contains (elem 0 e) || tile.failing.contains (elem 1 e) then
    .fault { code := .memoryUncorrectable, access := 1 }
  else
    let val (odd u : Nat) : Word := match els.find? (·.1 == u) with
      | some e => (tile.row e.2.1).getD (2 * e.2.2 + odd) 0
      | none => 0
    .done ((x.deliver (f.a + 1) (perThread (val 1)) false).deliver f.a (perThread (val 0)) false)

/-- Whether an ACCRD has to wait: a row it names is at or above the watermark (R160). DESIGN CHOICE (log 33): a write that another
crew issues while the ACCRD waits precedes it in the matrix order, where happens-before orders the two neither way (R148, R157). -/
def Ctx.accrdWaits (x : Ctx) (f : SFields) (els : List (Nat × Nat × Nat)) : Bool :=
  els.any fun e => x.w.watermark (f.imm.toNat / 4) ≤ e.2.1

/-- ACCRD on its operands (R160): the checks are made and the access is noted before it waits. DESIGN CHOICE (log 33): the wait is
one of SCORE, where Table 5 of R263 names it in no row. -/
def accrdBody (f : SFields) (x : Ctx) : Res :=
  if x.act == 0 then .done x else
  match x.elements f.b with
  | none => .fault { code := .controlInvalid, field := .b }
  | some els =>
    let keys := els.map fun e => rowKey (f.imm.toNat / 4) e.2.1
    match x.matFault false keys with
    | some e => .fault e
    | none =>
      let y := x.matNote false keys
      if y.accrdWaits f els then y.waits .score .accrd else accrdRead f y els

/-- ACCRD (R160). -/
def execAccrd (f : SFields) (s : State) : Host.Outcome State Fault Refusal := runWord (.accrd f) (accrdBody f) s

/-- What becomes of a waiting ACCRD, whose checks have been made (R160). -/
def accrdAgain (i : Instr) (x : Ctx) : Res :=
  match i with
  | .accrd f => match x.elements f.b with
    | some els => if x.accrdWaits f els then .stall else accrdRead f x els
    | none => .stall
  | _ => .stall

/-- ACCRD_WAIT_END (R160). -/
def execAccrdWaitEnd (r : CrewRef) (s : State) : Host.Outcome State Fault Refusal :=
  match s.residentCrew r with
  | none => .refused (.notEnabled "ACCRD_WAIT_END: no such crew")
  | some (c, w) =>
    match c.st, c.wait with
    | .score, .accrd =>
      match s.retry c w accrdAgain with
      | some (_, .done x) => .next (s.finish { c with st := .ready, wait := .none } true (.done x))
      | some (_, .fault f) => .next (s.finish { c with st := .ready, wait := .none } true (.fault f))
      | _ => .refused (.notEnabled "ACCRD_WAIT_END: the rows are pending")
    | _, _ => .refused (.notEnabled "ACCRD_WAIT_END: the crew waits on no ACCRD")

/-- The rows of some numbers, ascending, each once. -/
def rowsOf (l : List Nat) : List Nat := threads.filter l.contains

/-- ACCWR on its operands (R161): of two threads that name one element the higher stands. -/
def accwrBody (f : SFields) (x : Ctx) : Res :=
  if x.act == 0 then .done x else
  let t := f.imm.toNat / 4
  match x.elements f.b with
  | none => .fault { code := .controlInvalid, field := .b }
  | some els =>
    let keys := els.map fun e => rowKey t e.2.1
    match x.matFault true keys with
    | some e => .fault e
    | none =>
      let y := x.matNote true keys
      let writes (r : Nat) : List (Nat × Word) := (els.filter (·.2.1 == r)).flatMap fun e =>
        [(2 * e.2.2, lane (x.rawSrc f.a 0) e.1), (2 * e.2.2 + 1, lane (x.rawSrc (f.a + 1) 0) e.1)]
      let op : MatOp := .accwr t ((rowsOf (els.map (·.2.1))).map fun r => (r, writes r))
      .done { y with w := { y.w with mops := y.w.mops ++ [op] } }

/-- ACCWR (R161). -/
def execAccwr (f : SFields) (s : State) : Host.Outcome State Fault Refusal := runWord (.accwr f) (accwrBody f) s

/-- ACCZ on its operands (R162). -/
def acczBody (f : SFields) (x : Ctx) : Res :=
  if x.act == 0 then .done x else
  let t := f.imm.toNat / 4
  let rows := members x.act
  match x.matFault true (rows.map (rowKey t)) with
  | some e => .fault e
  | none =>
    let y := x.matNote true (rows.map (rowKey t))
    .done { y with w := { y.w with mops := y.w.mops ++ [.accz t rows] } }

/-- ACCZ (R162). -/
def execAccz (f : SFields) (s : State) : Host.Outcome State Fault Refusal := runWord (.accz f) (acczBody f) s

/-- PERTURB on its operands (R167). -/
def perturbBody (f : SFields) (x : Ctx) : Res :=
  if x.act == 0 then .done x else
  let t := f.imm.toNat / 4
  let e := (x.leader f.a).toNat
  let keys := threads.map (rowKey t)
  if 2048 ≤ e then .fault { code := .controlInvalid, field := .a } else
  match x.matFault true keys with
  | some e => .fault e
  | none =>
    let y := x.matNote true keys
    .done { y with w := y.w.setTile t { y.w.tile t with perturb := some (e % 32, e / 32, x.leader f.b) } }

/-- PERTURB (R167). -/
def execPerturb (f : SFields) (s : State) : Host.Outcome State Fault Refusal :=
  runWord (.perturb f) (fun x => consuming (.perturb f) (perturbBody f x)) s

/-! The tile sequencer (R164 to R166) -/

/-- The run a descriptor describes (R164, Table 8). -/
def mtileOf (d da act : Nat) (z : Bool) (f : SFields) (x : Ctx) : MTile :=
  { idx := x.c.idx, desc := da, tile := f.imm.toNat / 4, slot := f.imm.toNat % 4, act := act, z := z, mask := x.act,
    abase := bitsOf d 31 0, astride := bitsOf d 63 32, bbase := bitsOf d 95 64, klen := bitsOf d 127 96,
    wfmt := bitsOf d 131 128, sbase := bitsOf d 191 160, step := 0, perturb := (x.w.tile (f.imm.toNat / 4)).perturb,
    clock := x.c.clock, party := crewParty x.c, epoch := clkGet x.c.clock (crewParty x.c) }

/-- Whether a descriptor is refused (R164). -/
def descBad (d : Nat) (m : MTile) : Bool :=
  bitsOf d 255 192 != 0 || bitsOf d 159 132 != 0 || 12 ≤ m.wfmt || m.klen % 32 != 0 || m.klen == 0 || 16384 < m.klen ||
  (m.wfmt < 8 && m.sbase != 0) || m.abase % 4 != 0 || m.astride % 4 != 0 || m.bbase % 16 != 0 || m.sbase % 16 != 0

/-- MTILE and MTILE.Z on their operands (R165): a run that stopped at an interrupt point goes on from there (R166). DESIGN
CHOICE (log 33): the six checks of R165 are not made again then, though R309 makes a resumed instruction's checks afresh. -/
def mtileBody (act : Nat) (z : Bool) (f : SFields) (x : Ctx) : Res :=
  if x.act == 0 then .done x else
  let wait (y : Ctx) : Res :=
    .keep { y with s := { y.s with nextId := y.s.nextId + 1 }, c := y.c.block y.s.nextId .blocked .mtile }
  if x.w.mtiles.any (·.idx == x.c.idx) then wait x else
  let da := (x.leader f.a).toNat
  let d := memNat x.w.scr da 32
  let m := mtileOf d da act z f x
  let rows := members x.act
  let accs := (da, 32) :: m.reads |>.map scrAcs
  let keys := rows.map (rowKey m.tile)
  match firstOf [alignFault .load 32 [⟨0, (da : Int)⟩], x.rangesBound [(da, 32)],
      (if descBad d m then some { code := .controlInvalid, field := .a } else none), x.rangesBound m.reads,
      (if isBlockFmt m.wfmt then scaleFault m.wfmt m.sbase (memNat x.w.scr m.sbase (4 * m.klen)) (2 * m.klen) else none),
      x.readRace accs, x.matFault true [slotKey m.slot], x.matFault true keys, failingFault x.s x.w true .load accs] with
  | some e => .fault e
  | none =>
    if watchHit x.s x.w true .load accs then x.watchStop else
    let y := ((x.readAll true 1 accs).1.matNote true [slotKey m.slot]).matNote true keys
    let w := y.w.setTile m.tile { y.w.tile m.tile with perturb := none }
    wait { y with w := { w with mtiles := w.mtiles ++ [m] } }

/-- MTILE (R165). -/
def execMtile (sel : BitVec 3) (f : SFields) (s : State) : Host.Outcome State Fault Refusal :=
  runWord (.mtile sel f) (fun x => consuming (.mtile sel f) (mtileBody sel.toNat false f x)) s

/-- MTILE.Z (R165). -/
def execMtileZ (sel : BitVec 3) (f : SFields) (s : State) : Host.Outcome State Fault Refusal :=
  runWord (.mtileZ sel f) (fun x => consuming (.mtileZ sel f) (mtileBody sel.toNat true f x)) s

/-- Chunk(desc, step) (R164, R165): the 32 × 64 weights of a step and their scales, as R152 lays out the first group of an
image. -/
def Wg.chunk (w : Wg) (m : MTile) : List Byte :=
  let n := 256 * matBits m.wfmt
  let els := memRead w.scr (m.bbase + m.step * n) n
  if isBlockFmt m.wfmt then els ++ List.replicate (8192 - n) 0 ++ memRead w.scr (m.sbase + 128 * m.step) 128 else els

/-- A slot that holds the chunk of a step (R147, R165): EMPTY for MMA, without a table; its latched format stands. -/
def WSlot.hold (k : WSlot) (chunk : List Byte) : WSlot := { k with loaded := false, image := chunk, table := none, failing := [] }

/-- One K-chunk applied to every row of a run (R165). -/
def Wg.mtileApply (w : Wg) (m : MTile) : Wg :=
  let img := leNat (w.chunk m)
  let weight (k j : Nat) : Exact := weightAt ⟨false, m.wfmt, false, 0, [], none, []⟩ img 0 k j
  let last := m.step + 1 == m.klen / 32
  (members m.mask).foldl (fun w t =>
    let n := 4 * matBits m.act
    let a := memNat w.scr (m.abase + t * m.astride + m.step * n) n
    let hit := match m.perturb with
      | some (row, col, add) => if last && row == t then some (col, add) else none
      | none => none
    let row := rowAfter (intDomain m.act m.wfmt) (m.z && m.step == 0) ((w.tile m.tile).row t) [List.range 32]
      (fun k => (matNum m.act).value (packedAt a (matBits m.act) k)) weight hit
    let old := w.tile m.tile
    w.setTile m.tile ((old.setRow t row).markRow t (derivedCols (m.z && m.step == 0) [] (old.failingCols t)))) w

/-- The run that moves next (R165): the oldest whose crew waits for it and whose rows have no earlier write pending; none
while the workgroup is being saved (R166). DESIGN CHOICE (log 33): that holds also where a crew waits in ACCRD for the run's
rows, so that the save waits for as long; R166 and R316 do not say which gives way. -/
def State.nextRun (s : State) (w : Wg) : Option (MTile × Crew) :=
  if w.saving then none else w.mtiles.findSome? fun m => match s.residentCrew ⟨w.uid, m.idx⟩ with
    | some (c, _) =>
      if c.st == .blocked && c.wait == .mtile && !(w.opRows m.tile).any (members m.mask).contains then some (m, c) else none
    | none => none

/-- MTILE_STEP (R165): one step, once the earlier operations on its rows are applied: the slot holds its chunk, and the rows get
their sums; the last one retires MTILE. The slot is EMPTY from the first step on, also after a run that is given up (R147). -/
def execMtileStep (wg : Nat) (s : State) : Host.Outcome State Fault Refusal :=
  match s.wg? wg with
  | none => .refused (.notEnabled "MTILE_STEP: no such workgroup")
  | some w =>
    match s.nextRun w with
    | none => .refused (.notEnabled "MTILE_STEP: no run is in progress, or earlier writes are pending")
    | some (m, c) =>
      let w := (w.mtileApply m).setSlot m.slot ((w.slot m.slot).hold (w.chunk m))
      if m.step + 1 < m.klen / 32 then
        let more := w.mtiles.map fun k => if k.idx == m.idx then { m with step := m.step + 1 } else k
        .next (s.setWg { w with mtiles := more })
      else
        .next ((s.setWg { w with mtiles := w.mtiles.filter (·.idx != m.idx) }).setCrew
          ((s.emptied c w).retire true c.after false))

end Sys2Proof.Machine
end

