-- ==== Sys2Proof/Machine/Region.lean ====
section
/-! DEFINITION. Regions: control blocks, inheritance, the checks of the Cox, fault domains, protected ranges (R248 to
R250, R297 to R301, R340). -/

namespace Sys2Proof.Machine

/-! Control blocks -/

/-- Whether a block gives field i (R248, R249). -/
def ovr (x i : Nat) : Bool := x.testBit (64 + i)

/-- The effective values of a block below a parent's (R249); the share of the wake area is set where WAKEBASE is given
(R340). -/
def effBelow (x : Nat) (p : Eff) : Eff :=
  let pick (i own inh : Nat) : Nat := if ovr x i then own else inh
  let e : Eff :=
    { prio := pick 0 (bitsOf x 99 96) p.prio
      mode := pick 1 (bitsOf x 103 100) p.mode
      system := if ovr x 2 then x.testBit 104 else p.system
      ptroot := pick 3 (bitsOf x 191 128) p.ptroot
      wakeBase := pick 4 (bitsOf x 255 192) p.wakeBase
      wakeSize := pick 5 (bitsOf x 287 256) p.wakeSize
      saveBase := pick 6 (bitsOf x 383 320) p.saveBase
      saveSize := pick 7 (bitsOf x 319 288) p.saveSize
      faultq := pick 8 (bitsOf x 447 384) p.faultq
      fqlen := pick 9 (bitsOf x 463 448) p.fqlen
      cores := pick 10 (bitsOf x 479 464) p.cores
      regblk := pick 11 (bitsOf x 511 480) p.regblk
      scrgran := pick 12 (bitsOf x 527 512) p.scrgran
      wdog := pick 13 (bitsOf x 531 528) p.wdog
      redun := pick 14 (bitsOf x 535 532) p.redun
      share := p.share
      shares := p.shares }
  if ovr x 4 then
    { e with share := e.wakeSize * 1024 / (64 * e.cores) / 4096 * 4096, shares := 64 * e.cores }
  else e

/-- A value that a block gives outside Table 1, or a misaligned address it gives (R248, R250, R310). -/
def givenBad (x : Nat) : Bool :=
  (ovr x 1 && 2 < bitsOf x 103 100) || (ovr x 3 && bitsOf x 191 128 % 8192 != 0) ||
  (ovr x 4 && bitsOf x 255 192 % 4096 != 0) || (ovr x 6 && bitsOf x 383 320 % 4096 != 0) ||
  (ovr x 8 && bitsOf x 447 384 % 64 != 0) || (ovr x 9 && bitsOf x 463 448 == 0) ||
  (ovr x 10 && (bitsOf x 479 464 == 0 || 256 < bitsOf x 479 464)) ||
  (ovr x 11 && (bitsOf x 511 480 == 0 || 98304 < bitsOf x 511 480)) ||
  (ovr x 12 && (bitsOf x 527 512 == 0 || 49152 < bitsOf x 527 512))

/-- Reserved bits of a block. -/
def rcbReserved (x : Nat) : Bool := bitsOf x 4095 536 != 0 || bitsOf x 127 106 != 0 || bitsOf x 95 79 != 0

/-- Whether an area lies wholly in populated memory; an empty one does. -/
def areaIn (a n : Nat) : Bool := n == 0 || populated a n

/-- Areas that are not wholly in populated memory (R250). -/
def areasBad (e : Eff) : Bool :=
  !(areaIn e.ptroot 8192 && areaIn e.faultq (64 * e.fqlen) && areaIn e.wakeBase (e.wakeSize * 1024) &&
    areaIn e.saveBase (e.saveSize * 1024))

/-- A region from its block and its parent's region (R249, R250, R340). -/
def buildRegion (rcb x : Nat) (parent : Option Region) : Option Region :=
  let pe := (parent.map (·.eff)).getD .zero
  let e := effBelow x pe
  let rootBad := parent.isNone && (bitsOf x 78 64 != 0x7FFF || !x.testBit 105)
  let childBad := parent.isSome && ((e.system && !pe.system) || pe.prio < e.prio)
  if rcbReserved x || givenBad x || rootBad || childBad || areasBad e || e.share < 4096 then none
  else some ⟨rcb, (match parent with | some p => p.rcb :: p.parents | none => []), x.testBit 105, e, 0, 0, [], false, false, false⟩

/-- Whether the Cox can read a block (R250, R299). -/
def rcbReadable (rcb : Nat) : Bool := rcb % 512 == 0 && rcb < 2 ^ 41 && populated rcb 512

/-- A region and its ancestors as their blocks stand, nearest first, or why the region is rejected (R250, R352): a chain of
at most as many blocks. -/
def State.loadChain (s : State) : Nat → Nat → Except Code (List Region)
  | 0, _ => .error .regionInvalid
  | n + 1, rcb =>
    if !rcbReadable rcb then .error .regionInvalid
    else if s.failingAt rcb 512 then .error .memoryUncorrectable
    else
      let x := memNat s.mem rcb 512
      let p := bitsOf x 63 0
      let above : Except Code (List Region) := if p == 0 then .ok [] else s.loadChain n p
      match above with
      | .error c => .error c
      | .ok l => match buildRegion rcb x l.head? with
        | some r => .ok (r :: l)
        | none => .error .regionInvalid

/-- The chain of the nearest region, from one upwards, whose block is valid (R250). -/
def State.nearest (s : State) : Nat → Nat → Option (List Region)
  | 0, _ => none
  | n + 1, rcb =>
    match s.loadChain 16 rcb with
    | .ok l => some l
    | .error _ =>
      if !rcbReadable rcb then none else
      let p := memNat s.mem rcb 8
      if p == 0 then none else s.nearest n p

/-! What the device keeps of regions -/

/-- A region read: its values as they stand now, what the device counts for it kept (R250, R349). -/
def State.enter (s : State) (r : Region) : State :=
  match s.region? r.rcb with
  | some o => s.setRegion { o with parents := r.parents, fdom := r.fdom, eff := r.eff }
  | none => { s with regions := s.regions ++ [r] }

/-- A chain read for a node. -/
def State.enterChain (s : State) (l : List Region) : State := l.foldl State.enter s

/-- A chain of which a record needs the fault queue alone. -/
def State.enterNew (s : State) (l : List Region) : State :=
  l.foldl (fun s r => if (s.region? r.rcb).isSome then s else s.enter r) s

/-- A record of the Cox for a region named by its block: to the fault queue of the nearest region from there on up whose
block is valid, where that block puts it, or to the error log (R250). -/
def State.reportHome (s : State) (rcb : Nat) (x : FRec) : State :=
  match s.nearest 1024 rcb with
  | some (r :: l) =>
    let s := s.enterNew (r :: l)
    s.reportTo { (s.region? r.rcb).getD r with eff := r.eff } [] { x with region := rcb / 512 }
  | _ => s.logError { x with region := 0 }

/-- A region and its ancestors, nearest first. -/
def State.chainOf (s : State) (rcb : Nat) : List Nat := rcb :: ((s.region? rcb).map (·.parents)).getD []

/-- The region that heads the fault domain of a region (R298). -/
def State.domainOf (s : State) (rcb : Nat) : Nat :=
  ((s.chainOf rcb).find? fun a => (s.region? a).any (·.fdom)).getD rcb

/-- Whether a die-to-die link is down: every node then fails until a reset (R356). -/
def State.dieDown (s : State) : Bool := (s.links.take 7).any fun k => !k.up

/-- Whether the nodes of a region fail (R298, R356): its fault domain has been killed, or a die-to-die link is down. -/
def State.domainKilled (s : State) (rcb : Nat) : Bool := (s.region? (s.domainOf rcb)).any (·.killed) || s.dieDown

/-- The areas of a region recorded as protected, or dropped, by whether it has work (R301). -/
def State.settleProt (s : State) : State :=
  { s with regions := s.regions.map fun r => { r with prot := s.nodes.any (·.region == r.rcb) } }

/-- The areas of a region recorded (R301). -/
def State.protect (s : State) (rcb : Nat) : State :=
  { s with regions := s.regions.map fun r => if r.rcb == rcb then { r with prot := true } else r }

end Sys2Proof.Machine
end

