-- ==== Sys2Proof/Machine/Graph.lean ====
section
/-! DEFINITION. The dependence graph: nodes, their checks, READY, successors, doorbells, bulk-copy and publish nodes (R252
to R258, R376). -/

namespace Sys2Proof.Machine

/-! Nodes in memory (R254, Table 3) -/

/-- A node's fields as memory holds them. -/
structure NodeWord where
  addr : Nat
  raw : Nat
  deriving DecidableEq, Repr

/-- The node at an address. -/
def State.nodeWord (s : State) (a : Nat) : NodeWord := ⟨a, memNat s.mem a 128⟩

/-- KIND. -/
def NodeWord.kind (n : NodeWord) : Nat := bitsOf n.raw 3 0
/-- STATE. -/
def NodeWord.state (n : NodeWord) : Nat := bitsOf n.raw 6 4
/-- ONFAIL. -/
def NodeWord.onfail (n : NodeWord) : Bool := n.raw.testBit 7
/-- SUBOP. -/
def NodeWord.subop (n : NodeWord) : Nat := bitsOf n.raw 13 8
/-- NSUCC. -/
def NodeWord.nsucc (n : NodeWord) : Nat := bitsOf n.raw 31 16
/-- PENDING. -/
def NodeWord.pending (n : NodeWord) : Nat := bitsOf n.raw 63 32
/-- REGION. -/
def NodeWord.region (n : NodeWord) : Nat := bitsOf n.raw 127 64
/-- SUCC. -/
def NodeWord.succ (n : NodeWord) : Nat := bitsOf n.raw 191 128
/-- ARG. -/
def NodeWord.arg (n : NodeWord) : Nat := bitsOf n.raw 255 192

/-- GRAPH_INVALID for a node that would become READY (R256): the SUBOP of a bulk copy is an assigned one of direction 11, for
which the expand transform is not assigned (R69, R254). -/
def NodeWord.bad (n : NodeWord) : Bool :=
  n.addr % 128 != 0 || bitsOf n.raw 1023 352 != 0 || bitsOf n.raw 15 14 != 0 || 3 < n.kind || n.succ % 8 != 0 ||
  n.region % 512 != 0 || (n.kind == 1 && n.arg % 64 != 0) || (n.kind == 2 && n.arg % 32 != 0) ||
  (n.kind == 2 && (n.subop / 16 != 3 || 2 ≤ n.subop / 4 % 4)) ||
  !areaIn n.succ (8 * n.nsucc)

/-- STATE of a node written. -/
def State.setNodeState (s : State) (a st : Nat) : State :=
  let b := (memByte s.mem a).toNat
  s.physWrite a [BitVec.ofNat 8 (b % 16 + 16 * st + b / 128 * 128)]

/-- A 32-bit field of a node written: PENDING at 4, STATUS at 32, DONEWG at 36, LEFTOVER at 40. -/
def State.setNodeField (s : State) (a off v : Nat) : State := s.physWrite (a + off) (leBytes v 4)

/-- The clock that a WAITING node starts with (R182, graph). -/
def State.edge (s : State) (a : Nat) : Clock := (mapGet s.edges a).getD []

/-- What has happened before a node, added to (R182). -/
def State.addEdge (s : State) (a : Nat) (clk : Clock) : State :=
  if clk.isEmpty then s else { s with edges := mapSet s.edges a (clkJoin (s.edge a) clk) }

/-! Finished nodes and their successors (R256) -/

/-- A finished node whose successors are to be released. -/
structure Release where
  addr : Nat
  region : Nat
  succ : Nat
  nsucc : Nat
  clk : Clock
  deriving DecidableEq, Repr

/-- A node that has not become READY fails with a code (R250, R256). -/
def State.failWaiting (s : State) (n : NodeWord) (x : FRec) : State × List Release :=
  let s := if n.kind == 1 || n.kind == 3 then s.setNodeField n.addr 32 x.code.num else s
  let s := (s.setNodeState n.addr 4).reportHome n.region { x with node := n.addr, source := 2 }
  (s, if n.onfail then [⟨n.addr, n.region, n.succ, n.nsucc, s.edge n.addr⟩] else [])

/-! Launch descriptors (R252, R253) -/

/-- A descriptor from its 128 bytes. -/
def descOf (x : Nat) : Desc :=
  ⟨(List.range 8).map fun i => BitVec.ofNat 32 (bitsOf x (32 * i + 351) (32 * i + 320)),
    BitVec.ofNat 32 (bitsOf x 287 256), x.testBit 231, bitsOf x 229 224, bitsOf x 223 216, bitsOf x 210 208,
    bitsOf x 207 204, bitsOf x 203 200, bitsOf x 196 192, bitsOf x 127 96, bitsOf x 159 128, bitsOf x 191 160,
    bitsOf x 95 64, bitsOf x 63 0⟩

/-- Crews of a workgroup. -/
def Desc.crews (d : Desc) : Nat := d.ncrew + 1

/-- Register blocks of a workgroup. -/
def Desc.blocks (d : Desc) : Nat := d.crews * d.regblk

/-- Workgroup indices of a launch. -/
def Desc.total (d : Desc) : Nat := d.dimx * d.dimy * d.dimz

/-- Whether a descriptor's queue mappings break R270. -/
def Desc.queuesBad (d : Desc) : Bool :=
  (List.range 8).any fun i => qwordBad (d.qmap.getD i 0) (d.scrgran * 4096) ((d.qmap.eraseIdx i).map queueOf)

/-- LAUNCH_INVALID (R253). -/
def launchBad (x : Nat) : Bool :=
  let d := descOf x
  bitsOf x 1023 576 != 0 || bitsOf x 319 288 != 0 || bitsOf x 255 232 != 0 || x.testBit 230 || bitsOf x 215 211 != 0 ||
  bitsOf x 199 197 != 0 || 192 < d.scrgran || 4 < d.wsl || 8 < d.acc || 12 < d.regblk || d.code % 192 != 0 ||
  d.entry % 12 != 0 || d.total == 0 || 2 ^ 32 < d.total || d.fmode % 8 == 0 || d.fmode % 8 == 7 || d.queuesBad ||
  384 < d.blocks

/-- How many of a thing fit: all, where none is asked for. -/
def fits (have_ need : Nat) : Nat := if need == 0 then 2 ^ 32 else have_ / need

/-- Workgroups of a launch that one empty core holds (R259). -/
def Desc.perCore (d : Desc) : Nat :=
  min (fits 64 d.crews) (min (fits 384 d.blocks) (min (fits 192 d.scrgran) (min (fits 8 d.acc) (fits 4 d.wsl))))

/-- LAUNCH_UNPLACEABLE (R253, R259): one workgroup, or the whole of an ALLIN launch, against the budgets and the package. -/
def Desc.unplaceable (d : Desc) (chain : List (Nat × Eff)) : Bool :=
  let n := if d.allin then d.total else 1
  let cores := (n + d.perCore - 1) / max 1 d.perCore
  256 < cores || chain.any fun e => e.2.regblk < n * d.blocks || e.2.scrgran < n * d.scrgran || e.2.cores < cores

/-! READY (R250, R255) -/

/-- The put count of a region begins at 0 when its first node becomes READY (R349). -/
def Region.begin_ (r : Region) : Region := if r.begun then r else { r with put := 0, begun := true }

/-- A node that passes its checks becomes READY. -/
def State.makeReady (s : State) (n : NodeWord) (chain : List Region) (eff : Eff) (d : Desc) : State :=
  let k : NodeRun :=
    { id := s.nextId, addr := n.addr, kind := n.kind, running := false, region := n.region, arg := n.arg, subop := n.subop
      succ := n.succ, nsucc := n.nsucc, onfail := n.onfail, eff := eff, chain := chain.map fun r => (r.rcb, r.eff)
      desc := d, next := 0, done := 0, seq := s.nextId, clock := s.edge n.addr, ended := s.edge n.addr
      code := [], fdoms := chain.map (·.fdom)
      hist := List.replicate 33 0, samples := 0, leftover := 0, closed := false }
  { (s.setNodeState n.addr 1).modRegion n.region Region.begin_ with
    nodes := s.nodes ++ [k], nextId := s.nextId + 1, edges := mapDel s.edges n.addr }

/-- CODE of a descriptor translated as a fetch of its first packet would be (R252, R254). -/
def State.codeCheck (s : State) (d : Desc) (root : Nat) : State × Except Flt Desc :=
  if 2 ^ 57 < d.code + 12 then (s, .error { code := .addressRange, addr := max d.code (2 ^ 57), access := 3 }) else
  let r := s.xlateRun root d.code 12 .fetch
  (r.1, match r.2 with
    | .error e => .error { code := e.1, addr := e.2, access := 3 }
    | .ok _ => .ok d)

/-- The launch descriptor of a node checked (R253, R254, R352): what it holds, then the addresses it names. -/
def State.launchCheck (s : State) (n : NodeWord) (chain : List (Nat × Eff)) (root : Nat) : State × Except Flt Desc :=
  if 2 ^ 57 < n.arg + 128 then
    (s, .error { code := .addressRange, addr := max n.arg (2 ^ 57), access := 1 }) else
  let r := s.xlateRun root n.arg 128 .load
  match r.2 with
  | .error e => (r.1, .error { code := e.1, addr := e.2, access := 1 })
  | .ok ps =>
    if ps.any fun p => r.1.failingAt p.phys.rd p.len then
      (r.1, .error { code := .memoryUncorrectable, addr := n.arg, access := 1 })
    else
      let x := leNat (ps.flatMap fun p => memRead s.mem p.phys.rd p.len)
      if launchBad x then (r.1, .error { code := .launchInvalid })
      else if (descOf x).unplaceable chain then (r.1, .error { code := .launchUnplaceable })
      else r.1.codeCheck (descOf x) root

/-- A descriptor of nothing, for nodes that are no launch. -/
def Desc.none : Desc := ⟨[], 0, false, 0, 0, 0, 0, 0, 0, 0, 0, 0, 0, 0⟩

/-- NODE_READY (R250, R255): a WAITING node whose predecessors have finished is checked, and becomes READY or FAILED. -/
def State.tryReady (s : State) (a : Nat) : State × List Release :=
  let n := s.nodeWord a
  if s.failingAt a 128 then s.failWaiting n { code := .memoryUncorrectable }
  else if n.bad then s.failWaiting n { code := .graphInvalid }
  else match s.loadChain 16 n.region with
    | .error c => s.failWaiting n { code := c }
    | .ok [] => s.failWaiting n { code := .regionInvalid }
    | .ok (r :: l) =>
      let s := (s.enterChain (r :: l)).protect r.rcb
      let chain := (r :: l).map fun r => (r.rcb, r.eff)
      let fin (p : State × List Release) : State × List Release := (p.1.settleProt, p.2)
      if s.domainKilled r.rcb then fin (s.failWaiting n { code := .workgroupKilled, detail := if n.kind == 1 then 3 else 0 })
      else if n.kind != 1 then (s.makeReady n (r :: l) r.eff .none, [])
      else
        let q := s.launchCheck n chain r.eff.ptroot
        match q.2 with
        | .error f => fin (q.1.failWaiting n { code := f.code, addr := f.addr, access := f.access })
        | .ok d => (q.1.makeReady n (r :: l) r.eff d, [])

/-- One listed successor of a finished node (R256). -/
def State.releaseTo (s : State) (r : Release) (a : Nat) : State × List Release :=
  if a % 128 != 0 || !s.present a 128 then
    (s.reportHome r.region { code := .graphInvalid, addr := a, source := 2 }, [])
  else if s.failingAt a 128 then
    (s.reportHome r.region { code := .memoryUncorrectable, node := a, source := 2 }, [])
  else
    let n := s.nodeWord a
    if n.state != 0 then (s.reportHome n.region { code := .graphInvalid, node := a, source := 2 }, [])
    else
      let s := s.addEdge a r.clk
      if n.pending == 0 then s.failWaiting n { code := .graphInvalid }
      else
        let s := s.setNodeField a 4 (n.pending - 1)
        if n.pending == 1 then s.tryReady a else (s, [])

/-- The successors of one finished node, in list order (R256): an entry that fails its check is reported as the other
entries that name no node are, and passed over (R352). -/
def State.releaseOne (s : State) (r : Release) : State × List Release :=
  (List.range r.nsucc).foldl (fun (p : State × List Release) i =>
    let at_ := r.succ + 8 * i
    let q := if p.1.failingAt at_ 8 then
        (p.1.reportHome r.region { code := .memoryUncorrectable, addr := at_, source := 2 }, [])
      else p.1.releaseTo r (memNat p.1.mem at_ 8)
    (q.1, p.2 ++ q.2)) (s, [])

/-- GRAPH_RELEASE (R256): the successors of finished nodes, and of those that fail by it; a node fails at most once until
it is written again, so the count of nodes bounds the work. -/
def State.release : Nat → State → List Release → State
  | _, s, [] => s
  | 0, s, _ => s
  | n + 1, s, r :: rest =>
    let q := s.releaseOne r
    State.release n q.1 (rest ++ q.2)

/-- Nodes that memory could hold. -/
def nodeBound : Nat := 0x10000000000

/-- A release carried through. -/
def State.releaseAll (p : State × List Release) : State := State.release nodeBound p.1 p.2

/-! The end of a node -/

/-- A record written to the ring of a channel, by its number (R360): it wraps at the ring's end. -/
def State.chanWrite (s : State) (n : Nat) (bytes : List Byte) : State :=
  let ch := s.port.chans.getD n ⟨0, 0, 0⟩
  let size := 2 ^ (ch.ctl.extractLsb' 16 5).toNat
  let at_ := ch.next % size
  let first := size - at_
  let s := s.physWrite (ch.base.toNat + at_) (bytes.take first)
  let s := if first < bytes.length then s.physWrite ch.base.toNat (bytes.drop first) else s
  { s with port := { s.port with
      chans := s.port.chans.modify n fun c => { c with next := (at_ + bytes.length) % size } } }

/-- The histogram record of a launch that leaves RUNNING, to each channel that watches its region (R361). -/
def State.histOut (s : State) (n : NodeRun) : State :=
  if n.kind != 1 || !n.running then s else
  (s.histChans n.region).foldl (fun s ch => s.chanWrite ch.1 (leBytes (n.samples + 2 ^ 60 + n.addr * 2 ^ 64) 16 ++
    (n.hist.flatMap fun b => leBytes b 4) ++ List.replicate 108 0)) s

/-- What a finished node releases: its successors, where it is DONE or ONFAIL is 1. -/
def NodeRun.releases (n : NodeRun) (ok : Bool) : List Release :=
  if ok || n.onfail then [⟨n.addr, n.region, n.succ, n.nsucc, clkJoin n.clock n.ended⟩] else []

/-- A node becomes DONE, or FAILED (R255, R256); the Cox keeps what it knows of it while workgroups remain (R301). -/
def State.endNode (s : State) (n : NodeRun) (ok : Bool) : State :=
  let s := ((s.histOut n).setNodeState n.addr (if ok then 3 else 4)).settleCode n.id
  let s := if s.wgs.any (·.launch == n.id) then s.setNode { n with closed := true }
    else { s with nodes := s.nodes.filter (·.id != n.id) }
  State.releaseAll (s.settleProt, n.releases ok)

/-- A record about a READY or RUNNING node, to the queue of its region as read when it became READY, with what its VALID
releases (R250, R349). -/
def State.reportNode (s : State) (n : NodeRun) (rel : List Rel) (x : FRec) : State :=
  match s.nodeRegion n with
  | none => s
  | some r => s.reportTo r rel { x with region := n.region / 512 }

/-- A READY node that is no launch fails as it starts (R254, R257): STATUS holds the code. -/
def State.failStart (s : State) (n : NodeRun) (f : Flt) : State :=
  let s := s.setNodeField n.addr 32 f.code.num
  let x : FRec :=
    { code := f.code, addr := f.addr, access := f.access, detail := f.detail, node := n.addr, source := 2 }
  (s.reportNode n [] x).endNode n false

/-! Bulk-copy and publish nodes (R226, R257) -/

/-- A publish node performed (R257). -/
def State.startPublish (s : State) (n : NodeRun) : State :=
  let r := s.publSet n.eff.ptroot n.arg
  match r.2 with
  | .error f => r.1.failStart n f
  | .ok set => ((r.1.setNodeState n.addr 2).publish n.eff.ptroot set n.clock).endNode { n with running := true } true

/-- Global bytes that a bulk-copy node reads at its start. -/
def State.bulkRead (s : State) (k : CopyCmd) (a n : Nat) : State × Except Flt (List Byte) :=
  let r := s.copyRead k false a n
  (r.1, r.2.mapError (·.flt))

/-- The checks of R241 for a bulk-copy node: its command, or the fault that fails the node (R257). The command stands among
the others while it reads its records. -/
def State.bulkCheck (s : State) (n : NodeRun) : State × Except Flt CopyCmd :=
  let trans := n.subop / 4 % 4
  let kind : CopyKind := .bulk n.addr
  let id := s.nextId
  let z : Layout := layoutOf 0
  let k0 : CopyCmd := ⟨id, kind, 0, 0, 0, 0, 0, n.addr, n.id, n.region, trans, n.subop % 4, 0, blockOf 0, z, z, [], 0, false, 0, [],
    n.clock, mapSet n.clock (copyParty id 0) 1, none, none, id⟩
  let r := { s with nextId := id + 1, copies := s.copies ++ [k0] }.bulkRead k0 n.arg 96
  match r.2 with
  | .error f => (r.1, .error f)
  | .ok bb =>
    let bx := leNat bb
    let b := blockOf bx
    if blockBad kind trans bx || b.count then (r.1, .error { code := .layoutInvalid }) else
    let r1 := r.1.bulkRead k0 b.srcrec 64
    match r1.2 with
    | .error f => (r1.1, .error f)
    | .ok sb =>
      let r2 := r1.1.bulkRead k0 b.dstrec 64
      match r2.2 with
      | .error f => (r2.1, .error f)
      | .ok db =>
        let sx := leNat sb
        let dx := leNat db
        let k : CopyCmd := { k0 with block := b, src := layoutOf sx, dst := layoutOf dx, landed := b.skip }
        if shapesBad kind (some (false, false)) trans b sx dx k.src k.dst k.sorgs k.dorgs then
          (r2.1, .error { code := .layoutInvalid })
        else
          let o := r2.1.overlapOf n.eff.ptroot none kind trans b k.src k.dst k.sorgs k.dorgs
          (o.1, match o.2 with
            | some false => .error { code := .copyOverlap }
            | some true => .ok { k with desc := startsAbove k.src k.dst k.sorgs k.dorgs }
            | none => .ok k)

/-- A bulk-copy node started on the hub die's engine (R257). -/
def State.startBulk (s : State) (n : NodeRun) : State :=
  let r := s.bulkCheck n
  let t := { r.1 with copies := s.copies }
  match r.2 with
  | .error f => t.failStart n f
  | .ok k => { (t.setNodeState n.addr 2).setNode { n with running := true } with copies := s.copies ++ [k.seen r.1] }

/-- The command of a RUNNING bulk-copy node. -/
def State.bulkCmd (s : State) (a : Nat) : Option CopyCmd := s.copies.find? (·.kind == .bulk a)

/-- A bulk-copy node whose command has ended with a status code (R240, R255). -/
def State.endBulk (s : State) (n : NodeRun) (k : CopyCmd) (code : Nat) : State :=
  let s := { s with copies := s.copies.filter (·.id != k.id) }.setNodeField n.addr 32 (k.status code).toNat
  s.endNode { n with ended := clkJoin n.ended k.did } (code == 0)

/-- BULK_COPY_END (R257): the copy of a bulk-copy node ends, complete or early. -/
def execBulkCopyEnd (a : Nat) (s : State) : Host.Outcome State Fault Refusal :=
  match s.bulkCmd a, s.nodes.find? fun n => n.addr == a && n.kind == 2 && n.running with
  | some k, some n =>
    if k.landed == k.total then .next (s.endBulk n k 0)
    else match s.copyStop k with
      | some (s', k, e) =>
        let k := k.seen s'
        .next ((s'.reportNode n (validRel k.did (k.place none)) (k.record e)).endBulk n k e.code)
      | none => .refused (.notEnabled "BULK_COPY_END: bytes remain")
  | _, _ => .refused (.notEnabled "BULK_COPY_END: no such copy")

/-! Doorbells (R376) -/

/-- The first doorbell to serve: its priority and node, and what happened before it (R376). -/
def Port.bell (p : Port) : Option (Nat × Nat × Clock) :=
  (((List.range 16).reverse).findSome? fun q => (p.dbells.getD q []).head?.map fun a => (q, a.1.toNat, a.2))

/-- A node that a doorbell names, at a priority; what happened before the write of the doorbell happens before the node
(R182, R256, R376). -/
def State.ring (s : State) (p a : Nat) (clk : Clock) : State :=
  if !s.present a 128 then s.logError { code := .graphInvalid, node := a, source := 2 }
  else if s.failingAt a 128 then s.logError { code := .memoryUncorrectable, node := a, source := 2 }
  else
    let n := s.nodeWord a
    let prioOk := match s.loadChain 16 n.region with
      | .ok (r :: _) => r.eff.prio == p
      | _ => true
    if n.state == 0 && n.pending == 0 && prioOk then State.releaseAll ((s.addEdge a clk).tryReady a)
    else s.reportHome n.region { code := .graphInvalid, node := a, source := 2 }

/-- DOORBELL_SERVE (R376). -/
def execDoorbellServe (s : State) : Host.Outcome State Fault Refusal :=
  match s.port.bell with
  | none => .refused (.notEnabled "DOORBELL_SERVE: no doorbell waits")
  | some (p, a, clk) =>
    .next ({ s with port := { s.port with dbells := s.port.dbells.modify p List.tail } }.ring p a clk)

end Sys2Proof.Machine
end

