-- ==== Sys2Proof/Machine/Special.lean ====
section
/-! DEFINITION. Special registers and the generator's seed (R33, R141 to R144). -/

namespace Sys2Proof.Machine

/-- The code of a tag (R143, Table 11). -/
def Tag.num : Tag → Nat
  | .U => 0 | .A => 1 | .G => 2

/-- The tag of the register a TAGS read names (R143). -/
def Crew.tagOf (c : Crew) (b : BitVec 7) : Tag :=
  match vecKind b with
  | .v | .o => (c.vreg b.toNat).tag
  | .l => (c.latch (b.toNat - 112)).tag
  | .lane => .A
  | _ => .U

/-- CREWID (R16, Table 2). -/
def crewid (w : Wg) (c : Crew) : Word := BitVec.ofNat 32 ((w.ncrew - 1) * 32 + c.idx)

/-- The value of a special register (R142, Table 10): DIR reads 0. -/
def Ctx.special (x : Ctx) (n : Nat) (b : BitVec 7) : DWord :=
  let w (v : Word) : DWord := v.setWidth 64
  match n with
  | 0 => x.c.ic
  | 1 => w x.c.cf
  | 3 => w x.c.fmode
  | 4 => w x.c.mask
  | 5 => x.c.wakep
  | 6 => BitVec.ofNat 64 (x.c.tagOf b).num
  | 7 => (x.s.core x.coreNo).cyc
  | 8 => w (crewid x.w x.c)
  | 9 => w x.w.index
  | 10 => BitVec.ofNat 64 (x.w.region / 512)
  | 11 => if x.s.alarm then 1 else 0
  | _ => 0

/-- A value of one or two words written to every active thread of field a, with its record (R142, R302). -/
def readFinish (v : View) (a : BitVec 7) (wide : Bool) (r : DWord) (x : Ctx) : Res :=
  if idle v x then .done x else
  let x := x.record a (if wide then 2 else 1)
  let x := if wide then x.deliver (a + 1) (perThread fun _ => hiWord r) false else x
  .done (x.deliver a (perThread fun _ => loWord r) false)

/-- MFS on its operands. -/
def sMfs (i : Instr) (f : SFields) (x : Ctx) : Res :=
  readFinish (view i) f.a (specialWide f.imm) (x.special f.imm.toNat f.b) x

/-- MFS (R142). -/
def execMfs (f : SFields) (s : State) : Host.Outcome State Fault Refusal := runWord (.mfs f) (sMfs (.mfs f) f) s

/-- The bits of FMODE that hold something (R97). -/
def fmodeBits : Word := 0x3F3F

/-- MTS on its operands (R144). -/
def sMts (i : Instr) (f : SFields) (x : Ctx) : Res :=
  if idle (view i) x then .done x else
  let val := x.leader f.a
  let rnd := (val.extractLsb' 0 3).toNat
  if x.act != 0 && (rnd == 0 || rnd == 7) then .fault { code := .illegalOperand, field := .a } else
  let c := x.c.push x.act (.fmode x.c.fmode)
  let c := if x.act == 0 then c else { c with fmode := val &&& fmodeBits }
  .done ({ x with c := c }.consume (view i))

/-- MTS (R144). -/
def execMts (f : SFields) (s : State) : Host.Outcome State Fault Refusal := runWord (.mts f) (sMts (.mts f) f) s

/-- SEED on its operands (R141). -/
def sSeed (i : Instr) (f : SFields) (x : Ctx) : Res :=
  if idle (view i) x then .done x else
  let val := x.leader f.a
  let c := x.c.push x.act (.lfsr x.c.lfsr)
  let c := if x.act == 0 then c else { c with lfsr := if val == 0 then 1 else val }
  .done ({ x with c := c }.consume (view i))

/-- SEED (R141). -/
def execSeed (f : SFields) (s : State) : Host.Outcome State Fault Refusal := runWord (.seed f) (sSeed (.seed f) f) s

end Sys2Proof.Machine
end

