-- ==== Sys2Proof/Machine/Image.lean ====
section
/-! DEFINITION. What the device writes of a crew: wake records, the wake anchor, the save image (R316 to R318, R339, R340). -/

namespace Sys2Proof.Machine

/-- Bytes padded with zeros to a multiple of n. -/
def padTo (n : Nat) (l : List Byte) : List Byte := l ++ List.replicate ((n - l.length % n) % n) 0

/-- A register by its tag (R37, R318). -/
def VReg.bytes (r : VReg) : List Byte :=
  let w (x : Word) := leBytes x.toNat 4
  match r.tag with
  | .U => w (lane r.vals 0)
  | .A => w (lane r.vals 0) ++ w (lane r.vals 1 - lane r.vals 0)
  | .G => r.vals.flatMap w

/-- KIND (R339, Table 7). -/
def WakeBody.kind : WakeBody → Nat
  | .reg .. => 0 | .sreg .. => 1 | .pred .. => 2 | .spred .. => 3 | .cf _ => 4 | .mask _ => 5 | .store .. => 6
  | .lfsr _ => 7 | .fmode _ => 8

/-- The payload (R339, Table 7). -/
def WakeBody.payload : WakeBody → List Byte
  | .reg _ rs => rs.flatMap VReg.bytes
  | .sreg _ ws => ws.flatMap fun w => leBytes w.toNat 4
  | .pred _ b => leBytes b.toNat 4
  | .spred _ b => leBytes (if b then 1 else 0) 4
  | .cf w | .mask w | .lfsr w | .fmode w => leBytes w.toNat 4
  | .store scr _ old => old.flatMap fun e => leBytes e.1 (if scr then 4 else 8) ++ padTo 4 e.2

/-- REG, NREG and SHAPE of a header (R339, Table 6). -/
def WakeBody.head : WakeBody → Nat × Nat × Nat
  | .reg c rs => (c, rs.length - 1, (rs.zipIdx.map fun e => e.1.tag.num * 4 ^ e.2).sum)
  | .sreg c ws => (c, ws.length - 1, 0)
  | .pred n _ => (n, 0, 0)
  | .spred n _ => (n, 0, 0)
  | .store scr size _ => ((if scr then 64 else 0) + Nat.log2 size * 8, 0, 0)
  | _ => (0, 0, 0)

/-- A wake record in memory (R339, Table 6). -/
def WakeRec.bytes (r : WakeRec) : List Byte :=
  let p := padTo 16 r.body.payload
  let h := r.body.head
  leBytes (r.ic.toNat % 2 ^ 40 + r.body.kind * 2 ^ 68 + h.2.2 * 2 ^ 72 + h.2.1 * 2 ^ 80 + h.1 * 2 ^ 82 +
    p.length / 16 * 2 ^ 89 + r.mask.toNat * 2 ^ 96) 16 ++ p

/-- The retained records, oldest first. -/
def Crew.wakeBytes (c : Crew) : List Byte := c.wake.reverse.flatMap WakeRec.bytes

/-- The ring and its anchor brought up to date (R316, step 5; R340, Table 8). -/
def State.spill (s : State) (c : Crew) : State :=
  let bs := c.wakeBytes
  let base := c.shareBase.toNat
  let room := base + c.ring - c.tail.toNat
  let s := if bs.isEmpty then s else (s.physWrite c.tail.toNat (bs.take room))
  let s := if bs.length ≤ room then s else s.physWrite base (bs.drop room)
  s.physWrite (base + c.ring) (leBytes c.commit.toNat 8 ++ leBytes c.tail.toNat 8 ++ List.replicate 48 0)

/-! The save image (R317, R318) -/

/-- STATE (R305, Table 3). -/
def CrewSt.num : CrewSt → Nat
  | .ready => 1 | .score => 2 | .blocked => 3 | .stalled => 4 | .parked => 5 | .halted => 6 | .exited => 7

/-- REASON (R305, Table 3). -/
def Reason.num : Reason → Nat
  | .none => 0 | .halt => 1 | .fault => 2 | .trap => 3 | .breakpoint => 4 | .debug => 5

/-- A sum of values at bit places. -/
def placed (l : List (Nat × Nat)) : Nat := (l.map fun e => e.1 * 2 ^ e.2).sum

/-- A bit as a number. -/
def bit (b : Bool) : Nat := if b then 1 else 0

/-- The code points that await a copy status word (R318, PEND). -/
def Crew.pendBits (c : Crew) : Nat :=
  ((c.pend.filter (·.vals.isNone)).map (·.code)).eraseDups.foldl (fun n r => n + 2 ^ r) 0

/-- The tags of code points 0 to 103 (R318, TAGV). -/
def Crew.tagv (c : Crew) : Nat :=
  placed ((c.v.zipIdx.map fun e => (e.1.tag.num, 2 * e.2)) ++ c.o.zipIdx.map fun e => (e.1.tag.num, 2 * (96 + e.2)))

/-- The header of a crew record (R318, Table 7). -/
def Crew.header (c : Crew) : List Byte :=
  leBytes (placed ([(c.pc.toNat, 0), (c.ic.toNat, 64), (c.wakep.toNat, 128),
    ((c.walk.map (·.target.toNat)).getD 0, 192), (c.tvec.toNat, 256), (c.tpc.toNat, 320), (c.taddr.toNat, 384),
    (c.cf.toNat, 448), (c.fmode.toNat, 480), (c.mask.toNat, 512), (c.tcause.toNat, 544), (c.lfsr.toNat, 576)] ++
    (c.mstack.reverse.zipIdx.map fun e => (e.1.toNat, 608 + 32 * e.2)) ++
    (c.p.zipIdx.map fun e => (e.1.toNat, 1120 + 32 * e.2)) ++ (c.s.zipIdx.map fun e => (e.1.toNat, 1344 + 32 * e.2)) ++
    (c.m.zipIdx.map fun e => (e.1.val.toNat, 2368 + 32 * e.2)) ++ [(c.tagv, 2496), (c.pendBits, 2704)] ++
    (c.m.zipIdx.map fun e => (bit e.1.full, 2808 + e.2)) ++ (c.sp.zipIdx.map fun e => (bit e.1, 2812 + e.2)) ++
    [(c.mstack.length, 2816), (c.st.num, 2824), (c.reason.num, 2828), (bit c.intrap, 2832), (bit c.dir, 2833),
     (c.blocks, 2834), (c.idx, 2838), (bit c.norun, 2843), (bit c.parkpend, 2844), (c.tgt.toNat, 2845),
     (bit c.xfer, 2877)])) 512

/-- A crew record (R318). -/
def Crew.image (c : Crew) : List Byte := padTo 64 (c.header ++ (c.v ++ c.o).flatMap VReg.bytes)

/-- A queue's state (R271, Table 3). -/
def Queue.word (q : Queue) : Nat :=
  placed [(q.count, 11), (q.head, 24), (q.off, 37), (q.depth, 50), (bit q.valid, 63)]

/-- Bytes whose contents are not architectural (R317), from a place of an image on. -/
def opaqueBytes (image from_ n : Nat) : List Byte := (List.range n).map fun i => Config.opaqueByte image (from_ + i)

/-- Numbers one after the other, each in n bytes. -/
def fieldBytes (n : Nat) (l : List Nat) : List Byte := l.flatMap fun x => leBytes x n

/-- A signed 32-bit number as it stands in memory. -/
def intWord (x : Int) : Nat := (x % 2 ^ 32).toNat

/-- A command block in memory (R230, Table 5). -/
def Block.bytes (b : Block) : List Byte :=
  leBytes (placed ([(b.srcrec, 0), (b.dstrec, 64), (b.baroff, 448), (bit b.sat, 478), (bit b.count, 479), (b.seed.toNat, 480),
      (b.skip, 512), (b.gdim, 544), (b.aux, 576)] ++ (b.srcc.zipIdx.map fun e => (intWord e.1, 128 + 32 * e.2)) ++
    b.dstc.zipIdx.map fun e => (intWord e.1, 288 + 32 * e.2))) 96

/-- The record of a stopped CPYQ (R245, R317): its command block, next destination position and queue slot. -/
def CopyCmd.stopRecord (k : CopyCmd) : List Byte := k.block.bytes ++ fieldBytes 4 [k.landed, k.slot] ++ List.replicate 24 0

/-- The CPYQ commands of a workgroup that have not ended, by slot (R317). -/
def State.cpyqsOf (s : State) (uid : Nat) : List CopyCmd :=
  (List.range 8).filterMap fun i =>
    s.copies.find? fun k => k.wg == uid && k.kind == .cpyq && k.slot == 32 + i && k.done.isNone

/-- The armed perturbation of a tile (R167, R317). -/
def Tile.perturbBytes (t : Tile) : List Byte :=
  fieldBytes 4 (match t.perturb with
    | some (row, col, add) => [1, row + 32 * col, add.toNat]
    | none => [0, 0, 0]) ++ List.replicate 52 0

/-- The state of a stopped MTILE (R166, R317): descriptor address, step counter, tile, slot, format, Z, issuing crew. -/
def Wg.mtileBytes (w : Wg) : List Byte :=
  match w.mtiles with
  | [] => List.replicate 64 0
  | m :: _ => fieldBytes 8 [m.desc, m.step, m.tile, m.slot, m.act, bit m.z, m.idx] ++ List.replicate 8 0

/-- The offsets of the sections of an image after its header (R317, Table 6): queues, scratchpad, race tags, matrix, crews. -/
def Wg.sections (w : Wg) : List Nat :=
  let n := w.scrgran * 4096
  [256, 1344, 1344 + n, 1344 + 2 * n, 1344 + 2 * n + 8256 * w.acc + 12352 * w.wsl + 64]

/-- The size of a save image (R317). -/
def Wg.imageSize (w : Wg) (crews : List Crew) : Nat :=
  256 + 1088 + 8192 * w.scrgran + 8256 * w.acc + 12352 * w.wsl + 64 + (crews.map fun c => (Crew.image c).length).sum

/-- The header of an image (R317, Table 6). -/
def Wg.imageHeader (w : Wg) (crews : List Crew) : List Byte :=
  padTo 256 (fieldBytes 8 ([w.node, w.index.toNat, w.ncrew, w.scrgran, w.acc, w.wsl] ++ w.sections ++ [w.imageSize crews]))

/-- The bytes of a workgroup's save image (R317, Table 6). DESIGN CHOICE (log 15): the places of the fields within the header,
a CPYQ's record, and the perturbation and MTILE blocks are this model's; the spec gives their contents alone. The opaque
sections are free values (log 5). -/
def Wg.image (w : Wg) (crews : List Crew) (cpyqs : List CopyCmd) (number : Nat) : List Byte :=
  let n := w.scrgran * 4096
  let o2 := 1344 + n
  let o3 := o2 + n + 8256 * w.acc
  w.imageHeader crews ++ (w.queues.flatMap fun q => leBytes q.word 8) ++
    (cpyqs.flatMap CopyCmd.stopRecord ++ List.replicate (1024 - 128 * cpyqs.length) 0) ++
    memRead w.scr 0 n ++ opaqueBytes number o2 n ++
    (w.tiles.flatMap fun t => t.elems.flatMap (fun x => leBytes x.toNat 4) ++ t.perturbBytes) ++
    opaqueBytes number o3 (12352 * w.wsl) ++ w.mtileBytes ++ crews.flatMap Crew.image

/-! Reading an image back (R319) -/

/-- The state of a number (R305, Table 3): one that the table does not have is taken as READY. -/
def crewStOf (n : Nat) : CrewSt := [.ready, .ready, .score, .blocked, .stalled, .parked, .halted, .exited].getD n .ready

/-- The reason of a number (R305, Table 3). -/
def reasonOf (n : Nat) : Reason := [.none, .halt, .fault, .trap, .breakpoint, .debug].getD n .none

/-- The tag of a code (R318). -/
def tagFrom (n : Nat) : Tag := [.U, .A].getD n .G

/-- A register of a tag from a payload, and the rest of the payload (R37, R318). -/
def VReg.ofBytes (t : Tag) (bs : List Byte) : VReg × List Byte :=
  let w (i : Nat) : Word := BitVec.ofNat 32 (leNat ((bs.drop (4 * i)).take 4))
  (⟨perThread fun u => match t with
      | .U => w 0
      | .A => w 0 + w 1 * BitVec.ofNat 32 u
      | .G => w u, t⟩, bs.drop (tagBytes t))

/-- Registers of some tags from a payload, and the rest of it. -/
def vregsOf : List Tag → List Byte → List VReg × List Byte
  | [], bs => ([], bs)
  | t :: ts, bs =>
    let r := VReg.ofBytes t bs
    let q := vregsOf ts r.2
    (r.1 :: q.1, q.2)

/-- A crew whose record shows other contents than it was saved with (R318, R319): the fields of the header; a state that
waits is asked for again. DESIGN CHOICE (log 15): LFSR and FMODE are taken as they stand, also a generator of 0 and reserved
bits or codes of FMODE, of which RND 0 and 7 round as RNE (R97, R103). -/
def Crew.ofHeader (c : Crew) (h : Nat) : Crew :=
  let b (hi lo : Nat) : Nat := bitsOf h hi lo
  let w (hi lo : Nat) : Word := BitVec.ofNat 32 (b hi lo)
  let d (lo : Nat) : DWord := BitVec.ofNat 64 (b (lo + 63) lo)
  let st := crewStOf (b 2827 2824)
  { c with
    pc := d 0, ic := d 64, wakep := d 128, tvec := d 256, tpc := d 320, taddr := d 384, cf := w 479 448, fmode := w 511 480
    mask := w 543 512, tcause := w 575 544, lfsr := w 607 576
    mstack := ((List.range (min 16 (b 2820 2816))).map fun i => w (32 * i + 639) (32 * i + 608)).reverse
    p := (List.range 7).map fun i => w (32 * i + 1151) (32 * i + 1120)
    s := (List.range 32).map fun i => w (32 * i + 1375) (32 * i + 1344)
    m := (List.range 4).map fun i => ⟨w (32 * i + 2399) (32 * i + 2368), h.testBit (2808 + i)⟩
    sp := (List.range 4).map fun i => h.testBit (2812 + i)
    pend := c.pend.filter fun p => h.testBit (2704 + p.code)
    walk := if h.testBit 2833 then
        some { c.walk.getD ⟨0, .rewind, 0, d 64, [], [], []⟩ with target := d 192 }
      else none
    st := if st == c.st then c.st else match st with
      | .halted => .halted | .exited => .exited | .parked => .parked | _ => .ready
    wait := if st == c.st then c.wait else .none
    reason := reasonOf (b 2831 2828), intrap := h.testBit 2832, norun := h.testBit 2843, parkpend := h.testBit 2844
    tgt := w 2876 2845, xfer := h.testBit 2877 }

/-- A crew from its record in an image, and the bytes after the record (R318, R319). -/
def Crew.ofImage (c : Crew) (bs : List Byte) : Crew × List Byte :=
  let h := leNat (bs.take 512)
  let tag (i : Nat) : Tag := tagFrom (bitsOf h (2 * i + 2497) (2 * i + 2496))
  let v := vregsOf ((List.range (8 * min 12 (bitsOf h 2837 2834))).map tag) (bs.drop 512)
  let o := vregsOf ((List.range 8).map fun i => tag (96 + i)) v.2
  let used := bs.length - o.2.length
  ({ c.ofHeader h with v := v.1, o := o.1 }, bs.drop ((used + 63) / 64 * 64))

/-- A queue from its word in an image (R271, R317). -/
def Queue.ofWord (q : Queue) (x : Nat) : Queue :=
  let n := bitsOf x 23 11
  ⟨x.testBit 63, bitsOf x 62 50, bitsOf x 49 37, bitsOf x 36 24, n, (q.clocks ++ List.replicate n []).take n⟩

/-- Crews from the records of an image, one after the other. -/
def crewsFrom : List Crew → List Byte → List Crew
  | [], _ => []
  | c :: l, bs => let r := c.ofImage bs; r.1 :: crewsFrom l r.2

/-- A tile from the bytes of an image: its elements and its armed perturbation (R167, R317). -/
def Tile.ofImage (t : Tile) (m : List Host.Cell) (a : Nat) : Tile :=
  let x (i : Nat) : Nat := memNat m (a + 8192 + 4 * i) 4
  { t with
    elems := (List.range 2048).map fun e => BitVec.ofNat 32 (memNat m (a + 4 * e) 4)
    perturb := if x 0 == 0 then none else some (x 1 % 32, x 1 / 32 % 64, BitVec.ofNat 32 (x 2)) }

/-- A stopped MTILE from the bytes of an image (R166, R317). -/
def MTile.ofImage (k : MTile) (m : List Host.Cell) (a : Nat) : MTile :=
  let x (i : Nat) : Nat := memNat m (a + 8 * i) 8
  { k with desc := x 0, step := x 1, tile := x 2 % 8, slot := x 3 % 4, act := x 4, z := x 5 != 0, idx := x 6 % 32 }

/-- A stopped CPYQ from its record in an image (R245, R317). -/
def CopyCmd.ofImage (k : CopyCmd) (m : List Host.Cell) (a : Nat) : CopyCmd :=
  { k with block := blockOf (memNat m a 96), landed := memNat m (a + 96) 4, slot := 32 + memNat m (a + 100) 4 % 8 }

/-- A saved workgroup and its crews as the image holds them (R319). Where memory holds the image as it was written, they are
as they were saved; where another party has changed it, each section is taken from it, where its header says the section
lies, but for the opaque sections and for the counts and sizes of the header, by which the workgroup is placed (log 15). -/
def State.readImage (s : State) (w : Wg) : State :=
  let crews := s.crewsOf w.uid
  let cpyqs := s.cpyqsOf w.uid
  let img := w.image crews cpyqs w.saveSeq
  if memRead s.mem w.saveAddr img.length == img then s else
  let head (i : Nat) : Nat := memNat s.mem (w.saveAddr + 8 * i) 8
  let sec (i : Nat) : Nat := w.saveAddr + head (6 + i)
  let v : Wg := { w with
    node := head 0
    index := BitVec.ofNat 32 (head 1)
    queues := w.queues.zipIdx.map fun q => q.1.ofWord (memNat s.mem (sec 0 + 8 * q.2) 8)
    scr := runCells 0 (memRead s.mem (sec 1) (w.scrgran * 4096))
    tiles := w.tiles.zipIdx.map fun t => t.1.ofImage s.mem (sec 3 + 8256 * t.2)
    mtiles := w.mtiles.zipIdx.map fun k =>
      if k.2 == 0 then k.1.ofImage s.mem (sec 3 + 8256 * w.acc + 12352 * w.wsl) else k.1 }
  let s' := (cpyqs.zipIdx.map fun k => k.1.ofImage s.mem (sec 0 + 64 + 128 * k.2)).foldl State.setCopy (s.setWg v)
  (crewsFrom crews (memRead s.mem (sec 4) (14336 * crews.length))).foldl State.setCrew s'

/-- Where saved images lie: address and size. -/
def State.images (s : State) : List (Nat × Nat) :=
  (s.wgs.filter (·.core.isNone)).map fun w => (w.saveAddr, w.imageSize (s.crewsOf w.uid))

/-- Whether an image may lie at an address of a save area (R267, R317). -/
def State.imageFits (s : State) (e : Eff) (addr size : Nat) : Bool :=
  addr % 64 == 0 && e.saveBase ≤ addr && addr + size ≤ e.saveBase + e.saveSize * 1024 &&
    !s.images.any fun i => overlap i.1 i.2 addr size

/-- The lowest place of a save area for an image, as the device chooses. -/
def State.imagePlace (s : State) (e : Eff) (size : Nat) : Option Nat :=
  ((e.saveBase :: s.images.map fun i => (i.1 + i.2 + 63) / 64 * 64).filter (s.imageFits e · size)).min?

end Sys2Proof.Machine
end

