-- ==== Sys2Proof/Machine/Place.lean ====
section
/-! DEFINITION. Placement, the end of workgroups, kills, sampled redundant execution (R251, R258 to R262, R298, R308, R340,
R354, R357). -/

namespace Sys2Proof.Machine

/-! Resources (R251, R259) -/

/-- What a workgroup asks of a core: crew slots, register blocks, granules, tiles, weight slots. -/
structure Ask where
  crews : Nat
  blocks : Nat
  gran : Nat
  acc : Nat
  wsl : Nat
  deriving DecidableEq, Repr

/-- What a new workgroup of a launch asks. -/
def Desc.ask (d : Desc) : Ask := ⟨d.crews, d.blocks, d.scrgran, d.acc, d.wsl⟩

/-- What a saved workgroup asks. -/
def State.askOf (s : State) (w : Wg) : Ask := ⟨w.ncrew, s.blocksOf w.uid, w.scrgran, w.acc, w.wsl⟩

/-- The slots of a core that are free: scheduler and slot. -/
def State.freeSlots (s : State) (core : Nat) : List (Nat × Nat) :=
  let crews := (s.onCore core).flatMap fun w => s.crewsOf w.uid
  ((List.range 16).flatMap fun k => (List.range 4).map fun q => (q, k)).filter fun p =>
    !crews.any fun c => c.sched == p.1 && c.slot == p.2

/-- What a core has free. -/
def State.freeOn (s : State) (core : Nat) : Ask :=
  let l := s.onCore core
  ⟨(s.freeSlots core).length, s.poolFree core, 192 - (l.map (·.scrgran)).sum, 8 - (l.map (·.acc)).sum,
    4 - (l.map (·.wsl)).sum⟩

/-- Whether one demand lies within another. -/
def Ask.le (a b : Ask) : Bool :=
  a.crews ≤ b.crews && a.blocks ≤ b.blocks && a.gran ≤ b.gran && a.acc ≤ b.acc && a.wsl ≤ b.wsl

/-- Whether a TAKE waits on a core: the Cox then places nothing there (R280). -/
def State.takeWaits (s : State) (core : Nat) : Bool :=
  s.crews.any fun c => (match c.wait with | .take _ => true | _ => false) && (s.wg? c.wg).any (·.core == some core)

/-- Whether a core has the resources free (R259). -/
def State.coreRoom (s : State) (core : Nat) (a : Ask) : Bool :=
  s.powered && core < s.cores.length && !(s.core core).removed && !(s.core core).leaving && !s.takeWaits core && a.le (s.freeOn core)

/-- How often one demand fits into what is free. -/
def Ask.times (a f : Ask) : Nat :=
  min (fits f.crews a.crews) (min (fits f.blocks a.blocks) (min (fits f.gran a.gran) (min (fits f.acc a.acc)
    (fits f.wsl a.wsl))))

/-- How many workgroups a core has the resources free for (R259). -/
def State.coreCap (s : State) (core : Nat) (a : Ask) : Nat := if s.coreRoom core a then a.times (s.freeOn core) else 0

/-- Granules held in the subtree of a region (R251). -/
def State.heldGran (s : State) (top : Nat) : Nat := ((s.residents top).map (·.scrgran)).sum

/-- Cores held in the subtree of a region (R251). -/
def State.heldCores (s : State) (top : Nat) : List Nat := ((s.residents top).filterMap (·.core)).eraseDups

/-- Whether a placement on a core keeps R251 for a region and its ancestors. -/
def State.budgetFits (s : State) (chain : List (Nat × Eff)) (core : Nat) (a : Ask) : Bool :=
  chain.all fun e => s.heldBlocks e.1 + a.blocks ≤ e.2.regblk && s.heldGran e.1 + a.gran ≤ e.2.scrgran &&
    ((s.heldCores e.1).contains core || (s.heldCores e.1).length + 1 ≤ e.2.cores)

/-- Whether a core takes a workgroup of a launch now. -/
def State.takes (s : State) (n : NodeRun) (core : Nat) (a : Ask) : Bool :=
  s.coreRoom core a && s.budgetFits n.chain core a

/-- The address of a share of a wake area (R340). -/
def Eff.shareAt (e : Eff) (k : Nat) : Nat := e.wakeBase + k * e.share

/-- Whether a share is one of the area's and no crew holds it (R340). -/
def State.shareFree (s : State) (e : Eff) (k : Nat) : Bool :=
  k < e.shares && !s.crews.any fun c => overlap (e.shareAt k) e.share c.shareBase.toNat c.shareSize

/-- Whether spots name free and distinct slots of a core, one for each crew. -/
def State.spotsFit (s : State) (core n : Nat) (spots : List Spot) : Bool :=
  let l := spots.map fun p => (p.sched, p.slot)
  spots.length == n && l.eraseDups.length == n && l.all (s.freeSlots core).contains

/-- Whether spots name free and distinct shares too. -/
def State.sharesFit (s : State) (e : Eff) (spots : List Spot) : Bool :=
  (spots.map (·.share)).eraseDups.length == spots.length && spots.all fun p => s.shareFree e p.share

/-- The lowest free slots and shares of a core, as the device chooses. -/
def State.pickSpots (s : State) (e : Eff) (core n : Nat) : List Spot :=
  let shares := ((List.range (s.crews.length + n)).filter (s.shareFree e)).take n
  (((s.freeSlots core).take n).zip shares).map fun p => ⟨p.1.1, p.1.2, p.2⟩

/-- Whether a launch still has a workgroup to place. -/
def NodeRun.unplaced (n : NodeRun) : Bool := n.kind == 1 && !n.closed && n.next < n.total

/-! A new workgroup (R23, R41, R141, R260) -/

/-- The LFSR of a crew at workgroup start (R141). -/
def lfsrAt (sw : Word) (index crew : Nat) : Word :=
  let m := mix sw (BitVec.ofNat 32 (32 * index + crew))
  if m == 0 then 1 else m

/-- A crew at workgroup start (R41). DESIGN CHOICE (log 4): an empty mailbox holds 0, which a save image shows. -/
def newCrew (n : NodeRun) (uid index i : Nat) (p : Spot) : Crew :=
  let base := BitVec.ofNat 64 (n.eff.shareAt p.share)
  { wg := uid, idx := i, sched := p.sched, slot := p.slot, st := .ready, wait := .none, since := 0, granted := none
    chain := false, packet := none, waitcnt := 0, reason := .none, parkpend := false, norun := false
    pc := BitVec.ofNat 64 (n.desc.code + n.desc.entry), ic := 0, pfx := none, walk := none, replays := [], cf := fall
    xfer := false, fmode := BitVec.ofNat 32 n.desc.fmode, mask := allThreads, mstack := [], exited := 0
    v := List.replicate (8 * n.desc.regblk) VReg.zero, o := List.replicate 8 VReg.zero
    l := List.replicate 4 ⟨zeros32, .U, false⟩, m := List.replicate 4 ⟨0, false⟩, s := List.replicate 32 0
    p := List.replicate 7 0, sp := List.replicate 4 false, lfsr := lfsrAt n.desc.sw index i, tvec := 0, tpc := 0
    tcause := 0, taddr := 0, tgt := 0, intrap := false, commit := 0, commitAt := 0, wake := [], wakep := base
    tail := base, shareBase := base, shareSize := n.eff.share, pend := [], runon := none, steps := none
    bkptOnce := false, expired := none, badRegs := [], stat := [], clock := clkJoin [(uid * 64 + i, 1)] n.clock
    relScope := 0, pendAcq := [], fenceClk := [], recWait := false, crc := [], halting := .none }

/-- A workgroup at its start (R41, R260). -/
def newWg (n : NodeRun) (uid index core : Nat) (shadow : Option Nat) (sampled : Bool) : Wg :=
  { uid := uid, launch := n.id, node := n.addr, index := BitVec.ofNat 32 index, region := n.region, core := some core
    seq := uid, ncrew := n.desc.crews, scrgran := n.desc.scrgran, acc := n.desc.acc, wsl := n.desc.wsl
    codeBase := BitVec.ofNat 64 n.desc.code, scr := [], stags := [], bars := [], scrFailing := []
    queues := n.desc.qmap.map queueOf, tiles := List.replicate n.desc.acc ⟨List.replicate 2048 0, none, []⟩
    slots := List.replicate n.desc.wsl ⟨false, 0, false, 0, [], none, []⟩, mtags := [], mops := [], mtiles := [], hang := 0
    withdrawn := [], held := [], saving := false, saveAddr := 0, saveSeq := 0, shadowOf := shadow, sampled := sampled, sig := none }

/-- A workgroup added. -/
def State.addWg (s : State) (n : NodeRun) (index core : Nat) (spots : List Spot) (shadow : Option Nat) (sampled : Bool) :
    State :=
  let uid := s.nextId
  { s with
    nextId := uid + 1
    wgs := s.wgs ++ [newWg n uid index core shadow sampled]
    crews := s.crews ++ spots.zipIdx.map fun p => newCrew n uid index p.2 p.1 }

/-! Placement (R259, R357) -/

/-- Whether a workgroup is to be sampled (R357). -/
def NodeRun.samples? (n : NodeRun) (index : Nat) : Bool := n.eff.redun != 0 && index % 2 ^ n.eff.redun == 0

/-- Cores that could take the shadow of a workgroup on another core (R357). -/
def State.shadowCores (s : State) (primary : Nat) (a : Ask) : List Nat :=
  (List.range s.cores.length).filter fun k => k != primary && s.coreRoom k a

/-- The next workgroup of a launch placed, with its shadow; the launch is RUNNING from its first (R73, R255). -/
def State.placeNext (s : State) (id core : Nat) (spots : List Spot) (shadow : Option (Nat × List Spot)) : State :=
  match s.node? id with
  | none => s
  | some n =>
    let s := if n.running then s else s.setNodeState n.addr 2
    let s := s.setNode { n with next := n.next + 1, running := true, code := if n.running then n.code else s.codeNow }
    let uid := s.nextId
    let s := (s.addWg n n.next core spots none shadow.isSome).protect n.region
    match shadow with
    | none => s
    | some (k, sp) => s.addWg n n.next k sp (some uid) true

/-- The shadow the device chooses for a workgroup of an index, if it is sampled and some core takes it; the primary's spots
are kept. -/
def State.pickShadow (s : State) (n : NodeRun) (index core : Nat) (spots : List Spot) : Option (Nat × List Spot) :=
  if !n.samples? index then none else
  match s.shadowCores core n.desc.ask with
  | [] => none
  | k :: _ =>
    let used := spots.map (·.share)
    let shares := ((List.range (s.crews.length + 2 * n.desc.crews)).filter fun i => s.shareFree n.eff i && !used.contains i)
    let sp := (((s.freeSlots k).take n.desc.crews).zip shares).map fun p => (⟨p.1.1, p.1.2, p.2⟩ : Spot)
    if sp.length == n.desc.crews then some (k, sp) else none

/-- A number put before the first that it may precede. -/
def insertBy (le : Nat → Nat → Bool) (a : Nat) : List Nat → List Nat
  | [] => [a]
  | b :: l => if le a b then a :: b :: l else b :: insertBy le a l

/-- Cores for every workgroup of an ALLIN set (R251, R259): the cores given, then each that the budgets of CORES still admit,
the one with room for the most first. The sets of cores that these budgets admit form a matroid, since what a region holds its
ancestors hold too, so that no other choice has more room. -/
def State.coreSet (s : State) (n : NodeRun) (first : List Nat) : List Nat :=
  let cap (k : Nat) : Nat := s.coreCap k n.desc.ask
  let held := n.chain.map fun e => (s.heldCores e.1, e.2.cores)
  let fit (l : List Nat) : Bool := held.all fun h => (l.filter fun k => !h.1.contains k).length + h.1.length ≤ h.2
  let l := ((List.range s.cores.length).filter fun k => 0 < cap k && !first.contains k).foldr
    (insertBy fun i j => cap j ≤ cap i) []
  l.foldl (fun l k => if fit (l ++ [k]) then l ++ [k] else l) (if fit first then first else [])

/-- How many workgroups of a launch have to be placed at once (R259). -/
def NodeRun.need (n : NodeRun) : Nat := if n.desc.allin then n.total - n.next else 1

/-- Whether the budgets of blocks and granules admit some workgroups of a launch at once (R251). -/
def State.poolsFit (s : State) (n : NodeRun) (k : Nat) : Bool :=
  n.chain.all fun e => s.heldBlocks e.1 + k * n.desc.ask.blocks ≤ e.2.regblk &&
    s.heldGran e.1 + k * n.desc.ask.gran ≤ e.2.scrgran

/-- The core of each workgroup that a launch has to place at once, from the cores given on; none where they do not all fit
(R251, R259). -/
def State.spread (s : State) (n : NodeRun) (first : List Nat) : Option (List Nat) :=
  if !s.poolsFit n n.need then none else
  let l := (s.coreSet n first).flatMap fun k => List.replicate (min n.need (s.coreCap k n.desc.ask)) k
  if l.length < n.need then none else some (l.take n.need)

/-- Workgroups of a launch placed one after the other on some cores (R259): shadows come after. -/
def State.placeOn (s : State) (id : Nat) : List Nat → Option State
  | [] => some s
  | core :: rest =>
    match s.node? id with
    | none => some s
    | some n =>
      let spots := s.pickSpots n.eff core n.desc.crews
      if spots.length != n.desc.crews then none else (s.placeNext id core spots none).placeOn id rest

/-! The order of placement (R258, R259, R267) -/

/-- Whether the cores have the resources free for the next workgroup of a launch, with ALLIN for every one, budgets apart. -/
def State.someRoom (s : State) (n : NodeRun) : Bool :=
  n.need ≤ ((List.range s.cores.length).map (s.coreCap · n.desc.ask)).sum

/-- Whether a wake area has a number of shares free (R340). -/
def State.sharesLeft (s : State) (e : Eff) (k : Nat) : Bool := k ≤ ((List.range (s.crews.length + k)).filter (s.shareFree e)).length

/-- Whether the next workgroup of a launch, or its whole ALLIN set, can be placed (R251, R259, R340). -/
def State.placeable (s : State) (n : NodeRun) : Bool :=
  (if n.desc.allin then (s.spread n []).isSome else (List.range s.cores.length).any (s.takes n · n.desc.ask)) &&
    s.sharesLeft n.eff (n.need * n.desc.crews)

/-- Whether only a budget keeps the next workgroup of a launch, or its whole ALLIN set, out (R258, R259). -/
def State.budgetKept (s : State) (n : NodeRun) : Bool := s.someRoom n && !s.placeable n

/-- Whether a launch, or a saved workgroup's launch, comes before another in start order (R258). -/
def NodeRun.before (m n : NodeRun) : Bool := n.eff.prio < m.eff.prio || (m.eff.prio == n.eff.prio && m.seq < n.seq)

/-- Whether a saved workgroup is restored before a launch's unplaced workgroups (R267). -/
def State.savedBefore (s : State) (n : NodeRun) : Bool :=
  s.wgs.any fun w => w.core.isNone && (w.launch == n.id ||
    (s.node? w.launch).any fun m => m.eff.prio == n.eff.prio && m.seq < n.seq)

/-- Whether the workgroups of a launch must wait for others (R258, R267). -/
def State.heldByOrder (s : State) (n : NodeRun) : Bool :=
  s.savedBefore n || s.nodes.any fun m => m.id != n.id && m.unplaced && m.before n && !s.budgetKept m

/-- A shadow for a workgroup placed without one, where a core takes it (R357). -/
def State.shadowOf (s : State) (n : NodeRun) (w : Wg) : State :=
  match w.core.bind fun k => s.pickShadow n w.index.toNat k [] with
  | none => s
  | some (k, sp) => (s.setWg { w with sampled := true }).addWg n w.index.toNat k sp (some w.uid) true

/-- The shadows of an ALLIN launch, once every workgroup of it has been placed (R259, R357). -/
def State.placeShadows (s : State) (id : Nat) : State :=
  match s.node? id with
  | none => s
  | some n => (s.wgs.filter (·.launch == id)).foldl (fun s w => s.shadowOf n w) s

/-- The next workgroup placed where all else allows it: with ALLIN, every one at once, then what shadows fit (R259, R357). -/
def State.placeWith (s : State) (n : NodeRun) (core : Nat) (spots : List Spot) (shadow : Option (Nat × List Spot)) :
    Option State :=
  if !n.desc.allin then some (s.placeNext n.id core spots shadow) else
  match s.spread n [core] with
  | none => none
  | some l => ((s.placeNext n.id core spots none).placeOn n.id l.tail).map (·.placeShadows n.id)

/-- Whether a shadow may be placed as given: where the workgroup is sampled and some core takes it, and nowhere else
(R357); the device chooses the shadows of an ALLIN launch once all of it is placed. -/
def State.shadowFits (s : State) (n : NodeRun) (core : Nat) (spots : List Spot) (sh : Option (Nat × List Spot)) : Bool :=
  match sh with
  | none => n.desc.allin || !n.samples? n.next || (s.shadowCores core n.desc.ask).isEmpty
  | some (k, sp) => !n.desc.allin && n.samples? n.next && (s.shadowCores core n.desc.ask).contains k && s.spotsFit k n.desc.crews sp &&
      s.sharesFit n.eff (spots ++ sp)

/-- The launch that a placement step names. -/
def State.launchAt (s : State) (a : Nat) : Option NodeRun := s.nodes.find? fun n => n.addr == a && n.kind == 1 && !n.closed

/-- WORKGROUP_PLACE (R259): the next workgroup of a launch, on a core that has what it asks. -/
def execWorkgroupPlace (node core : Nat) (spots : List Spot) (shadow : Option (Nat × List Spot)) (s : State) :
    Host.Outcome State Fault Refusal :=
  match s.launchAt node with
  | none => .refused (.notEnabled "WORKGROUP_PLACE: no such launch")
  | some n =>
    if !n.unplaced || s.heldByOrder n || !s.takes n core n.desc.ask || !s.spotsFit core n.desc.crews spots ||
        !s.sharesFit n.eff spots || !s.shadowFits n core spots shadow then
      .refused (.notEnabled "WORKGROUP_PLACE: the workgroup cannot be placed so")
    else match s.placeWith n core spots shadow with
      | some s' => .next s'
      | none => .refused (.notEnabled "WORKGROUP_PLACE: not all workgroups of the launch fit")

/-- The next workgroup of a launch placed as the device chooses: the lowest core, slots and shares that fit. -/
def State.placeAuto (s : State) (n : NodeRun) : Option State :=
  if !n.unplaced || s.heldByOrder n then none else
  let cores := if n.desc.allin then (s.spread n []).getD [] else (List.range s.cores.length).filter (s.takes n · n.desc.ask)
  match cores with
  | [] => none
  | core :: _ =>
    let spots := s.pickSpots n.eff core n.desc.crews
    if spots.length != n.desc.crews then none else s.placeWith n core spots (s.pickShadow n n.next core spots)

/-- NODE_START (R258): a READY node starts: a join, copy or publish at once, a launch when its first workgroup is placed. -/
def execNodeStart (a : Nat) (s : State) : Host.Outcome State Fault Refusal :=
  match s.nodes.find? fun n => n.addr == a && !n.running && !n.closed with
  | none => .refused (.notEnabled "NODE_START: no such READY node")
  | some n =>
    match n.kind with
    | 0 => .next ((s.setNodeState n.addr 2).endNode n true)
    | 1 => match s.placeAuto n with
      | some s' => .next s'
      | none => .refused (.notEnabled "NODE_START: no workgroup of it can be placed")
    | 2 => .next (s.startBulk n)
    | _ => .next (s.startPublish n)

/-! The end of a workgroup (R245, R260 to R262, R357, R361) -/

/-- One byte into a CRC-32 (IEEE 802.3, reflected). -/
def crcByte (c : BitVec 32) (b : Byte) : BitVec 32 :=
  (List.range 8).foldl (fun c _ => if c.getLsbD 0 then (c >>> 1) ^^^ 0xEDB88320 else c >>> 1) (c ^^^ b.setWidth 32)

/-- CRC-32 of a run of bytes. -/
def crc32 (l : List Byte) : Word := ~~~(l.foldl crcByte 0xFFFFFFFF)

/-- The signature of a run (R357): each crew's stores, then its IC at EXIT. -/
def signature (crews : List Crew) : Word := crc32 (crews.flatMap fun c => c.crc ++ leBytes (c.ic.toNat - 1) 8)

/-- REDUNDANT_COMPARE (R357): the signatures of a primary and its shadow. -/
def State.compareRuns (s : State) (w : Wg) (primary shadow : Word) : State :=
  if primary == shadow then s else
  s.reportFor w [] { code := .redundantMismatch, detail := primary.toNat + shadow.toNat * 2 ^ 32, node := w.node,
                      wgid := w.index.toNat, region := w.region / 512, source := 3 }

/-- A run of a sampled workgroup ended (R357): compared with the other where that has ended, else kept for it. -/
def State.endRun (s : State) (w : Wg) (crews : List Crew) : State :=
  let sig := signature crews
  if !w.sampled then s else
  match w.sig with
  | some x => if w.isShadow then s.compareRuns w x sig else s.compareRuns w sig x
  | none =>
    { s with wgs := s.wgs.map fun (v : Wg) =>
        if v.shadowOf == some w.uid || w.shadowOf == some v.uid then { v with sig := some sig } else v }

/-- The last workgroup of a launch has left a core: the tag registers of the launch there are free (R361), and its waits are
no longer counted (R266). -/
def State.leaveCore (s : State) (core launch : Nat) : State :=
  if (s.onCore core).any fun w => w.launch == launch && !w.isShadow then s else
  let gone := (s.core core).htags.filter (·.launch == launch)
  let s := gone.foldl (fun s _ => s.bump launch 32) s
  s.modCore core fun k => { k with htags := k.htags.filter (·.launch != launch), waits := mapDel k.waits launch }

/-- A workgroup taken off the machine: its crews and commands gone, its resources free (R260, R308). -/
def State.removeWg (s : State) (w : Wg) : State :=
  let s := { s with
    wgs := s.wgs.filter (·.uid != w.uid)
    crews := s.crews.filter (·.wg != w.uid)
    snaps := s.snaps.filter (·.wg != w.uid)
    copies := s.copies.filter (·.wg != w.uid) }
  match w.core with
  | some k => s.leaveCore k w.launch
  | none => s

/-- What the Cox keeps of a launch that is over and none of whose workgroups is left goes, its deques with it (R262, R292,
R301). -/
def State.settleLaunch (s : State) (id : Nat) : State :=
  if s.wgs.any (·.launch == id) || (s.node? id).any (!·.closed) then s else
  { s with
    cores := s.cores.map fun (k : Core) => if k.deques.isEmpty then k else { k with deques := k.deques.filter (·.launch != id) }
    nodes := s.nodes.filter fun n => !(n.id == id && n.closed) }.settleProt

/-- Entries left in the deques of a launch (R262). -/
def State.leftover (s : State) (id : Nat) : Nat :=
  (s.cores.map fun k => ((k.deques.filter (·.launch == id)).map fun d => d.ents.length).sum).sum

/-- WORKGROUP_END (R260): every crew is EXITED; its index, and those it withdrew, count as completed. -/
def State.endWg (s : State) (w : Wg) : State :=
  let crews := s.crewsOf w.uid
  let s := (s.endRun w crews).removeWg w
  if w.isShadow then s.settleLaunch w.launch else
  match s.node? w.launch with
  | none => s
  | some n =>
    let n := { n with
      done := n.done + 1 + w.withdrawn.length
      ended := crews.foldl (fun k c => clkJoin k c.clock) n.ended }
    let s := (s.setNode n).setNodeField n.addr 36 n.done
    if n.closed then s.settleLaunch n.id
    else if n.done == n.total then
      let s := if n.eff.mode == 2 then s.setNodeField n.addr 40 (s.leftover n.id) else s
      ((s.endNode n true).settleLaunch n.id)
    else s

/-- CREW_EXITED (R333, R260): a crew whose threads have all exited enters EXITED once no register is pending; the
workgroup ends when all its crews are EXITED and no command uses its scratchpad (R245). -/
def execCrewExited (r : CrewRef) (s : State) : Host.Outcome State Fault Refusal :=
  match s.residentCrew r with
  | none => .refused (.notEnabled "CREW_EXITED: no such crew")
  | some (c, w) =>
    let waits := c.st == .score && c.wait == .exit
    if waits && !c.pend.isEmpty then .refused (.notEnabled "CREW_EXITED: a register is pending") else
    let s' := if waits then (s.setCrew (c.retireExit c.after)).issueBy (w.core.getD 0) c false else s
    let ends := (s'.crewsOf w.uid).all (·.st == .exited) && !s'.copies.any (·.wg == w.uid)
    if ends then .next (s'.endWg w)
    else if waits then .next s'
    else .refused (.notEnabled "CREW_EXITED: the workgroup has not ended")

/-! Kills (R298, R308, R354) -/

/-- A kill record (R354). -/
def killRecord (w : Wg) (wgid detail : Nat) : FRec :=
  { code := .workgroupKilled, detail := detail, node := w.node, wgid := wgid, region := w.region / 512, source := 2 }

/-- Kind 0 (R354): the exit mask and the step counter of an MTILE under way, the oldest where several crews have one. -/
def State.killKind0 (s : State) (cause : Nat) (w : Wg) : State :=
  let mask := ((s.crewsOf w.uid).filter (·.st == .exited)).foldl (fun m c => m + 2 ^ c.idx) 0
  let step := match w.mtiles with | m :: _ => m.step | [] => 0xFFFFFFFF
  s.reportFor w [] (killRecord w w.index.toNat (cause * 2 ^ 16 + mask * 2 ^ 32 + step * 2 ^ 64))

/-- Kind 1 (R261, R354): one per index withdrawn. -/
def State.killKind1 (s : State) (cause : Nat) (w : Wg) : State :=
  w.withdrawn.foldl (fun s i => s.reportFor w [] (killRecord w i (1 + cause * 2 ^ 16))) s

/-- DETAIL of kind 2 (R354). -/
def CopyCmd.killDetail (k : CopyCmd) (cause : Nat) : Nat :=
  2 + cause * 2 ^ 16 + (k.status 5).toNat * 2 ^ 32 + k.blockOff * 2 ^ 64 + k.slot * 2 ^ 96

/-- Kind 2 (R354): one per copy command ended with status code 5. -/
def State.killKind2 (s : State) (cause : Nat) (k : CopyCmd) : State :=
  let at_ (x : FRec) : State := match s.wg? k.wg, s.node? k.launch with
    | some w, _ => s.reportFor w [] x
    | none, some n => s.reportNode n [] x
    | none, none => s.report k.region x
  at_ { code := .workgroupKilled, detail := k.killDetail cause, node := k.node, wgid := k.wgid.toNat,
                      region := k.region / 512, source := 2 }

/-- Kind 3 (R354), then STATE FAILED: a launch node that fails. -/
def State.killKind3 (s : State) (cause : Nat) (n : NodeRun) : State :=
  let s := s.reportNode n [] { code := .workgroupKilled, detail := 3 + cause * 2 ^ 16 + n.next * 2 ^ 32, node := n.addr,
                               region := n.region / 512, source := 2 }
  ((s.setNodeField n.addr 32 Code.workgroupKilled.num).endNode n false).settleLaunch n.id

/-- Workgroups killed, and nodes with them, records in the order of R354; a shadow is abandoned. -/
def State.kill (s : State) (cause : Nat) (uids : List Nat) (nodes : List NodeRun) : State :=
  let s := uids.foldl State.abandon s
  let ws := s.wgs.filter fun w => uids.contains w.uid
  let ks := s.copies.filter fun k => (k.done.isNone && uids.contains k.wg) ||
    nodes.any fun n => match k.kind with | .bulk a => n.addr == a | _ => false
  let s := ws.foldl (·.killKind0 cause ·) s
  let s := ws.foldl (·.killKind1 cause ·) s
  let s := ks.foldl (·.killKind2 cause ·) s
  let s := ws.foldl (fun s w =>
    let s := (s.crewsOf w.uid).foldl (fun s c => s.endClock w.uid c.clock) s
    let s := (ks.filter (·.wg == w.uid)).foldl (fun s k => s.endClock w.uid k.clock) s
    s.removeWg w) s
  let launches := s.nodes.filter fun n => n.kind == 1 && !n.closed &&
    (nodes.any (·.id == n.id) || ws.any (·.launch == n.id))
  let s := launches.foldl (fun s n => match s.node? n.id with
    | some n => if n.closed then s else s.killKind3 cause n
    | none => s) s
  let s := (nodes.filter (·.kind != 1)).foldl (fun s n => match s.node? n.id with
    | none => s
    | some n => match s.bulkCmd n.addr with
      | some k => s.endBulk n k 5
      | none => s.endNode n false) s
  ws.foldl (fun s w => s.settleLaunch w.launch) s

/-- HALT 2 (R308): a workgroup killed, its launch node with it. -/
def State.killWg (s : State) (cause uid : Nat) : State :=
  match s.wg? uid with
  | none => s
  | some w => if w.isShadow then s.abandon uid else s.kill cause [uid] []

/-- The region that heads the fault domain a workgroup was placed in (R250, R298). -/
def State.domainFor (s : State) (w : Wg) : Nat := ((s.node? w.launch).map NodeRun.domain).getD (s.domainOf w.region)

/-- HALT 3 (R298, R308): a fault domain killed, named by the region that heads it. DESIGN CHOICE (log 33): it stays killed until a
reset, so that nodes written after the kill fail as well; R298 does not say for how long. -/
def State.killDomain (s : State) (head : Nat) : State :=
  let uids := (s.wgs.filter fun w => s.domainFor w == head && !w.isShadow).map (·.uid)
  let nodes := s.nodes.filter fun n => n.domain == head && !n.closed
  let s := { s with regions := s.regions.map fun (r : Region) => if r.rcb == head then { r with killed := true } else r }
  s.kill 0 uids nodes

end Sys2Proof.Machine
end

