-- ==== Sys2Proof/Machine/Save.lean ====
section
/-! DEFINITION. Pre-emption: saving a workgroup and restoring it (R245, R267, R268, R276, R315 to R319, R379). -/

namespace Sys2Proof.Machine

/-! Saving (R267, R316) -/

/-- A crew at which a save may find it (R268, R346): at a packet boundary, or stopped in a way that holds no word half
done. -/
def Crew.saveable (c : Crew) : Bool :=
  match c.st with
  | .ready | .score => c.walk.isSome || c.runon.isSome || (c.pc.toNat % 12 == 0 && c.pfx.isNone)
  | _ => true

/-- Whether a command keeps a workgroup from being saved (R245, R316): one that touches its scratchpad, is no CPYQ, and has
not ended. -/
def CopyCmd.holdsSave (k : CopyCmd) (uid : Nat) : Bool :=
  k.wg == uid && k.kind != .cpyq && k.done.isNone && (k.src.scratch || k.dst.scratch || k.block.count)

/-- Whether a workgroup can be saved now. -/
def State.saveReady (s : State) (w : Wg) : Bool :=
  w.core.isSome && (s.crewsOf w.uid).all Crew.saveable && !s.copies.any (·.holdsSave w.uid)

/-- A crew as it is saved (R268, R316): replies written, latches invalid, waits asked for again later. -/
def Crew.save (c : Crew) : Crew :=
  { c.landReplies.clearLatches with granted := none, pfx := none, chain := false, packet := none }

/-- A saved crew that waits in SCORE no more once its replies are written; one that awaits a copy's status word still does, so
that its record says SCORE (R263, R318). -/
def State.rescored (s : State) (c : Crew) : Crew :=
  match s.wg? c.wg with
  | some w =>
    if c.st == .score && c.wait == .pendingReg && c.walk.isNone &&
        (s.issueWait w { c with st := .ready, wait := .none }).isNone then c.unscored
    else c
  | none => c

/-- A full fence of package scope by a crew where its workgroup stands, as a save and a restore of it are (R179). -/
def State.fenced (s : State) (c : Crew) : Crew :=
  match s.wg? c.wg with
  | some w => c.fullFence (crewPlace w c)
  | none => c

/-- The crews of a workgroup stopped: run-ons rolled back, then each crew as it is saved, which is a fence (R268). -/
def State.stopCrews (s : State) (uid : Nat) : State :=
  (s.crewsOf uid).foldl (fun s c =>
    let r := if c.runon.isSome then s.rolledBack c else (s, c)
    r.1.setCrew (r.1.fenced (r.1.rescored r.2.save))) s

/-- A workgroup saved at an address (R316): the steps in their order, up to the freeing of its resources. -/
def State.saveAt (s : State) (uid addr : Nat) : State :=
  match (s.stopCrews uid).wg? uid with
  | none => s
  | some w =>
    let s := s.stopCrews uid
    let crews := s.crewsOf uid
    let s := crews.foldl State.spill s
    let w := w.settleMatrix (w.mops.length * 64 + 64)
    let s := s.physWrite addr (w.image crews (s.cpyqsOf uid) s.nextId)
    let s := s.dropLines (w.core.getD 0)
    let s := { s with copies := s.copies.map fun (k : CopyCmd) =>
      if k.wg == uid && k.kind == CopyKind.cpyq then { k with core := s.cores.length } else k }
    { s.setWg { w with core := none, saving := false, saveAddr := addr, saveSeq := s.nextId } with nextId := s.nextId + 1 }

/-- The size of a workgroup's image if it were saved now (R267): its crews as they would be saved. -/
def State.saveSize (s : State) (w : Wg) : Nat := w.imageSize ((s.stopCrews w.uid).crewsOf w.uid)

/-- Whether a workgroup may be saved at an address (R267, step 3). -/
def State.saveFits (s : State) (w : Wg) (addr : Nat) : Bool :=
  (s.effOf w).any fun e => s.imageFits e addr (s.saveSize w)

/-- Where the device would save a workgroup. -/
def State.savePlace (s : State) (w : Wg) : Option Nat := (s.effOf w).bind fun e => s.imagePlace e (s.saveSize w)

/-- The other resident workgroups of an ALLIN launch, which are saved with one of them (R267, step 4). -/
def State.peers (s : State) (w : Wg) : List Wg :=
  if (s.node? w.launch).any (·.desc.allin) then
    s.wgs.filter fun v => v.launch == w.launch && v.uid != w.uid && v.core.isSome && !v.isShadow
  else []

/-- Whether the images of some workgroups fit their save areas together (R267, steps 3 and 4). -/
def State.savePlaces (s : State) : List Wg → Bool
  | [] => true
  | w :: rest => match s.savePlace w with
    | none => false
    | some a => ((s.stopCrews w.uid).setWg { w with core := none, saveAddr := a }).savePlaces rest

/-- Whether one workgroup is saved before another (R267): the lower priority first, among equals the later placed. -/
def State.savedFirst (s : State) (v w : Wg) : Bool :=
  match s.effOf v, s.effOf w with
  | some e, some f => e.prio < f.prio || (e.prio == f.prio && w.seq < v.seq)
  | _, _ => false

/-- The resident workgroups of a lower priority than a launch's (R267). -/
def State.lower (s : State) (n : NodeRun) : List Wg :=
  s.wgs.filter fun w => w.core.isSome && (s.effOf w).any (·.prio < n.eff.prio)

/-- Workgroups in the order in which pre-emption takes them (R267, steps 1 and 2). -/
def State.bySaving (s : State) (l : List Wg) : List Wg :=
  l.foldr (fun w r => (r.takeWhile fun v => s.savedFirst v w) ++ w :: r.dropWhile fun v => s.savedFirst v w) []

/-- The machine as it would be with some workgroups off their cores, each whose image fits, with those of its ALLIN launch
(R267, steps 3 and 4). -/
def State.cleared (s : State) : List Wg → State
  | [] => s
  | w :: rest =>
    let all := (w :: s.peers w).filter fun v => (s.wg? v.uid).any (·.core.isSome)
    if !s.savePlaces all then s.cleared rest else
    (all.foldl (fun s v => match s.savePlace v with
      | some a => (s.stopCrews v.uid).setWg { v with core := none, saveAddr := a }
      | none => s) s).cleared rest

/-- Whether a launch can be placed once pre-emption has saved what it may for it (R267): shadows go first (R357). -/
def State.savesHelp (s : State) (n : NodeRun) : Bool :=
  let t := ((s.lower n).filter (·.isShadow)).foldl (fun s w => s.abandon w.uid) s
  (t.cleared (t.bySaving (t.lower n))).placeable n

/-- Whether saves serve a launch (R267): free core resources are what its next workgroup, with ALLIN its whole set, lacks, not
a budget alone, and saves can free them. -/
def State.savesServe (s : State) (n : NodeRun) : Bool := !s.someRoom n && s.savesHelp n

/-- The launch that pre-empts (R267): the first that lacks core resources which saves can free. DESIGN CHOICE (log 12): a launch
that RUNS already with workgroups still to place pre-empts as a READY one does. -/
def State.preempter (s : State) : Option NodeRun :=
  s.nodes.find? fun n => n.unplaced && !s.heldByOrder n && !s.placeable n && s.savesServe n

/-- The workgroups that pre-emption may take (R267): shadows if there are any; else those of a lower priority whose image
fits, with those of its ALLIN launch. -/
def State.victimsOf (s : State) (n : NodeRun) : List Wg :=
  let sh := (s.lower n).filter (·.isShadow)
  if sh.isEmpty then (s.lower n).filter fun w => s.savePlaces (w :: s.peers w) else sh

/-- Whether a workgroup is the next that pre-emption takes (R267): none while one is being saved. -/
def State.preempts (s : State) (w : Wg) : Bool :=
  !s.wgs.any (·.saving) && s.preempter.any fun n =>
    let l := s.victimsOf n
    l.any (·.uid == w.uid) && (w.isShadow || !l.any fun v => v.uid != w.uid && s.savedFirst v w)

/-- The other workgroups of an ALLIN launch, saved with one of them (R267, step 4): none where one cannot be. -/
def State.saveRest (s : State) : List Wg → Option State
  | [] => some s
  | w :: rest => match s.savePlace w with
    | some a => (s.saveAt w.uid a).saveRest rest
    | none => none

/-- Workgroups marked as being saved, or no longer (R268). -/
def State.markSaving (s : State) (l : List Wg) (on : Bool) : State :=
  { s with wgs := s.wgs.map fun w => if l.any (·.uid == w.uid) then { w with saving := on } else w }

/-- WORKGROUP_SAVE (R268, R316): pre-emption of a workgroup, with the others of an ALLIN launch. Where a crew has yet to stop,
the crews stop one by one at their next packet boundaries and the save comes later; where the save area has no longer room,
it is given up. A shadow is abandoned (R357). -/
def execWorkgroupSave (uid addr : Nat) (s : State) : Host.Outcome State Fault Refusal :=
  match s.wg? uid with
  | none => .refused (.notEnabled "WORKGROUP_SAVE: no such workgroup")
  | some w =>
    let all := w :: s.peers w
    if !w.saving && !s.preempts w then .refused (.notEnabled "WORKGROUP_SAVE: nothing pre-empts the workgroup")
    else if w.isShadow then .next (s.abandon uid)
    else if !all.all s.saveReady then
      if w.saving then .refused (.notEnabled "WORKGROUP_SAVE: a crew or a copy has yet to stop")
      else .next (s.markSaving all true)
    else if !s.savePlaces all then .next (s.markSaving all false)
    else if !s.saveFits w addr then .refused (.notEnabled "WORKGROUP_SAVE: the image does not fit there")
    else match (s.saveAt uid addr).saveRest (s.peers w) with
      | some t => .next t
      | none => .refused (.notEnabled "WORKGROUP_SAVE: another workgroup of the launch cannot be saved")

/-! Restoring (R267, R319) -/

/-- The wait of a restored crew: YIELD waits again from now (R319). -/
def State.waitAgain (s : State) (w : Wg) (core : Nat) (c : Crew) : Wait :=
  match c.wait with
  | .yield _ =>
    match (s.instrAt w c.pc false).2 with
    | .ok ⟨_, _, _, .yield f⟩ => .yield ((s.core core).cyc.toNat + 2 ^ f.imm.toNat)
    | _ => .yield 0
  | k => k

/-- A crew restored (R268, R319): its slot, latches invalid, a parked instruction to be replayed once. -/
def Crew.restored (c : Crew) (p : Spot) (w : Wait) (since : Nat) : Crew :=
  { c with
    sched := p.sched, slot := p.slot, waitcnt := 0, wait := w, since := since
    st := if c.st == .parked && !c.recWait then .ready else c.st }

/-- When the wait of a restored crew began (R276, R316): a TAKE asks anew; a request for a queue keeps its place among those
of its workgroup, CPYQ commands included. -/
def Crew.waitedFrom (c : Crew) (now : Nat) : Nat := match c.wait with | .take _ => now | _ => c.since

/-- Crews in the order in which they began to wait (R276). -/
def byWait (l : List Crew) : List Crew :=
  l.foldr (fun c r => (r.takeWhile fun d => d.since < c.since) ++ c :: r.dropWhile fun d => d.since < c.since) []

/-- The crews of a workgroup restored, their requests made again in the old order (R276, R319). -/
def State.restoreCrews (s : State) (w : Wg) (core : Nat) (spots : List Spot) : State :=
  (byWait (s.crewsOf w.uid)).foldl (fun s c =>
    match spots[c.idx]? with
    | some p => { s with nextId := s.nextId + 1 }.setCrew
        (s.fenced (c.restored p (s.waitAgain w core c) (c.waitedFrom s.nextId)))
    | none => s) s

/-- Status words that the engine held for a saved workgroup written (R245, R319). -/
def State.landHeld (s : State) (uid : Nat) : State :=
  s.copies.foldl (fun s k =>
    if k.wg == uid && k.done.isSome then s.copyFinish k (((k.done.getD 0).toNat) / 2 ^ 28) else s) s

/-- Counts of deliveries held while the workgroup was saved, in round order (R379). -/
def State.applyHeld (s : State) (w : Wg) : State :=
  let s := s.setWg { w with held := [] }
  w.held.foldl (fun s h => s.countBytes w.uid h.1 h.2.1 none h.2.2 [] { code := .barrierBytes, source := 3 }) s

/-- CPYQ commands of a workgroup on its core again, each in its slot where that is free (R245). DESIGN CHOICE (log 33): where it
is not, in the lowest that is; where none is, in its own beside the other. -/
def State.requeue (s : State) (uid core : Nat) : State :=
  s.copies.foldl (fun s k =>
    if k.wg != uid || k.kind != .cpyq then s else
    let free (n : Nat) : Bool := !s.copies.any fun j => j.core == core && j.slot == n && j.id != k.id && j.done.isNone
    let slot := if free k.slot then k.slot else (((List.range 8).map (· + 32)).find? free).getD k.slot
    s.setCopy { k with core := core, slot := slot }) s

/-- A saved workgroup put back on a core (R319). -/
def State.restoreAt (s : State) (w : Wg) (core : Nat) (spots : List Spot) : State :=
  let v : Wg := { w with core := some core, hang := 0, seq := s.nextId }
  let s := ({ s with nextId := s.nextId + 1 }.setWg v).restoreCrews v core spots
  let s := (((s.requeue w.uid core).landHeld w.uid).dropLines core).protect w.region
  match s.wg? w.uid with
  | some x => s.applyHeld x
  | none => s

/-- Whether a launch of a higher priority waits for resources before a saved workgroup, which it has or which saves can free
(R258, R267). -/
def State.outranked (s : State) (w : Wg) : Bool :=
  s.nodes.any fun n => n.unplaced && (s.effOf w).any (·.prio < n.eff.prio) && (s.placeable n || s.savesServe n)

/-- Whether a saved workgroup comes after another in the order in which they were saved (R267): one that a launch of a higher
priority goes before holds back none. -/
def State.restoredAfter (s : State) (w : Wg) : Bool :=
  s.wgs.any fun v => v.core.isNone && v.uid != w.uid && v.saveSeq < w.saveSeq && !s.outranked v

/-- Whether a saved workgroup may be restored now on a core. -/
def State.restoreRoom (s : State) (w : Wg) (core : Nat) : Bool :=
  w.core.isNone && !s.restoredAfter w && !s.outranked w && s.coreRoom core (s.askOf w) &&
    s.budgetFits (s.bounds w) core (s.askOf w)

/-- WORKGROUP_RESTORE (R319): the image is read back; one that fails its check kills the workgroup (R352). -/
def execWorkgroupRestore (uid core : Nat) (spots : List Spot) (s : State) : Host.Outcome State Fault Refusal :=
  match s.wg? uid with
  | none => .refused (.notEnabled "WORKGROUP_RESTORE: no such workgroup")
  | some w =>
    if !s.restoreRoom w core || !s.spotsFit core w.ncrew spots then
      .refused (.notEnabled "WORKGROUP_RESTORE: the workgroup cannot be restored there")
    else if s.failingAt w.saveAddr (w.imageSize (s.crewsOf uid)) then
      .next (s.killWg Code.stateUncorrectable.num uid)
    else
      let s := s.readImage w
      .next (s.restoreAt ((s.wg? uid).getD w) core spots)

end Sys2Proof.Machine
end

