-- ==== Sys2Proof/Machine/System.lean ====
section
/-! DEFINITION. Traps and the return from them, halting and resuming crews, system registers, invalidation of translations
(R302 to R309, R313). -/

namespace Sys2Proof.Machine

/-! Halting and resuming (R308, R309) -/

/-- HALT 0 of one crew, with a reason (R308): at once, or at the next packet boundary; a crew that runs on is first rolled
back, whatever state it holds (R290). -/
def State.haltCrew (s : State) (c : Crew) (r : Reason) : State :=
  if c.st != .halted && c.st != .exited && c.runon.isSome then
    let p := s.rolledBack c
    p.1.setCrew (p.2.halt r)
  else match c.st with
  | .halted | .exited => s
  | .parked => s.setCrew { c.halt r with parkpend := true }
  | .blocked => s.setCrew (c.halt r)
  | _ =>
    if c.walk.isSome || (c.pc.toNat % 12 == 0 && c.pfx.isNone) then s.setCrew (c.halt r)
    else s.setCrew { c with halting := r }

/-- HALT 1 of a workgroup, with a reason (R308). -/
def State.haltWg (s : State) (uid : Nat) (r : Reason) : State :=
  (s.crewsOf uid).foldl (fun s c => s.haltCrew c r) s

/-- A crew after RESUME (R309, R345): a crew whose record waits for a slot stays (R349); a walk that the debug interface
started goes on with the crew HALTED. -/
def Crew.resumed (c : Crew) : Crew :=
  if c.recWait then c else
  match c.st with
  | .halted =>
    if c.walk.any (·.why == .debug) && c.parkpend then { c with parkpend := false, reason := .debug }
    else { c with
      st := .ready, reason := .none, parkpend := false
      walk := c.walk.map fun k => if k.why == .debug then { k with why := .rewind } else k }
  | .parked => { c with st := .ready }
  | _ => c

/-! Targets (R306) -/

/-- The crew in the slot that a target selector names; a shadow is seen by no party (R306, R357). -/
def State.target (s : State) (tgt : Word) : Option (Crew × Wg) :=
  let core := (tgt.extractLsb' 6 8).toNat
  let sched := (tgt.extractLsb' 4 2).toNat
  let slot := (tgt.extractLsb' 0 4).toNat
  s.crews.findSome? fun c =>
    if c.sched == sched && c.slot == slot then
      match s.wg? c.wg with
      | some w => if w.core == some core && !w.isShadow then some (c, w) else none
      | none => none
    else none

/-- The target of a crew, with the ownership check of R306. -/
def Ctx.target (x : Ctx) : Except Flt (Crew × Wg) :=
  match x.s.target x.c.tgt with
  | none => .error { code := .targetAbsent }
  | some p => if x.s.wgUnder p.2 x.w.region then .ok p else .error { code := .targetDenied }

/-- The instruction at hand in a machine that acts on crews as a whole. -/
def Ctx.within (x : Ctx) (s : State) : Ctx :=
  { x with s := s, c := (s.crew? x.c.ref).getD x.c, w := (s.wg? x.w.uid).getD x.w }

/-- The instruction retires as a boundary; then the machine is acted on, its own crew included. -/
def Ctx.retireThen (x : Ctx) (f : State → State) : Res :=
  .keep (x.within (f (x.sync.setCrew (x.c.retire true x.next false))))

/-! TRAP and RFT (R303, R304) -/

/-- The crew past a TRAP, at its address: it retires and counts, a debugger's step included (R303, R358). -/
def Crew.pastTrap (c : Crew) : Crew :=
  let c := { c with ic := c.ic + 1, waitcnt := 0, bkptOnce := false }
  match c.steps with
  | some (n + 2) => { c with steps := some (n + 1) }
  | some _ => { c with steps := none, halting := .debug }
  | none => c

/-- TRAP on the crew (R303). -/
def trapBody (f : SFields) (x : Ctx) : Res :=
  .keep (x.within (x.sync.deliver x.c.pastTrap { code := .trap, detail := f.imm.toNat } x.next x.c.ic))

/-- TRAP (R303). -/
def execTrap (f : SFields) (s : State) : Host.Outcome State Fault Refusal := runWord (.trap f) (trapBody f) s

/-- RFT on the crew (R304). -/
def rftBody (x : Ctx) : Res :=
  if !x.c.intrap then .fault { code := .trapState } else .done { x with c := x.c.returnFromTrap, next := x.c.tpc }

/-- RFT (R304). -/
def execRft (f : SFields) (s : State) : Host.Outcome State Fault Refusal := runWord (.rft f) rftBody s

/-! HALT and RESUME -/

/-- HALT on the target, by scope (R308). -/
def haltScope (n : Nat) (c : Crew) (w : Wg) (s : State) : State :=
  match n with
  | 0 => match s.crew? c.ref with | some c => s.haltCrew c .halt | none => s
  | 1 => s.haltWg w.uid .halt
  | 2 => s.killWg 0 w.uid
  | _ => s.killDomain (s.domainFor w)

/-- HALT on the crew (R308). -/
def haltBody (f : SFields) (x : Ctx) : Res :=
  match x.target with
  | .error e => .fault e
  | .ok p => x.retireThen (haltScope f.imm.toNat p.1 p.2)

/-- HALT (R308). -/
def execHalt (f : SFields) (s : State) : Host.Outcome State Fault Refusal := runWord (.halt f) (haltBody f) s

/-- RESUME of a crew (R309). -/
def State.resumeCrew (s : State) (r : CrewRef) : State :=
  match s.crew? r with
  | some c => s.setCrew c.resumed
  | none => s

/-- RESUME on the crew (R309). -/
def resumeBody (x : Ctx) : Res :=
  match x.target with
  | .error e => .fault e
  | .ok p => x.retireThen (·.resumeCrew p.1.ref)

/-- RESUME (R309). -/
def execResume (f : SFields) (s : State) : Host.Outcome State Fault Refusal := runWord (.resume f) resumeBody s

/-! System registers (R305) -/

/-- TSTATE (R305, Table 3). -/
def Ctx.tstate (x : Ctx) : Nat :=
  match x.target with
  | .error e => if e.code == .targetDenied then 8 else 0
  | .ok (c, _) => c.st.num + c.reason.num * 2 ^ 4 + bit c.intrap * 2 ^ 8 + bit c.parkpend * 2 ^ 9

/-- The value of a system register (R305, Table 2). -/
def Ctx.sysReg (x : Ctx) (n : Nat) : Except Flt DWord :=
  let of (f : Crew → Wg → DWord) : Except Flt DWord := x.target.map fun p => f p.1 p.2
  match n with
  | 0 => .ok x.c.tvec
  | 1 => .ok x.c.tpc
  | 2 => .ok (x.c.tcause.setWidth 64)
  | 3 => .ok x.c.taddr
  | 4 => .ok (x.c.tgt.setWidth 64)
  | 5 => .ok (BitVec.ofNat 64 x.tstate)
  | 6 => of fun _ w => BitVec.ofNat 64 (w.region / 512)
  | 7 => of fun _ w => w.index.setWidth 64
  | 8 => of fun c w => (crewid w c).setWidth 64
  | 9 => of fun c _ => c.pc
  | 10 => of fun c _ => c.ic
  | _ => of fun _ w => BitVec.ofNat 64 w.node

/-- MFSR on its operands (R305). -/
def mfsrBody (i : Instr) (f : SFields) (x : Ctx) : Res :=
  if x.act == 0 then readFinish (view i) f.a (sysWide f.imm) 0 x else
  match x.sysReg f.imm.toNat with
  | .error e => .fault e
  | .ok r => readFinish (view i) f.a (sysWide f.imm) r x

/-- MFSR (R305). -/
def execMfsr (f : SFields) (s : State) : Host.Outcome State Fault Refusal := runWord (.mfsr f) (mfsrBody (.mfsr f) f) s

/-- A write of TPCX (R305, R306, R325): the PC of a HALTED target; its commit count becomes its IC. DESIGN CHOICE (log 33): XFER is
cleared, and a walk and forward runs under way are given up; R325, R335 and R346 say nothing of them. -/
def Crew.movePc (c : Crew) (pc : DWord) : Crew :=
  { c.commitHere c.pc with pc := pc, pfx := none, bkptOnce := false, xfer := false, walk := none, replays := [] }

/-- The MTILE run of a crew given up, its counter and its claim: the PC no longer names the instruction. DESIGN CHOICE (log 33):
R166 does not say what becomes of a run whose crew's PC is moved. -/
def State.dropTileRun (s : State) (c : Crew) : State :=
  match s.wg? c.wg with
  | some w => s.setWg { w with mtiles := w.mtiles.filter (·.idx != c.idx) }
  | none => s

/-- TPCX written by the debug interface or a system crew. -/
def State.writePc (s : State) (c : Crew) (pc : DWord) : State := (s.dropTileRun c).setCrew (c.movePc pc)

/-- MTSR on its operands (R305). -/
def mtsrBody (f : SFields) (x : Ctx) : Res :=
  if x.act == 0 then .done x else
  let wide := x.leaderPair f.a
  let bad : Res := .fault { code := .controlInvalid, field := .a }
  match f.imm.toNat with
  | 0 => if wide.toNat % 12 != 0 then bad else .done { x with c := { x.c with tvec := wide } }
  | 1 => .done { x with c := { x.c with tpc := wide } }
  | 4 => if (x.leader f.a).toNat / 2 ^ 14 != 0 then bad else .done { x with c := { x.c with tgt := x.leader f.a } }
  | _ => match x.target with
    | .error e => .fault e
    | .ok (c, _) =>
      if c.st != .halted then .fault { code := .targetState } else .done (x.within (x.sync.writePc c wide))

/-- MTSR (R305). -/
def execMtsr (f : SFields) (s : State) : Host.Outcome State Fault Refusal :=
  runWord (.mtsr f) (fun x => consuming (.mtsr f) (mtsrBody f x)) s

/-! Invalidation (R313) -/

/-- The operands of a TLBI: the address and the region index of the leader; with no active thread there is no leader, and
they are values that the spec does not state (log 5). -/
def Ctx.tlbiOps (x : Ctx) (a b : BitVec 7) : State × DWord × Nat :=
  match lowest x.act with
  | some _ => (x.s, x.leaderPair a, (x.leader b).toNat)
  | none => ({ x.s with fresh := x.s.fresh + 3 },
      pairOf (Config.freeWord x.s.fresh) (Config.freeWord (x.s.fresh + 1)), (Config.freeWord (x.s.fresh + 2)).toNat)

/-- A TLBI of a region's translations (R313): those of the region's PTROOT that meet a condition on the address; it is a
release at system scope. -/
def tlbiRegion (f : SFields) (x : Ctx) (gone : DWord → Trans → Bool) : Res :=
  let p := x.tlbiOps f.a f.b
  let x := { x with s := p.1 }
  match x.s.region? (p.2.2 * 512) with
  | none => .done { x with c := x.c.fenceRelease 5 }
  | some r =>
    if !x.s.inSubtree r.rcb x.w.region then .fault { code := .targetDenied }
    else
      let drop (s : State) : State := s.dropTrans fun t => t.root == r.eff.ptroot && gone p.2.1 t
      .done (({ x with c := x.c.fenceRelease 5 }).mapS drop)

/-- TLBI.PAGE (R313). -/
def execTlbiPage (f : SFields) (s : State) : Host.Outcome State Fault Refusal :=
  runWord (.tlbiPage f) (fun x => consuming (.tlbiPage f)
    (tlbiRegion f x fun va t => t.va ≤ va.toNat && va.toNat < t.va + t.size)) s

/-- TLBI.SIZE (R313). -/
def execTlbiSize (f : SFields) (s : State) : Host.Outcome State Fault Refusal :=
  runWord (.tlbiSize f) (fun x => consuming (.tlbiSize f)
    (tlbiRegion f x fun va t =>
      let n := pageBytes f.imm.toNat
      overlap (va.toNat / n * n) n t.va t.size)) s

/-- TLBI.REGION (R313). -/
def execTlbiRegion (f : SFields) (s : State) : Host.Outcome State Fault Refusal :=
  runWord (.tlbiRegion f) (fun x => consuming (.tlbiRegion f) (tlbiRegion f x fun _ _ => true)) s

/-- TLBI.ALL (R313). -/
def execTlbiAll (f : SFields) (s : State) : Host.Outcome State Fault Refusal :=
  runWord (.tlbiAll f) (fun x => .done (({ x with c := x.c.fenceRelease 5 }).mapS fun s => s.dropTrans fun _ => true)) s

end Sys2Proof.Machine
end

