-- ==== Sys2Proof/Machine/Port.lean ====
section
/-! DEFINITION. The control-node port: transactions, management registers, doorbells, control operations, groups and their
rounds, resets, attestation, power (R197, R266, R349, R371 to R382). -/

namespace Sys2Proof.Machine

/-! Full fault queues examined again (R349) -/

/-- A record of a crew that waits, written if its slot is free and no earlier one waits; VALID releases what the crew has
done, which then is free again (R201, R349). -/
def State.recheckOne (s : State) (rcb : Nat) (e : List Byte × CrewRef) : State :=
  match s.region? rcb with
  | none => s
  | some r =>
    let w := s.wg? e.2.wg
    let q := (w.bind s.regionOf).getD r
    if s.slotFull q || r.waiting.head? != some e then s else
    let rel := match s.crew? e.2, w with | some c, some w => validRel c.clock (crewPlace w c) | _, _ => []
    let s := ((s.putBytes q rel e.1).modRegion rcb fun k => { k with waiting := k.waiting.tail }).tickCrew e.2
    match s.crew? e.2 with
    | some c => if r.waiting.tail.any (·.2 == e.2) then s else s.setCrew { c with recWait := false }
    | none => s

/-- The records of a region that wait examined again, oldest first (R349). -/
def State.recheck (s : State) (rcb : Nat) : State :=
  match s.region? rcb with
  | some r => r.waiting.foldl (fun s e => s.recheckOne rcb e) s
  | none => s

/-- Every region's records examined again (R349). -/
def State.recheckAll (s : State) : State := s.regions.foldl (fun s r => s.recheck r.rcb) s

/-- FAULT_QUEUE_RECHECK (R349): at least once in every 2^20 cycles of the hub die, the region's full slot is examined. -/
def execFaultQueueRecheck (rcb : Nat) (s : State) : Host.Outcome State Fault Refusal :=
  if (s.region? rcb).isSome then .next (s.recheck rcb)
  else .refused (.notEnabled "FAULT_QUEUE_RECHECK: no such region")

/-! The power alarm (R382) -/

/-- What raises the alarm. -/
def Port.hot (p : Port) : Bool := p.pwrlim.toNat < p.watts || p.templim.toNat < p.temp || p.force

/-- What lets it clear. -/
def Port.cool (p : Port) : Bool := p.watts * 100 < 95 * p.pwrlim.toNat && p.temp + 5 ≤ p.templim.toNat && !p.force

/-- The alarm as the limits and readings stand. -/
def State.settleAlarm (s : State) : State :=
  { s with alarm := s.port.hot || (s.alarm && !s.port.cool) }

/-- Readings of the board. -/
def State.readings (s : State) (watts celsius : Nat) : State :=
  { s with port := { s.port with watts := watts, temp := celsius } }

/-- POWER_ALARM_RAISE (R382): a reading of the board under which the alarm stands; at 110 degrees the hardware shuts down
instead. -/
def execPowerAlarmRaise (watts celsius : Nat) (s : State) : Host.Outcome State Fault Refusal :=
  let t := (s.readings watts celsius).settleAlarm
  if celsius < 110 && t.alarm then .next t
  else .refused (.notEnabled "POWER_ALARM_RAISE: nothing raises the alarm")

/-- POWER_ALARM_CLEAR (R382): a reading of the board under which the alarm does not stand, the ordinary ones among them. -/
def execPowerAlarmClear (watts celsius : Nat) (s : State) : Host.Outcome State Fault Refusal :=
  let t := (s.readings watts celsius).settleAlarm
  if celsius < 110 && !t.alarm then .next t
  else .refused (.notEnabled "POWER_ALARM_CLEAR: the alarm stays")

/-- The cores that the workgroups of a launch occupy. -/
def State.coresOf (s : State) (launch : Nat) : List Nat :=
  ((s.wgs.filter (·.launch == launch)).filterMap (·.core)).eraseDups

/-- Whether, for some launch on both, one core's crews wait most and another's least on barrier phases (R266). -/
def State.waitsMore (s : State) (src dst : Nat) : Bool :=
  let n (launch k : Nat) : Nat := (mapGet (s.core k).waits launch).getD 0
  s.nodes.any fun l =>
    let on := s.coresOf l.id
    on.contains src && on.contains dst && n l.id dst < n l.id src &&
      on.all fun k => n l.id k ≤ n l.id src && n l.id dst ≤ n l.id k

/-- DVFS_ADJUST (R266): clock moved from the core of a launch whose crews wait most on barrier phases to the one whose crews
wait least, each staying between 2.4 and 4.2 GHz; the comparison begins anew. -/
def execDvfsAdjust (src dst mhz : Nat) (s : State) : Host.Outcome State Fault Refusal :=
  if s.cores.length ≤ src || s.cores.length ≤ dst || (s.core src).mhz < 2400 + mhz ||
      4200 < (s.core dst).mhz + mhz then
    .refused (.notEnabled "DVFS_ADJUST: a clock would leave its range")
  else if src == dst || !s.waitsMore src dst then
    .refused (.notEnabled "DVFS_ADJUST: the crews of the one core do not wait more than those of the other")
  else
    .next ((s.modCore src fun k => { k with mhz := k.mhz - mhz, waits := [] }).modCore dst fun k =>
      { k with mhz := k.mhz + mhz, waits := [] })

/-! Resets (R372, R373) -/

/-- The port after a boot that ends in a way; `critical` where the last shutdown was by temperature. -/
def bootPort (critical : Bool) (b : BootResult) : Port :=
  match b with
  | .ready => { Port.zero with booterr := if critical then 0x20 else 0 }
  | .stopped code => { Port.zero with ready := false, recovery := true, booterr := code }

/-- Whether a boot can end so: a step that fails shows its code of Table 2 (R372). -/
def bootCan : BootResult → Bool
  | .ready => true
  | .stopped code => Config.bootCodes.contains code

/-- The machine after power-good or a cold reset (R372): what is the model's own goes on. -/
def State.boot (s : State) (b : BootResult) : State :=
  { State.reset with
    port := bootPort (!s.powered) b
    fresh := s.fresh, nextId := s.nextId
    agenda := s.agenda.filter fun t => match t with | .event _ => true | .crew _ => false }

/-- POWER_ON_RESET (R372). -/
def execPowerOnReset (b : BootResult) (s : State) : Host.Outcome State Fault Refusal :=
  if bootCan b then .next (s.boot b) else .refused (.notEnabled "POWER_ON_RESET: no boot stops with that code")

/-- COLD_RESET (R373). -/
def execColdReset (b : BootResult) (s : State) : Host.Outcome State Fault Refusal :=
  if bootCan b then .next (s.boot b) else .refused (.notEnabled "COLD_RESET: no boot stops with that code")

/-- The machine with all work gone, without records, and with it what caches, translations, race tags and the Cox hold of it. -/
def State.dropWork (s : State) : State :=
  { s with
    tags := [], tlb := [], live := [], walker := [], unsettled := [], crews := [], snaps := [], wgs := [], copies := []
    nodes := [], regions := [], pubs := [], edges := [], cur := none
    agenda := s.agenda.filter fun t => match t with | .event _ => true | .crew _ => false
    cores := s.cores.map fun (k : Core) =>
      { k with
        scheds := Core.zero.scheds, ncl1 := [], deques := [], htags := [], l1count := [], turn := 0, issued := [], pipes := []
        waits := [], xfm := Core.zero.xfm, xfmNow := false } }

/-- The port after a warm reset (R373): doorbells and the log's count emptied, and the registers and fields to which the spec
gives a value after device reset at that value (R9, R360, R374), the others kept (log 23). -/
def Port.warm (p : Port) : Port :=
  { p with
    devnum := 0, errBase := 0, pwrlim := 2400, templim := 95, force := false
    chans := p.chans.map fun (c : Chan) => { c with ctl := 0 }
    dbells := Port.zero.dbells, errCnt := 0, clock := [] }

/-- The machine after a warm reset (R373): all work and every group gone, what the spec resets at its reset value, memory and
the other registers kept. -/
def State.warm (s : State) : State :=
  let t := s.dropWork
  { t with groups := [], cores := t.cores.map fun (k : Core) => { k with scrstall := 0 }, port := s.port.warm }.settleAlarm

/-- WARM_RESET (R373). -/
def execWarmReset (s : State) : Host.Outcome State Fault Refusal := .next s.warm

/-- THERMAL_SHUTDOWN (R382): a junction has reached 110 degrees; the compute dies and HBM4 lose power, all work and all HBM4
contents are lost, and the next boot reports it. It is no reset: the hub die with its registers, groups and doorbells goes on,
open rounds and a report in progress to HBM4 excepted (log 22). -/
def execThermalShutdown (s : State) : Host.Outcome State Fault Refusal :=
  let t := s.dropWork
  let att := s.port.att.filter fun r => hbmEnd ≤ r.1
  .next { t with
    powered := false
    mem := s.mem.filter fun c => hbmEnd ≤ c.1
    groups := s.groups.map fun (g : Group) => { g with rounds := [] }
    port := { s.port with
      temp := max 110 s.port.temp, att := att
      attstat := if s.port.attstat == 1 && att.isEmpty then 3 else s.port.attstat } }.settleAlarm

/-! Groups (R378) -/

/-- A member from its 32-byte entry (R378, Table 5). -/
def memberOf (x : Nat) : Member :=
  ⟨bitsOf x 207 192, bitsOf x 191 128, BitVec.ofNat 32 (bitsOf x 95 64), x.testBit 116, bitsOf x 115 96, bitsOf x 63 0⟩

/-- Whether a region is another or a descendant of it, as the blocks stand. -/
def State.below (s : State) (rcb top : Nat) : Bool :=
  match s.loadChain 16 rcb with
  | .ok l => l.any (·.rcb == top)
  | .error _ => false

/-- Whether a member entry makes a group invalid (R378). -/
def State.memberBad (s : State) (region x : Nat) : Bool :=
  let m := memberOf x
  bitsOf x 255 208 != 0 || bitsOf x 127 117 != 0 || m.baroff % 16 != 0 || (!m.count && m.baroff != 0) || m.buf % 16 != 0 ||
  m.node % 128 != 0 ||
  (m.dev == s.port.devnum.toNat && !(populated m.node 128 && s.below (s.nodeWord m.node).region region))

/-- The group that a descriptor describes, or none where it is invalid (R378, Table 4). -/
def State.groupFrom (s : State) (a : Nat) : Option Group :=
  if a % 64 != 0 || !s.present a 64 || s.failingAt a 64 then none else
  let x := memNat s.mem a 64
  let n := bitsOf x 79 72 + 1
  let at_ := bitsOf x 255 192
  let region := bitsOf x 63 0
  let wsize := bitsOf x 167 128
  if bitsOf x 511 256 != 0 || bitsOf x 191 168 != 0 || bitsOf x 127 84 != 0 || bitsOf x 81 80 != 0 || bitsOf x 83 82 == 3 ||
      wsize % 16 != 0 || wsize < 16 || 2 ^ 40 < wsize || at_ % 32 != 0 || region % 512 != 0 || !s.present at_ (32 * n) ||
      s.failingAt at_ (32 * n) then none
  else
    let entries := (List.range n).map fun i => memNat s.mem (at_ + 32 * i) 32
    if entries.any (s.memberBad region) then none
    else some ⟨s.nextId, a, region, bitsOf x 71 64, wsize, bitsOf x 83 82, entries.map memberOf, []⟩

/-- GRPSTAT set. -/
def State.setGrpstat (s : State) (v : Word) : State := { s with port := { s.port with grpstat := v } }

/-- A write of GRPINST (R378). -/
def State.groupInstall (s : State) (a : Nat) : State :=
  match s.groupFrom a with
  | none => s.setGrpstat 1
  | some g =>
    if s.groups.any fun h => h.region == g.region && h.handle == g.handle then s.setGrpstat 3
    else { s with groups := s.groups ++ [g], nextId := s.nextId + 1 }.setGrpstat 0

/-- A write of GRPREMOVE (R378). -/
def State.groupRemove (s : State) (a : Nat) : State :=
  match s.groups.find? (·.desc == a) with
  | none => s.setGrpstat 1
  | some g =>
    if !g.rounds.isEmpty then s.setGrpstat 2
    else { s with groups := s.groups.filter (·.id != g.id) }.setGrpstat 0

/-! Rounds (R197, R379) -/

/-- Two contributions added (R197). -/
def addParts (fmt : Nat) (a b : Word) : Word :=
  let half (h : Nat) : Nat :=
    (roundTo bf16 (Exact.sum false [bf16.value (a.toNat / 2 ^ (16 * h) % 65536), bf16.value (b.toNat / 2 ^ (16 * h) % 65536)]).1
      { mode := .rne }).1
  match fmt with
  | 0 => BitVec.ofNat 32 (roundTo fp32 (Exact.sum false [fp32.value a.toNat, fp32.value b.toNat]).1 { mode := .rne }).1
  | 1 => BitVec.ofNat 32 (half 0 + half 1 * 65536)
  | _ => a + b

/-- The sum of a round in ascending member index (R197): the first contribution, then each one added. -/
def sumParts (fmt : Nat) : List Word → Word
  | [] => 0
  | a :: l => l.foldl (addParts fmt) a

/-- Whether a member's device is this one. -/
def State.local (s : State) (m : Member) : Bool := m.dev == s.port.devnum.toNat

/-- Whether the ports that a group's contributions pass through are up (R356). -/
def State.routeUp (s : State) (g : Group) : Bool :=
  g.members.all fun m => s.local m || (s.links.getD (8 + Config.route m.dev % 16) ⟨0, 0, true, none⟩).up

/-- Whether a round has every contribution that this device sees: those of its own members (R197). -/
def State.roundFull (s : State) (g : Group) (r : Round) : Bool :=
  g.members.zipIdx.all fun p => !s.local p.1 || r.parts.any (·.1 == p.2)

/-- The contribution of each member, ascending; one from another device arrives from outside (log 5). -/
def State.partsOf (s : State) (g : Group) (r : Round) : List Word :=
  g.members.zipIdx.map fun p =>
    match mapGet r.parts p.2 with
    | some w => w
    | none => Config.remotePart (s.fresh + p.2)

/-- The workgroup a member is, resident or saved. -/
def State.memberWg (s : State) (m : Member) : Option Wg :=
  s.wgs.find? fun w => w.node == m.node && w.index == m.wg && !w.isShadow

/-- The table root of a member's region: its launch's, or its node's region's as it stands. -/
def State.memberRoot (s : State) (m : Member) : Option Nat :=
  match s.memberWg m with
  | some w => some (s.rootOf w)
  | none => match s.loadChain 16 (s.nodeWord m.node).region with
    | .ok (r :: _) => some r.eff.ptroot
    | _ => none

/-- The code of a delivery whose page does not translate with W (R379): PAGE_PERMISSION where that right is what it lacks,
and PAGE_FAULT for every other reason. -/
def deliveryCode (c : Code) : Code := if c == .pagePermission then .pagePermission else .pageFault

/-- A record about a member, to the queue of its region: as its workgroup was placed under, else as its node stands. -/
def State.reportMember (s : State) (m : Member) (x : FRec) : State :=
  let rcb := (s.nodeWord m.node).region
  let x := { x with source := 3, node := m.node, wgid := m.wg.toNat }
  match s.memberWg m with
  | some w => s.reportFor w [] { x with region := w.region / 512 }
  | none => s.reportHome rcb x

/-- A round delivered to one member (R379): its contributions happen before the count, also where that is held. DESIGN CHOICE
(log 33): the word is written by no launch, so that it is code at once for the launches that start from then on (R73). -/
def State.deliverTo (s : State) (off : Nat) (word : Word) (clk : Clock) (m : Member) : State :=
  if !s.local m then s else
  match s.memberRoot m with
  | none => s
  | some root =>
    let a := m.buf + off
    let r := if 2 ^ 57 ≤ a then (s, .error .addressRange) else s.xlate root a .store
    match r.2 with
    | .error c => r.1.reportMember m { code := deliveryCode c, addr := a, access := 2 }
    | .ok p =>
      let s := r.1.physWrite p.wr (leBytes word.toNat 4)
      match m.count, s.memberWg m with
      | true, some w =>
        if w.core.isNone then s.setWg { w with held := w.held ++ [(m.baroff, 4, clk)] }
        else s.countBytes w.uid m.baroff 4 none clk [] { code := .barrierBytes, source := 3 }
      | _, _ => s

/-- Crews that wait for a round look again (R220). -/
def State.wakeWindows (s : State) : State :=
  { s with crews := s.crews.map fun (c : Crew) => if c.wait == .window then { c with st := .ready, wait := .none } else c }

/-- MCR_ROUND_DELIVERY (R379). -/
def execMcrRoundDelivery (id off : Nat) (s : State) : Host.Outcome State Fault Refusal :=
  match s.groups.find? (·.id == id) with
  | none => .refused (.notEnabled "MCR_ROUND_DELIVERY: no such group")
  | some g =>
    match g.rounds.find? (·.off == off) with
    | none => .refused (.notEnabled "MCR_ROUND_DELIVERY: no such round")
    | some r =>
      if !s.roundFull g r || !s.routeUp g then .refused (.notEnabled "MCR_ROUND_DELIVERY: the round is not complete")
      else
        let word := sumParts g.fmt (s.partsOf g r)
        let t := { s with fresh := s.fresh + g.members.length }.setGroup
          { g with rounds := g.rounds.filter (·.off != off) }
        .next (g.members.foldl (fun s m => s.deliverTo off word r.clock m) t).wakeWindows

/-! Control operations (R377) -/

/-- A write of CTLOP (R377). -/
def State.ctlop (s : State) (v : DWord) : State :=
  let stat (s : State) (w : Nat) : State := { s with port := { s.port with ctlstat := BitVec.ofNat 32 w } }
  let op := (v.extractLsb' 16 4).toNat
  if v.toNat / 2 ^ 20 != 0 || v.extractLsb' 14 2 != 0 || 4 < op then stat s Code.controlInvalid.num else
  match s.target (v.setWidth 32) with
  | none => stat s Code.targetAbsent.num
  | some (c, w) => stat (if op == 0 then s.resumeCrew c.ref else haltScope (op - 1) c w s) 0

/-! Attestation (R381) -/

/-- The integer part of a root, bit by bit from 2^(b-1) down, from a lower bound r. -/
def rootFrom (pow n : Nat) : Nat → Nat → Nat
  | 0, r => r
  | b + 1, r => rootFrom pow n b (if (r + 2 ^ b) ^ pow ≤ n then r + 2 ^ b else r)

/-- The prime numbers below 312: 64 of them. -/
def shaPrimes : List Nat :=
  (List.range 312).filter fun n => 2 ≤ n && (List.range n).all fun d => d < 2 || n % d != 0

/-- The first 32 bits of the fraction of a root of a prime: the square roots start SHA-256, the cube roots are its round
constants. -/
def rootWord (pow p : Nat) : Word := BitVec.ofNat 32 (rootFrom pow (p * 2 ^ (32 * pow)) 40 0)

/-- The sum, bit by bit modulo 2, of some rotations of a word. -/
def turned (x : Word) (l : List Nat) : Word := (l.map x.rotateRight).foldl (· ^^^ ·) 0

/-- Word t of the schedule of a block, from the ones before it. -/
def shaWordAt (w : List Word) (t : Nat) : Word :=
  let back (k : Nat) : Word := w.getD (t - k) 0
  let far := turned (back 15) [7, 18] ^^^ (back 15 >>> 3)
  let near := turned (back 2) [17, 19] ^^^ (back 2 >>> 10)
  back 16 + back 7 + far + near

/-- The 64 words of the schedule of a block. -/
def shaSchedule (block : List Word) : List Word :=
  (List.range 48).foldl (fun w i => w ++ [shaWordAt w (16 + i)]) block

/-- One round: the eight working words with the constant and the schedule word added. -/
def shaRound : List Word → Word → List Word
  | [a, b, c, d, e, f, g, h], kw =>
    let up := kw + h + turned e [6, 11, 25] + (g ^^^ (e &&& (f ^^^ g)))
    [up + turned a [2, 13, 22] + ((a &&& b) ||| (c &&& (a ||| b))), a, b, c, up + d, e, f, g]
  | l, _ => l

/-- One block added to the hash. -/
def shaBlock (h block : List Word) : List Word :=
  let ks := shaPrimes.map (rootWord 3)
  let out := (List.zipWith (· + ·) ks (shaSchedule block)).foldl shaRound h
  List.zipWith (· + ·) h out

/-- The words of some bytes, the first byte of each the highest. -/
def bigWords : List Byte → List Word
  | a :: b :: c :: d :: l => (a ++ b ++ c ++ d) :: bigWords l
  | _ => []

/-- SHA-256 of 64 bytes: their block, then the block that closes a message of 512 bits. -/
def sha256 (m : List Byte) : List Byte :=
  let close : List Word := [0x80000000] ++ List.replicate 14 0 ++ [512]
  let h := shaBlock (shaBlock ((shaPrimes.take 8).map (rootWord 2)) (bigWords m)) close
  h.flatMap fun x => (leBytes x.toNat 4).reverse

/-- COREHASH (R381, Table 6): SHA-256 of the four CORECFG values, die 0 first, each as 16 little-endian bytes. -/
def coreHash : Nat := leNat (sha256 ((List.range 4).flatMap fun d => leBytes (Config.coreCfg d).toNat 16))

/-- Bits 1535:0 of a report (R381, Table 6). -/
def reportBody (nonce : BitVec 256) : Nat :=
  placed [(nonce.toNat, 0), (Config.fwHash.toNat, 256), (Config.fwVersion.toNat, 512), (Config.floor.toNat, 576),
    (Config.serial.toNat, 640), (coreHash, 768), (Config.pubKey.toNat, 1024)]

/-- ATTESTATION_REPORT_WRITTEN (R381). -/
def execAttestationReportWritten (s : State) : Host.Outcome State Fault Refusal :=
  match s.port.att with
  | [] => .refused (.notEnabled "ATTESTATION_REPORT_WRITTEN: no report is in progress")
  | (a, nonce) :: rest =>
    let body := reportBody nonce
    let sig := Config.sign s.fresh (BitVec.ofNat 1536 body)
    let t := s.physWrite a (leBytes (body + sig.toNat * 2 ^ 1536) 256)
    .next { t with fresh := t.fresh + 1, port := { t.port with att := rest, attstat := 2 } }

/-- A write of ATTREQ (R381): a report that was started is written also where a read has cleared ATTSTAT meanwhile. HBM4
without power is not populated (log 22). -/
def State.attestRequest (s : State) (a : Nat) : State :=
  if s.port.attstat == 1 then s
  else if a % 64 != 0 || !s.present a 256 then { s with port := { s.port with attstat := 3 } }
  else { s with port := { s.port with attstat := 1, att := s.port.att ++ [(a, s.port.nonce)] } }

/-! Management registers (R374, Table 3) -/

/-- Words of the management range from the port itself. -/
def Port.word (p : Port) (off : Nat) : Word :=
  let half (v : DWord) : Word := if off % 8 == 0 then loWord v else hiWord v
  let ch := p.chans.getD ((off - 0x3100) / 32) ⟨0, 0, 0⟩
  if off == 0x0 then p.devnum
  else if off == 0x8 then BitVec.ofNat 32 (placed [(bit p.ready, 0), (bit p.recovery, 1), (p.booterr.toNat, 8)])
  else if off == 0x18 || off == 0x1C then half (BitVec.ofNat 64 Config.ddrSize)
  else if 0x20 ≤ off && off < 0x60 then (Config.coreCfg ((off - 0x20) / 16)).extractLsb' (8 * (off % 16)) 32
  else if off == 0x100 || off == 0x104 then half p.errBase
  else if off == 0x108 then p.errLen
  else if off == 0x110 || off == 0x114 then half p.errCnt
  else if off == 0x118 then p.errLost
  else if off == 0x310 then p.grpstat
  else if off == 0x408 then p.ctlstat
  else if off == 0x500 then p.pwrlim
  else if off == 0x504 then p.templim
  else if off == 0x50C then BitVec.ofNat 32 p.temp
  else if off == 0x510 then (if p.force then 1 else 0)
  else if off == 0x628 then p.attstat
  else if off == 0x3000 then p.profrate
  else if 0x3100 ≤ off && off < 0x3300 then
    (match off % 32 / 8 with
      | 0 => half ch.ctl | 1 => half ch.base | 2 => half (BitVec.ofNat 64 ch.next) | _ => 0)
  else if 0x4000 ≤ off && off < 0x6000 then
    BitVec.ofNat 32 (leNat ((List.range 4).map fun i => Config.cert (off - 0x4000 + i)))
  else 0

/-- A word of the management range (R374, Table 3): an unassigned or write-only offset reads 0. -/
def State.mgmtWord (s : State) (off : Nat) : Word :=
  let half (v : DWord) : Word := if off % 8 == 0 then loWord v else hiWord v
  if off == 0x508 then
    BitVec.ofNat 32 (placed [(bit s.alarm, 0), (bit s.port.force, 1), (s.port.watts % 65536, 16)])
  else if 0x1000 ≤ off && off < 0x1800 then half (s.core ((off - 0x1000) / 8)).scrstall
  else if 0x1800 ≤ off && off < 0x2000 then half (s.core ((off - 0x1800) / 8)).recovered
  else if 0x2000 ≤ off && off < 0x2800 then half (s.core ((off - 0x2000) / 8)).timreplay
  else s.port.word off

/-- What the read of a word clears (R9, RS). -/
def Port.clearRead (p : Port) (off : Nat) : Port :=
  if off == 0x118 then { p with errLost := 0 }
  else if off == 0x310 then { p with grpstat := 0 }
  else if off == 0x408 then { p with ctlstat := 0 }
  else if off == 0x628 then { p with attstat := 0 }
  else p

/-- A read of a management register of 4 or 8 bytes: the value goes to the control node. -/
def State.mgmtRead (s : State) (off size : Nat) : State :=
  let offs := if size == 8 then [off, off + 4] else [off]
  let p := offs.foldl Port.clearRead s.port
  { s with port := { p with reply := offs.flatMap fun o => leBytes (s.mgmtWord o).toNat 4 } }

/-- One half of a 64-bit register written. -/
def setHalf (old : DWord) (off : Nat) (w : Word) : DWord :=
  if off % 8 == 0 then pairOf w (hiWord old) else pairOf (loWord old) w

/-- A word of a register that holds what is written (R8, R374). DESIGN CHOICE (log 17): a write of ERRLOGBASE loses bits 11:0,
since Table 3 says a multiple of 4,096 and not what another write does; one of PWRLIM or TEMPLIM outside its range is
ignored. -/
def Port.setWord (p : Port) (off : Nat) (w : Word) : Port :=
  let i := (off - 0x3100) / 32
  if off == 0x0 then { p with devnum := w &&& 0xFFFF }
  else if off == 0x100 || off == 0x104 then { p with errBase := setHalf p.errBase off w &&& 0xFFFFFFFFFFFFF000 }
  else if off == 0x108 then { p with errLen := w }
  else if off == 0x500 then (if 600 ≤ w.toNat && w.toNat ≤ 2400 then { p with pwrlim := w } else p)
  else if off == 0x504 then (if 60 ≤ w.toNat && w.toNat ≤ 105 then { p with templim := w } else p)
  else if off == 0x510 then { p with force := w.getLsbD 0 }
  else if 0x600 ≤ off && off < 0x620 then
    let at_ := 8 * (off - 0x600)
    { p with nonce := (p.nonce &&& ~~~(0xFFFFFFFF#256 <<< at_)) ||| (w.setWidth 256 <<< at_) }
  else if off == 0x3000 then { p with profrate := w &&& 0x1F }
  else if 0x3100 ≤ off && off < 0x3300 then
    { p with chans := p.chans.modify i fun c => match off % 32 / 8 with
        | 0 => { c with ctl := setHalf c.ctl off w &&& 0xFFFFFFFF001F003F }
        | 1 => { c with base := setHalf c.base off w }
        | _ => c }
  else p

/-- A refused transaction's record (R374). -/
def State.refuse (s : State) (addr access : Nat) : State :=
  s.logError { code := .addressRange, addr := addr, access := access, source := 2 }

/-- The management range. -/
def mgmtBase : Nat := 0xF00000000000

/-- A doorbell written (R376): refused without effect, or queued with what happened before it; full fault-queue slots are
examined again then (R349). -/
def State.doorbell (s : State) (p : Nat) (v : DWord) : State :=
  let q := s.port.dbells.getD p []
  if v.toNat % 128 != 0 then s.logError { code := .graphInvalid, addr := v.toNat, source := 2 }
  else if 256 ≤ q.length then s.refuse (mgmtBase + 0x200 + 8 * p) 2
  else { s with port := { s.port with dbells := s.port.dbells.set p (q ++ [(v, s.port.clock)]) } }.recheckAll

/-- A write of RSTCTL (R373): how the boot of a cold reset ends is the implementation's. -/
def State.resetControl (s : State) (w : Word) : State :=
  if w == 1 then s.warm
  else if w == 2 then
    let code := Config.bootCode s.fresh
    { s with fresh := s.fresh + 1 }.boot (if code == 0 then .ready else .stopped code)
  else s

/-- A management write of 4 or 8 bytes (R374, R376 to R378, R381): the registers that act on a write act on a whole one. -/
def State.mgmtWrite (s : State) (off size : Nat) (v : DWord) : State :=
  if !s.port.ready && off != 0x10 then s.refuse (mgmtBase + off) 2
  else if 0x200 ≤ off && off < 0x280 then (if size == 8 then s.doorbell ((off - 0x200) / 8) v else s)
  else if off == 0x10 then s.resetControl (loWord v)
  else if off == 0x300 then (if size == 8 then s.groupInstall v.toNat else s)
  else if off == 0x308 then (if size == 8 then s.groupRemove v.toNat else s)
  else if off == 0x400 then (if size == 8 then s.ctlop v else s)
  else if off == 0x620 then (if size == 8 then s.attestRequest v.toNat else s)
  else
    let p := s.port.setWord off (loWord v)
    { s with port := if size == 8 then p.setWord (off + 4) (hiWord v) else p }.settleAlarm

/-! Transactions (R374) -/

/-- Whether a transaction has a size and place the port takes (R374). -/
def spanOk (a n : Nat) : Bool := 1 ≤ n && n ≤ 256 && a % 256 + n ≤ 256

/-- Whether an address lies in the management range. -/
def inMgmt (a : Nat) : Bool := mgmtBase ≤ a && a < mgmtBase + 0x10000

/-- Whether a management access is of 4 or 8 bytes, naturally aligned. -/
def mgmtOk (a n : Nat) : Bool := (n == 4 || n == 8) && a % n == 0

/-- Whether the control-node port carries transactions: its link is up and not in a retrain (R356). -/
def State.portUp (s : State) : Bool :=
  let l := s.links.getD 24 ⟨0, 0, true, none⟩
  l.up && l.training.isNone

/-- A transaction of the control node: none comes while the port's link is down or in a retrain, where traffic waits
(R356, R374). -/
def State.viaPort (s : State) (r : State → Host.Outcome State Fault Refusal) : Host.Outcome State Fault Refusal :=
  if s.portUp then r s else .refused (.notEnabled "control-node port: its link carries nothing now")

/-- What the control node has seen: its accesses are at system scope, so that the releases it reads of that scope happen
before what it does next (R180, R181; log 6). -/
def outsideSees (clk : Clock) (l : List Rel) : Clock :=
  l.foldl (fun k r => if r.reaches 5 outsidePlace then clkJoin k r.clock else k) clk

/-- CONTROL_NODE_READ (R374): the data goes to the control node, which has then seen what it read released (R181). -/
def execControlNodeRead (a n : Nat) (s : State) : Host.Outcome State Fault Refusal :=
  s.viaPort fun s =>
  if inMgmt a then
    if !mgmtOk a n || (!s.port.ready && (a - mgmtBase != 0 || n != 4) && (a - mgmtBase != 8 || n != 4)) then
      .next (s.refuse a 1)
    else .next (s.mgmtRead (a - mgmtBase) n)
  else if !s.port.ready || !spanOk a n || !populated a n then .next (s.refuse a 1)
  else
    .next { s with port := { s.port with
      reply := memRead s.mem a n
      clock := outsideSees s.port.clock (relsOf s.tags a n) } }

/-- CONTROL_NODE_WRITE (R374): neither checked nor tagged (R187); a release at system scope of what the control node has
seen. -/
def execControlNodeWrite (a : Nat) (bytes : List Byte) (s : State) : Host.Outcome State Fault Refusal :=
  s.viaPort fun s =>
  let n := bytes.length
  if inMgmt a then
    if !mgmtOk a n then .next (s.refuse a 2)
    else .next (s.mgmtWrite (a - mgmtBase) n (BitVec.ofNat 64 (leNat bytes)))
  else if !s.port.ready || !spanOk a n || !populated a n then .next (s.refuse a 2)
  else .next (s.physStore (validRel s.port.clock outsidePlace) a bytes)

/-- MGMT_REGISTER_WRITE (R374). -/
def execMgmtRegisterWrite (off size : Nat) (val : DWord) (s : State) : Host.Outcome State Fault Refusal :=
  s.viaPort fun s =>
    if 0x10000 ≤ off || !mgmtOk off size then .next (s.refuse (mgmtBase + off) 2) else .next (s.mgmtWrite off size val)

/-- DBELL (R376). -/
def execDbell (prio : BitVec 4) (val : DWord) (s : State) : Host.Outcome State Fault Refusal :=
  s.viaPort fun s => .next (s.mgmtWrite (0x200 + 8 * prio.toNat) 8 val)

/-- GRPINST (R378). -/
def execGrpinst (addr : DWord) (s : State) : Host.Outcome State Fault Refusal :=
  s.viaPort fun s => .next (s.mgmtWrite 0x300 8 addr)

/-- GRPREMOVE (R378). -/
def execGrpremove (addr : DWord) (s : State) : Host.Outcome State Fault Refusal :=
  s.viaPort fun s => .next (s.mgmtWrite 0x308 8 addr)

/-- ATTREQ (R381). -/
def execAttreq (addr : DWord) (s : State) : Host.Outcome State Fault Refusal :=
  s.viaPort fun s => .next (s.mgmtWrite 0x620 8 addr)

/-- The read of a register that the read clears: refused before READY (R372). -/
def State.readClear (s : State) (off : Nat) : State :=
  if s.port.ready then s.mgmtRead off 4 else s.refuse (mgmtBase + off) 1

/-- GRPSTAT_READ (R9). -/
def execGrpstatRead (s : State) : Host.Outcome State Fault Refusal :=
  s.viaPort fun s => .next (s.readClear 0x310)
/-- CTLSTAT_READ (R9). -/
def execCtlstatRead (s : State) : Host.Outcome State Fault Refusal :=
  s.viaPort fun s => .next (s.readClear 0x408)
/-- ATTSTAT_READ (R9). -/
def execAttstatRead (s : State) : Host.Outcome State Fault Refusal :=
  s.viaPort fun s => .next (s.readClear 0x628)
/-- ERRLOST_READ (R9). -/
def execErrlostRead (s : State) : Host.Outcome State Fault Refusal :=
  s.viaPort fun s => .next (s.readClear 0x118)

/-- A control operation of one kind: OP of the written value says which (R377). -/
def ctlopAs (op : Nat) (name : String) (v : DWord) (s : State) : Host.Outcome State Fault Refusal :=
  if (v.extractLsb' 16 4).toNat == op then s.viaPort fun s => .next (s.mgmtWrite 0x400 8 v)
  else .refused (.notEnabled (name ++ ": OP is another"))

/-- CTLOP_RESUME (R377). -/
def execCtlopResume (val : DWord) (s : State) : Host.Outcome State Fault Refusal := ctlopAs 0 "CTLOP_RESUME" val s
/-- CTLOP_HALT_CREW (R377). -/
def execCtlopHaltCrew (val : DWord) (s : State) : Host.Outcome State Fault Refusal := ctlopAs 1 "CTLOP_HALT_CREW" val s
/-- CTLOP_HALT_WORKGROUP (R377). -/
def execCtlopHaltWorkgroup (val : DWord) (s : State) : Host.Outcome State Fault Refusal :=
  ctlopAs 2 "CTLOP_HALT_WORKGROUP" val s
/-- CTLOP_KILL_WORKGROUP (R377). -/
def execCtlopKillWorkgroup (val : DWord) (s : State) : Host.Outcome State Fault Refusal :=
  ctlopAs 3 "CTLOP_KILL_WORKGROUP" val s
/-- CTLOP_KILL_FAULT_DOMAIN (R377). -/
def execCtlopKillFaultDomain (val : DWord) (s : State) : Host.Outcome State Fault Refusal :=
  ctlopAs 4 "CTLOP_KILL_FAULT_DOMAIN" val s

/-! Fabric ports (R176) -/

/-- REMOTE_ACCESS (R176, R187): neither checked nor tagged; an unpopulated address takes nothing. -/
def execRemoteAccess (a : Nat) (op : RemoteOp) (s : State) : Host.Outcome State Fault Refusal :=
  match op with
  | .read _ => .next s
  | .write bytes => .next (if populated a bytes.length then s.physWrite a bytes else s)

end Sys2Proof.Machine
end

