-- ==== Sys2Proof/Machine/Reverse.lean ====
section
/-! DEFINITION. The backward walk: one reverse step, what ends a walk, latch-loss replay and register recovery (R322, R323,
R336, R344 to R348, R351). -/

namespace Sys2Proof.Machine

/-! What a reverse step restores -/

/-- What one record restores of the crew; a store's record is of memory (R111, R144, R336). -/
def Crew.restore (c : Crew) (b : WakeBody) : Crew :=
  match b with
  | .reg code rs => rs.zipIdx.foldl (fun c r => c.setVreg (code + r.2) r.1) c
  | .sreg code ws => ws.zipIdx.foldl (fun c w => c.setSreg (code + w.2) w.1) c
  | .pred n bits => { c with p := c.p.set n bits }
  | .spred n b => { c with sp := c.sp.set n b }
  | .cf old => { c with cf := old }
  | .mask old => { c with mask := old }
  | .store _ _ _ => c
  | .lfsr old => { c with lfsr := old }
  | .fmode old => { c with fmode := (c.fmode &&& ~~~(0x3F : Word)) ||| (old &&& 0x3F) }

/-- The first byte of the newest record's place in the ring that fails its check (R340, R352). -/
def Crew.recFails (c : Crew) (s : State) (r : WakeRec) : Option Nat :=
  let a := (c.ringBack c.wakep r.size).toNat
  let first := min r.size (c.shareBase.toNat + c.ring - a)
  if s.failing.isEmpty then none
  else if s.failingAt a first then some a
  else if s.failingAt c.shareBase.toNat (r.size - first) then some c.shareBase.toNat
  else none

/-- Why a reverse step has no effect: a fault, with the machine as the walks before it leave it (R200), or a wake record that
fails its check (R345, R352). -/
inductive Stop where
  | flt (s : State) (f : Flt)
  | wake (addr : Nat)
  deriving DecidableEq, Repr

/-- The bytes that a crew's signature has of a store that is undone (R357): they leave it. -/
def Crew.unsign (c : Crew) (w : Wg) (scratch : Bool) (n : Nat) (old : List Byte) : Crew :=
  if scratch || !(w.isShadow || w.sampled) then { c with crc := old } else { c with crc := old.take (old.length - n) }

/-- The write-backs of a store's record (R208, R345): checked together, then one plain store per thread, the highest
thread first; they count as the passes of a store (R362). -/
def Ctx.unstore (x : Ctx) (mask : Mask) (scratch : Bool) (size : Nat) (old : List (Nat × List Byte)) : Except Stop Ctx :=
  let reqs := (members mask).zip old |>.map fun p => (⟨p.1, (p.2.1 : Int)⟩ : AReq)
  match x.check scratch .store 1 false false size reqs with
  | .error f => .error (.flt (x.walked scratch .store false size reqs) f)
  | .ok (s, accs) =>
    let data : List (List Byte) := old.map fun e => e.2
    let y := ({ x with s := s }.observe scratch .store accs).writeAll scratch 1 .store (accs.zip data).reverse
    .ok { y with c := y.c.unsign x.w scratch (old.length * (8 + size)) x.c.crc }

/-- The store of a run-on at a count undone (R289): it leaves the buffer, and nothing is written. -/
def RunOn.drop (r : RunOn) (ic : DWord) : RunOn := { r with buf := r.buf.filter (·.ic != ic) }

/-- A crew whose run-on no longer holds the stores of the instruction at a count (R289). -/
def Crew.unbuffer (c : Crew) (ic : DWord) : Crew := { c with runon := c.runon.map (·.drop ic) }

/-- The records of the instruction at a count popped, newest first, each restoring what it holds (R336, R339). -/
def Ctx.popAll (x : Ctx) (ic : DWord) : Nat → Except Stop Ctx
  | 0 => .ok x
  | n + 1 =>
    match x.c.pop with
    | none => .ok x
    | some (r, c) =>
      if r.ic != ic then .ok x else
      match x.c.recFails x.s r with
      | some a => .error (.wake a)
      | none =>
        let c := if r.stepped then { c with lfsr := lfsrBackward c.lfsr } else c
        match r.body with
        | .store scr size old =>
          if c.runon.isSome then ({ x with c := c.unbuffer ic }).popAll ic n else
          match ({ x with c := c }).unstore r.mask scr size old with
          | .error e => .error e
          | .ok y => y.popAll ic n
        | b => ({ x with c := c.restore b }).popAll ic n

/-! The inverses of class I (R112, R114, R116, R119 to R121, R124, R210, R330, R332) -/

/-- The inverse of an update form d = d op a. -/
def Ctx.unBin (x : Ctx) (f : GFields) (inv : Word → Word → Word) : Ctx :=
  if f.uni then x.deliverS f.d (inv (x.c.sreg f.d.toNat) (x.c.scalarSrc f.a))
  else
    let d := x.dest f.d
    let a := x.srcA f.a
    { x with c := x.c.writeReg f.d.toNat x.act (perThread fun t => inv (lane d t) (lane a t)) }

/-- The inverse of an update form on a pair: the addend taken off. -/
def Ctx.unPair (x : Ctx) (f : GFields) (adds : Ctx → List DWord) (addS : Crew → DWord) : Ctx :=
  if f.uni then
    let r := x.c.pairS f.d - addS x.c
    (x.deliverS f.d (loWord r)).deliverS (f.d + 1) (hiWord r)
  else
    let l := adds x
    let old := threads.map fun t => pairOf (lane (x.dest f.d) t) (lane (x.dest (f.d + 1)) t) - l.getD t 0
    { x with c := (x.c.writeReg f.d.toNat x.act (lows old)).writeReg (f.d + 1).toNat x.act (highs old) }

/-- The inverse of an immediate form on a vector register. -/
def Ctx.unImm (x : Ctx) (f : IFields) (inv : Word → Word) : Ctx :=
  let d := x.dest f.d
  { x with c := x.c.writeReg f.d.toNat x.act (perThread fun t => inv (lane d t)) }

/-- The multiplicative inverse of an odd word modulo 2^32 (R121): five rounds of Newton's iteration. -/
def modInverse (m : Word) : Word :=
  let step (n : Word) : Word := n * (2 - m * n)
  step (step (step (step (step m))))

/-- The crew with free values in its latches, which a reverse step that names one finds invalid (R27; log 5). -/
def Ctx.freeLatches (x : Ctx) (a : BitVec 7) : Ctx :=
  if vecKind a != .l then x else
  let n := x.s.fresh
  { x with
    s := { x.s with fresh := n + 32 }
    c := { x.c with l := x.c.l.map fun k => { k with vals := perThread fun t => Config.freeWord (n + t) } } }

/-- The inverse of a plain XCHG of a run-on (R210, R289): each thread takes back what it has in the buffer, where nothing else
stands between it and the crew's own later stores, undone before it. -/
def Ctx.unbuffered (x : Ctx) (f : MFields) (r : RunOn) : Ctx :=
  let ic := x.c.ic - 1
  let bufs := ((r.buf.filter (·.ic == ic)).flatMap (·.entries)).map (·.2)
  let vals := perThread fun t => (((members x.act).zip bufs).find? (·.1 == t)).elim 0 fun p => wordOf p.2 0
  { x with c := (x.c.writeReg f.d.toNat x.act vals).unbuffer ic }

/-- The inverse of a plain XCHG (R210, R345): itself, the highest thread first. -/
def Ctx.unExchange (x : Ctx) (f : MFields) : Except Stop Ctx :=
  if x.act == 0 then .ok x else
  match x.c.runon with
  | some r => .ok (x.unbuffered f r)
  | none =>
  let scr := f.sp == 1
  let old := x.c.l
  let x := x.freeLatches f.a
  match x.check scr .both 1 false true 4 (x.addrs f 4) with
  | .error e => .error (.flt (x.walked scr .both false 4 (x.addrs f 4)) e)
  | .ok (s, accs) =>
    let r := ({ x with s := s }.observe scr .both accs).exchangeAll scr 1 (x.dest f.d) accs.reverse
    let vals := perThread fun t => ((r.2.find? (·.1 == t)).map (·.2)).getD 0
    let c := (r.1.c.writeReg f.d.toNat x.act vals).unsign x.w scr (accs.length * 12) x.c.crc
    .ok { r.1 with c := { c with l := old } }

/-- SWAP undone (R120). -/
def Ctx.unSwap (x : Ctx) (f : GFields) : Ctx :=
  if f.uni then
    let p := x.c.sreg f.d.toNat
    (x.deliverS f.d (x.c.sreg f.a.toNat)).deliverS f.a p
  else
    let p := x.dest f.d
    { x with c := (x.c.writeReg f.d.toNat x.act (x.dest f.a)).writeReg f.a.toNat x.act p }

/-- PXOR undone (R124): itself, on the predicates as they stand. DESIGN CHOICE (log 33): so too under a guard that names the
predicate it wrote, which then reads as the PXOR left it; R124 gives its class and R112 no other inverse. -/
def Ctx.unPxor (x : Ctx) (f : GFields) : Ctx :=
  if f.uni then
    let b := x.c.sp.getD f.d.toNat false != (f.a.toNat < 4 && x.c.sp.getD f.a.toNat false)
    { x with c := { x.c with sp := x.c.sp.set f.d.toNat b } }
  else { x with c := x.c.setPred f.d.toNat x.act (x.c.pred f.d.toNat ^^^ x.c.pred f.a.toNat) }

/-- The inverse of a class I instruction. -/
def Ctx.invert (x : Ctx) (i : Instr) : Except Stop Ctx :=
  match i with
  | .iadd f => .ok (x.unBin f (· - ·))
  | .isub f => .ok (x.unBin f (· + ·))
  | .xor f => .ok (x.unBin f (· ^^^ ·))
  | .rot f => .ok (x.unBin f rotr)
  | .lea f => .ok (x.unPair f (fun x => (x.srcA f.a).map (·.signExtend 64)) fun c => (c.scalarSrc f.a).signExtend 64)
  | .leau f => .ok (x.unPair f (fun x => (x.srcA f.a).map (·.setWidth 64)) fun c => (c.scalarSrc f.a).setWidth 64)
  | .add64 f => .ok (x.unPair f (fun x => x.pairA f.a) fun c => c.pairS f.a)
  | .swap f => .ok (x.unSwap f)
  | .iaddi f => .ok (x.unImm f (· - immS f))
  | .imuli f => .ok (x.unImm f (· * modInverse (immS f)))
  | .xori f => .ok (x.unImm f (· ^^^ immZ f))
  | .roti f => .ok (x.unImm f (rotr · (immZ f)))
  | .saddi f => .ok { x with c := x.c.setSreg f.d.toNat (x.c.sreg f.d.toNat - immS f) }
  | .loop f => .ok { x with c := x.c.setSreg f.d.toNat (x.c.sreg f.d.toNat + 1) }
  | .pxor f => .ok (x.unPxor f)
  | .divr _ => .ok { x with c := { x.c with mask := x.c.mstack.headD x.c.mask, mstack := x.c.mstack.tail } }
  | .xchg f => x.unExchange f
  | _ => .ok x

/-- The s registers a word writes. -/
def View.scalDests (w : View) : List Nat :=
  (w.operands.filter fun o => w.uni && o.role.dir != .rd && uniKind o.code == .s).flatMap fun o =>
    (List.range o.role.n).map (o.code.toNat + ·)

/-- What a fresh word wrote set to zero (R55, R111). -/
def Ctx.unFresh (x : Ctx) (i : Instr) : Ctx :=
  let c := (view i).vecDests.foldl (fun c r => c.writeReg r x.act zeros32) x.c
  { x with c := (view i).scalDests.foldl (fun c r => c.setSreg r 0) c }

/-- Whether an instruction stepped the generator (R103); a PACK says so in its record. -/
def steppedGen (i : Instr) (c : Crew) : Bool :=
  let sr (rnd : Nat) : Bool := (c.fenv rnd).mode == .sr
  match i with
  | .rand _ => true
  | .rcp _ | .rsq _ | .sqrt _ | .ex2 _ | .lg2 _ | .sin _ | .cos _ | .tanh _ | .scal _ | .dot4f _ | .redlFadd _
  | .scanlFadd _ => sr 0
  | _ => match view i with
    | .fmtF _ f => sr f.rnd.toNat
    | _ => false

/-- Whether a lane word, which shifts no latch where no thread is active (R138). -/
def isLaneWord : Instr → Bool
  | .shfl _ | .vote _ | .matchAny _ | .rand _ | .redlAdd _ | .redlFadd _ | .scanlAdd _ | .scanlFadd _ | .redlMin _
  | .redlMax _ | .scanlMin _ | .scanlMax _ => true
  | _ => false

/-- Whether an undone instruction had shifted the latches (R25, R348); the crew is as before it. -/
def shiftedLatch (i : Instr) (c : Crew) : Bool := (view i).shifts && !(isLaneWord i && c.active == 0)

/-- The effects of an instruction undone, all of them or none (R336, R344). -/
def Ctx.undo (x : Ctx) (i : Instr) : Except Stop Ctx :=
  let x := match i with
    | .merge _ => { x with c := { x.c with mstack := x.c.mask :: x.c.mstack } }
    | _ => x
  match x.popAll (x.c.ic - 1) x.c.wake.length with
  | .error e => .error e
  | .ok y =>
    let y := if steppedGen i y.c then { y with c := { y.c with lfsr := lfsrBackward y.c.lfsr } } else y
    match undoOf i with
    | .inverse => y.invert i
    | .fresh => .ok (y.unFresh i)
    | _ => .ok y

/-! The walk (R323, R344) -/

/-- The end of a walk (R323, R343, R347, R348, R351): DIR 0, latches invalid; the crew runs forwards, or stays HALTED for
the debug interface. `lost`: a latch-loss replay found no producer. -/
def Crew.endWalk (c : Crew) (k : Walk) (lost : Bool) : Crew :=
  let c := { c.clearLatches with walk := none }
  match k.why with
  | .rewind => c.atPacket
  | .latch => { c with replays := ⟨k.home, true, lost, [], []⟩ :: c.replays }.atPacket
  | .recover => { c with replays := ⟨k.home, false, false, k.regs, k.roots⟩ :: c.replays }.atPacket
  | .debug =>
    if c.ic == k.home then c
    else { c with
      st := .ready, reason := .none, steps := some (k.home - c.ic).toNat
      replays := ⟨k.home, false, false, k.regs, k.roots⟩ :: c.replays }

/-- Whether a walk has reached its end (R343, R348). -/
def Walk.over (k : Walk) (c : Crew) : Bool := if k.why == .latch then k.left == 0 || c.ic ≤ c.commit else c.ic ≤ k.target

/-- A fault at a reverse step (R345): a replayable one parks the crew in its walk, or leaves it HALTED with PARKPEND; any
other ends the walk and is delivered, or leaves it HALTED with REASON 2. One met while the crew runs on raises
nothing and rolls it back (R195). -/
def State.walkFault (s : State) (c : Crew) (w : Wg) (f : Flt) : State :=
  let rec_ := crewRecord w c f c.ic
  if c.runon.isSome then let r := s.rolledBack c; r.1.setCrew r.2
  else if c.st != .halted then s.deliver (if f.code.replayable then c else { c with walk := none }) f c.pc c.ic
  else if w.isShadow then s.abandon w.uid
  else if f.code.replayable then ((s.abandon w.uid).setCrew { c with parkpend := true }).reportCrew w c rec_
  else
    let c : Crew := { (c.commitHere c.pc).clearLatches with walk := none, xfer := false, replays := [] }
    ((s.abandon w.uid).setCrew (c.halt .fault)).reportCrew w c rec_

/-- A walk whose wake record fails its check (R345, R352). -/
def State.wakeFault (s : State) (c : Crew) (w : Wg) (k : Walk) (addr : Nat) : State :=
  match k.why with
  | .latch => s.setCrew (c.endWalk k true)
  | .recover => s.killWg Code.stateUncorrectable.num w.uid
  | _ => s.walkFault c w { code := .memoryUncorrectable, addr := addr, access := 1 }

/-- The failing registers that a reverse step would read and that the walk does not already repair (R351). -/
def Crew.backReads (c : Crew) (k : Walk) (i : Instr) : List Nat :=
  if undoOf i == .inverse then (c.failing (view i).vecSrcs).filter fun r => !k.regs.contains r else []

/-- A failing word met during a walk (R351): a new plan, with all the registers; a walk with a target of its own goes on,
or goes further back and forwards again to its target. -/
def State.replan (s : State) (c : Crew) (w : Wg) (k : Walk) (regs : List Nat) : State :=
  let r := s.recover w c regs
  match r.2 with
  | .error f => r.1.walkFault c w f
  | .ok d =>
    match k.why, d.walk with
    | .rewind, some j =>
      if k.target ≤ j.target then r.1.setCrew { c with walk := some { k with regs := j.regs, roots := j.roots, now := j.now } }
      else r.1.setCrew { c with walk := some { j with home := k.target } }
    | .debug, some j =>
      if k.target ≤ j.target then r.1.setCrew { c with walk := some { k with regs := j.regs, roots := j.roots, now := j.now } }
      else r.1.setCrew { c with walk := some { j with why := .debug, home := k.home } }
    | _, j => r.1.setCrew { c with walk := j }

/-- A walk come back to the BWAIT.S of a run-on: with that undone the crew runs on no longer (R194). -/
def State.leaveRunOn (s : State) (c : Crew) : State × Crew :=
  if c.runon.any (·.ic == c.ic - 1) then
    ({ s with snaps := s.snaps.filter fun x => !(x.wg == c.wg && x.idx == c.idx) }, { c with runon := none })
  else (s, c)

/-- One turn of a walk of a crew (R344): its end, a HALT between two steps (R346), or one instruction undone. -/
def State.walkOn (s : State) (c : Crew) (w : Wg) (k : Walk) : State :=
  if c.halting != .none && c.st == .ready then s.leave (c.halt c.halting)
  else if k.over c then s.leave (c.endWalk k (k.left != 0))
  else
    let q := s.leaveRunOn c
    let s := q.1
    let c := q.2
    let r := s.prevInstr w c.cursor
    match r.2 with
    | .error f => r.1.walkFault c w f
    | .ok p =>
      match c.backReads k p.i with
      | q :: qs => r.1.replan c w k (q :: qs)
      | [] =>
        match (⟨r.1, { c with pfx := p.pfx }, w, c.pc, false⟩ : Ctx).undo p.i with
        | .error (.flt t f) => (r.1.walkedBy t).walkFault c w f
        | .error (.wake a) => r.1.wakeFault c w k a
        | .ok y =>
          let b := c.cursor.back p
          let left := if shiftedLatch p.i y.c then k.left - 1 else k.left
          let now := if k.now.isEmpty then [] else (planStep c.wake (c.ic - 1) p.i k.now).getD k.now
          let k := { k with left := left, now := now }
          let d : Crew := { y.c.unlost (view p.i).vecDests b.ic with pfx := none, pc := b.pc, ic := b.ic, xfer := b.xfer, bkptOnce := false, walk := some k }
          y.sync.leave (if k.over d then d.endWalk k (left != 0) else d)

/-- Whether a crew's walk can go on: it is READY, or walked by the debug interface while HALTED (R345, R347). -/
def Crew.walks (c : Crew) : Bool :=
  match c.walk with
  | none => false
  | some k => c.st == .ready || (c.st == .halted && k.why == .debug && !c.parkpend)

/-- REVERSE_STEP (R344). -/
def execReverseStep (r : CrewRef) (s : State) : Host.Outcome State Fault Refusal :=
  match s.residentCrew r with
  | none => .refused (.notEnabled "REVERSE_STEP: no such crew")
  | some (c, w) =>
    match c.walk with
    | none => .refused (.notEnabled "REVERSE_STEP: the crew does not walk")
    | some k =>
      if c.walks then .next (s.walkOn c w k) else .refused (.notEnabled "REVERSE_STEP: the crew's walk is held")

/-- LATCH_LOSS_REPLAY (R348): the crew's next word reads an invalid latch, and the walk back to its producer begins. -/
def execLatchLossReplay (r : CrewRef) (s : State) : Host.Outcome State Fault Refusal :=
  match ({ s with cur := some r }).ctx with
  | none => .refused (.notEnabled "LATCH_LOSS_REPLAY: no such crew runs")
  | some x =>
    let q := s.fetchNext x.w x.c
    match q.2.2 with
    | .error _ => .refused (.notEnabled "LATCH_LOSS_REPLAY: the next word cannot be fetched")
    | .ok word =>
      let i := instrOf word
      match gate i { x with s := q.1, c := q.2.1 } with
      | some (.keep y) =>
        if y.c.walk.any (·.why == .latch) then .next (y.sync.setCrew y.c)
        else .refused (.notEnabled "LATCH_LOSS_REPLAY: the next word reads no invalid latch")
      | _ => .refused (.notEnabled "LATCH_LOSS_REPLAY: the next word reads no invalid latch")

/-- REGISTER_ERROR_RECOVERY (R351): words of a register fail their check; the instruction that next reads one recovers it
by a walk and a forward run. -/
def execRegisterErrorRecovery (r : CrewRef) (code : BitVec 7) (bad : Mask) (s : State) :
    Host.Outcome State Fault Refusal :=
  match s.residentCrew r with
  | none => .refused (.notEnabled "REGISTER_ERROR_RECOVERY: no such crew")
  | some (c, _) =>
    let n := code.toNat
    let held := if n < 96 then decide (n < c.v.length) else vecKind code == .o
    if bad == 0 || !held || c.st == .exited then
      .refused (.notEnabled "REGISTER_ERROR_RECOVERY: the crew holds no such word")
    else
      let old := ((c.badRegs.find? (·.1 == n)).map (·.2)).getD 0
      .next (s.setCrew { c with badRegs := (n, old ||| bad) :: c.badRegs.filter (·.1 != n) })

end Sys2Proof.Machine
end

