-- ==== Sys2Proof/Machine/Debug.lean ====
section
/-! DEFINITION. The debug interface (R358, R359): operations on the crews of the attached subtree, breakpoints and
watchpoints. -/

namespace Sys2Proof.Machine

/-- What the interface is told of an operation: a refusal's code or none, and data (R358). -/
def State.tell (s : State) (code : Option Code) (reply : List Byte) : State :=
  { s with dbg := { s.dbg with refused := code, reply := reply } }

/-- A debug operation is a transaction of the control-node port: refused without effect before READY (R358, R372, R377). -/
def State.viaDebug (s : State) (r : State → State) : Host.Outcome State Fault Refusal :=
  s.viaPort fun s => .next (if s.port.ready then r s else s.refuse mgmtBase 0)

/-- An operation on a crew (R358): refused where there is no such crew or it lies outside the attached subtree; no party
sees a shadow (R357). -/
def State.onFound (s : State) (q : Option (Crew × Wg)) (f : Crew → Wg → State) : State :=
  match q with
  | none => s.tell (some .targetAbsent) []
  | some (c, w) =>
    if w.isShadow then s.tell (some .targetAbsent) []
    else if s.attached w then f c w else s.tell (some .targetDenied) []

/-- An operation on a resident crew (R358). -/
def State.onCrew (s : State) (r : CrewRef) (f : State → Crew → Wg → State) : Host.Outcome State Fault Refusal :=
  s.viaDebug fun s => s.onFound (s.residentCrew r) (f s)

/-- An operation on a HALTED crew (R358). -/
def State.onHalted (s : State) (r : CrewRef) (f : State → Crew → Wg → State) : Host.Outcome State Fault Refusal :=
  s.onCrew r fun s c w => if c.st == .halted then f s c w else s.tell (some .targetState) []

/-- A crew as the debug interface reads it: that of a saved workgroup from its image (R317). -/
def State.seenCrew (s : State) (r : CrewRef) : Option (Crew × Wg) :=
  match s.wg? r.wg with
  | none => none
  | some w =>
    let t := if w.core.isNone then s.readImage w else s
    match t.crew? r with
    | some c => some (c, w)
    | none => none

/-- DEBUG_HALT_CREW (R358). -/
def execDebugHaltCrew (r : CrewRef) (s : State) : Host.Outcome State Fault Refusal :=
  s.onCrew r fun s c _ => (s.haltCrew c .debug).tell none []

/-- DEBUG_HALT_WORKGROUP (R358). -/
def execDebugHaltWorkgroup (uid : Nat) (s : State) : Host.Outcome State Fault Refusal :=
  s.viaDebug fun s => match s.wg? uid with
    | none => s.tell (some .targetAbsent) []
    | some w =>
      if w.core.isNone || w.isShadow then s.tell (some .targetAbsent) []
      else if s.attached w then (s.haltWg uid .debug).tell none []
      else s.tell (some .targetDenied) []

/-- DEBUG_RESUME (R309, R358). -/
def execDebugResume (r : CrewRef) (s : State) : Host.Outcome State Fault Refusal :=
  s.onCrew r fun s c _ => (s.setCrew c.resumed).tell none []

/-- DEBUG_STEP (R358): the crew resumed for n instructions, 1 to 2^32. -/
def execDebugStep (r : CrewRef) (n : Nat) (s : State) : Host.Outcome State Fault Refusal :=
  if n == 0 || 2 ^ 32 < n then .refused (.notEnabled "DEBUG_STEP: the count lies outside 1 to 2^32") else
  s.onHalted r fun s c _ =>
    let d := c.resumed
    (s.setCrew (if d.st == .ready then { d with steps := some n } else d)).tell none []

/-- DEBUG_STEP_END (R358): a stepped crew that waits, stalls or parks is HALTED there. -/
def execDebugStepEnd (r : CrewRef) (s : State) : Host.Outcome State Fault Refusal :=
  match s.residentCrew r with
  | none => .refused (.notEnabled "DEBUG_STEP_END: no such crew")
  | some (c, _) =>
    if c.steps == some 0 || (c.steps.isSome && (c.st == .blocked || c.st == .stalled || c.st == .parked)) then
      .next (s.haltCrew c .debug)
    else .refused (.notEnabled "DEBUG_STEP_END: the step goes on")

/-- DEBUG_BACK (R347, R358): the walk to a target; the crew stays HALTED. -/
def execDebugBack (r : CrewRef) (t : DWord) (s : State) : Host.Outcome State Fault Refusal :=
  s.onHalted r fun s c _ =>
    if c.ic < t then s.tell (some .controlInvalid) []
    else if t < c.commit then s.tell (some .rewindPastCommit) []
    else if t == c.ic then s.tell none []
    else (s.setCrew { c.clearLatches with walk := some ⟨t, .debug, 0, t, [], [], []⟩, parkpend := false }).tell none []

/-! State of a HALTED crew (R277, R358) -/

/-- Whether a crew holds a v or o register. -/
def Crew.holds (c : Crew) (code : BitVec 7) : Bool :=
  match vecKind code with
  | .v => decide (code.toNat < c.v.length)
  | .o => true
  | _ => false

/-- The bytes that a read of an item answers; none for a register the crew does not hold. -/
def Crew.item (c : Crew) (i : DebugItem) : List Byte :=
  match i with
  | .reg code t => if c.holds code then leBytes (lane (c.vreg code.toNat).vals t.toNat).toNat 4 else []
  | .tag code => if c.holds code then leBytes (c.vreg code.toNat).tag.num 4 else []
  | .pred n => leBytes (c.pred n.toNat).toNat 4
  | .spred n => leBytes (bit (c.sp.getD n.toNat false)) 4
  | .sreg n => leBytes (c.sreg n.toNat).toNat 4
  | .fmode => leBytes c.fmode.toNat 4
  | .mailbox n => leBytes (c.mbox n.toNat).val.toNat 4
  | .mailboxFull n => leBytes (bit (c.mbox n.toNat).full) 4
  | .pc => leBytes c.pc.toNat 8
  | .dir => leBytes (bit c.dir) 4
  | .target => leBytes ((c.walk.map (·.target.toNat)).getD 0) 8

/-- A tag that the values of a register fit, G where they do not fit the one asked for (R35). -/
def fitTag (n : Nat) (l : List Word) : Tag :=
  match n with
  | 0 => if isUniform l then .U else .G
  | 1 => if isAffine l then .A else .G
  | _ => .G

/-- A crew with an item written; the PC is written apart (R305). An FMODE whose RND is reserved is not taken (R97). -/
def Crew.writeItem (c : Crew) (i : DebugItem) (v : DWord) : Crew :=
  match i with
  | .reg code t => if c.holds code then c.writeReg code.toNat (1 <<< t.toNat) (perThread fun _ => loWord v) else c
  | .tag code =>
    if c.holds code then
      let r := c.vreg code.toNat
      c.setVreg code.toNat { r with tag := fitTag v.toNat r.vals }
    else c
  | .pred n => c.setPred n.toNat allThreads (loWord v)
  | .spred n => { c with sp := c.sp.set n.toNat (v.getLsbD 0) }
  | .sreg n => c.setSreg n.toNat (loWord v)
  | .fmode =>
    let rnd := (v.extractLsb' 0 3).toNat
    if rnd == 0 || rnd == 7 then c else { c with fmode := loWord v &&& fmodeBits }
  | .mailbox n => c.setMbox n.toNat { c.mbox n.toNat with val := loWord v }
  | .mailboxFull n => c.setMbox n.toNat { c.mbox n.toNat with full := v.getLsbD 0 }
  | .pc | .dir | .target => c

/-- DEBUG_READ_STATE (R317, R323, R358). -/
def execDebugReadState (r : CrewRef) (i : DebugItem) (s : State) : Host.Outcome State Fault Refusal :=
  s.viaDebug fun s => s.onFound (s.seenCrew r) fun c _ =>
    if c.st == .halted then s.tell none (c.item i) else s.tell (some .targetState) []

/-- DEBUG_WRITE_STATE (R277, R305, R358). -/
def execDebugWriteState (r : CrewRef) (i : DebugItem) (v : DWord) (s : State) : Host.Outcome State Fault Refusal :=
  s.onHalted r fun s c _ =>
    (match i with | .pc => s.writePc c v | _ => s.setCrew (c.writeItem i v)).tell none []

/-- DEBUG_READ_WAKE (R301, R358): the retained records, oldest first. -/
def execDebugReadWake (r : CrewRef) (s : State) : Host.Outcome State Fault Refusal :=
  s.viaDebug fun s => s.onFound (s.seenCrew r) fun c _ => s.tell none c.wakeBytes

/-! Breakpoints, watchpoints, attachment -/

/-- What is set for the attached subtree; with none attached there is nothing to set it for (R358). -/
def State.setDebug (s : State) (f : Debug → Debug) : Host.Outcome State Fault Refusal :=
  if s.dbg.region.isNone then .refused (.notEnabled "DEBUG: no subtree is attached")
  else s.viaDebug fun s => { s with dbg := f { s.dbg with refused := none, reply := [] } }

/-- Run-ons of the attached subtree rolled back, where a watchpoint may now lie on what they have loaded or hold back: after the
wait their accesses are checked against it (R193, R359, log 26). -/
def State.rewatch (s : State) : State :=
  if s.port.ready then s.rollRunons fun c _ => (s.wg? c.wg).any s.attached else s

/-- DEBUG_BREAKPOINT_ON (R334, R358). -/
def execDebugBreakpointOn (n : BitVec 5) (s : State) : Host.Outcome State Fault Refusal :=
  s.setDebug fun d => { d with breaks := d.breaks ||| ((1 : BitVec 32) <<< n.toNat) }

/-- DEBUG_BREAKPOINT_OFF (R334, R358). -/
def execDebugBreakpointOff (n : BitVec 5) (s : State) : Host.Outcome State Fault Refusal :=
  s.setDebug fun d => { d with breaks := d.breaks &&& ~~~((1 : BitVec 32) <<< n.toNat) }

/-- DEBUG_WATCHPOINT_SET (R359). -/
def execDebugWatchpointSet (n : BitVec 2) (p : Watchpoint) (s : State) : Host.Outcome State Fault Refusal :=
  if p.ok then s.rewatch.setDebug fun d => { d with watch := d.watch.set n.toNat (some p) }
  else .refused (.notEnabled "DEBUG_WATCHPOINT_SET: the range is none of R359")

/-- DEBUG_WATCHPOINT_CLEAR (R359). -/
def execDebugWatchpointClear (n : BitVec 2) (s : State) : Host.Outcome State Fault Refusal :=
  s.setDebug fun d => { d with watch := d.watch.set n.toNat none }

/-- DEBUG_ATTACH (R358): to one region and its subtree at a time, whose breakpoints and watchpoints are clear. -/
def execDebugAttach (region : Nat) (s : State) : Host.Outcome State Fault Refusal :=
  s.viaDebug fun s => { s with dbg := ⟨some region, 0, List.replicate 4 none, none, []⟩ }

/-- DEBUG_DETACH (R358). -/
def execDebugDetach (s : State) : Host.Outcome State Fault Refusal :=
  s.viaDebug fun s => { s with dbg := ⟨none, 0, List.replicate 4 none, none, []⟩ }

end Sys2Proof.Machine
end

