-- ==== Sys2Proof/Machine/Reliab.lean ====
section
/-! DEFINITION. The hang watchdog, errors that kill or are reported, timing replays and the removal of a core, samples of
the PC, links (R295, R352, R355, R356, R360). -/

namespace Sys2Proof.Machine

/-! The watchdog (R295) -/

/-- WATCHDOG_EXPIRED for one crew (R295): at the instruction it waits on, after any rollback; a crew that runs, walks or is
PARKED raises it at its next instruction, with the stall reason it has now (R350). -/
def State.expireCrew (s : State) (w : Wg) (c : Crew) : State :=
  match c.st with
  | .exited | .halted => s
  | .ready | .parked => s.setCrew { c with expired := some (s.stallReason w c false) }
  | _ =>
    let r := if c.runon.isSome then s.rolledBack c else (s, c)
    r.1.deliver r.2 { code := .watchdogExpired, detail := s.stallReason w c false } r.2.pc r.2.ic

/-- Whether a workgroup's watchdog has reached its limit (R295): WDOG 0 is off (R248). -/
def State.watchdogDue (s : State) (w : Wg) : Bool :=
  w.core.isSome && !(s.crewsOf w.uid).any (·.st == .halted) && (s.effOf w).any fun e => e.wdog != 0 && 2 ^ (19 + e.wdog) ≤ w.hang

/-- WATCHDOG_EXPIRED (R295): a shadow whose watchdog expires is abandoned (R357). -/
def execWatchdogExpired (uid : Nat) (s : State) : Host.Outcome State Fault Refusal :=
  match s.wg? uid with
  | none => .refused (.notEnabled "WATCHDOG_EXPIRED: no such workgroup")
  | some w =>
    if !s.watchdogDue w then .refused (.notEnabled "WATCHDOG_EXPIRED: the limit is not reached")
    else if w.isShadow then .next (s.abandon uid)
    else
      let crews := s.crewsOf uid
      .next (crews.foldl (fun s c => match s.crew? c.ref with
        | some c => s.expireCrew w c
        | none => s) (s.clearHang uid))

/-! Errors (R352) -/

/-- A crew's latch found bad: it is invalid from now on (R27, R352). -/
def Crew.badLatch (c : Crew) (n : Nat) : Crew := { c with l := c.l.modify n fun x => { x with valid := false } }

/-- On-chip state of a workgroup other than the crew's own that fails its check: a word of the scratchpad, an element of a
tile, a column of a weight slot; none where the workgroup has no such unit. -/
def Wg.upset (w : Wg) (unit : Upset) : Option Wg :=
  match unit with
  | .scratch n => if n < 256 * w.scrgran then some { w with scrFailing := n :: w.scrFailing.filter (· != n) } else none
  | .tile n e => if n < w.acc && e < 2048 then
      some { w with tiles := w.tiles.modify n fun t => { t with failing := e :: t.failing.filter (· != e) } } else none
  | .slot n col => if n < w.wsl && (w.slot n).loaded && col < 64 then
      some { w with slots := w.slots.modify n fun k => { k with failing := col :: k.failing.filter (· != col) } } else none
  | _ => none

/-- STATE_ERROR_KILL (R352, R354): an error in on-chip state that its check bits detect and do not correct. In the state of
crews and queues it kills the workgroup; a latch becomes invalid; a word of the scratchpad, of a tile or of a weight slot
fails from now on. -/
def execStateErrorKill (e : UpsetAt) (s : State) : Host.Outcome State Fault Refusal :=
  match s.wg? e.wg with
  | none => .refused (.notEnabled "STATE_ERROR_KILL: no such workgroup")
  | some w =>
    match e.unit with
    | .crewState => .next (s.killWg Code.stateUncorrectable.num e.wg)
    | .latch k n =>
      match s.crew? ⟨e.wg, k⟩ with
      | some c => if n < 4 then .next (s.setCrew (c.badLatch n)) else .refused (.notEnabled "STATE_ERROR_KILL: no such latch")
      | none => .refused (.notEnabled "STATE_ERROR_KILL: no such crew")
    | u =>
      match if w.core.isSome then w.upset u else none with
      | some v => .next (s.setWg v)
      | none => .refused (.notEnabled "STATE_ERROR_KILL: no such unit on the chip")

/-- SCRUB_ERROR_REPORT (R352): the protected unit that holds an address fails from now on, and the error log says so. -/
def execScrubErrorReport (addr : Nat) (s : State) : Host.Outcome State Fault Refusal :=
  if !populated addr 1 then .refused (.notEnabled "SCRUB_ERROR_REPORT: no memory is there")
  else
    let u := addr / 8
    let s := if s.failing.contains u then s else { s with failing := u :: s.failing }
    .next (s.logError { code := .memoryUncorrectable, addr := 8 * u, source := 3 })

/-! Timing margins (R355) -/

/-- TIMING_REPLAY (R355): only timing and the core's counter change. -/
def execTimingReplay (core : Nat) (s : State) : Host.Outcome State Fault Refusal :=
  if s.cores.length ≤ core || (s.core core).removed then .refused (.notEnabled "TIMING_REPLAY: no such core")
  else .next (s.modCore core fun k => { k with timreplay := k.timreplay + 1 })

/-- The error-log record of a removed core (R355): its CODE, one of those listed, and DETAIL are not stated (log 5). -/
def State.logRemoval (s : State) : State :=
  let n := s.fresh
  let code := Code.listed.getD (Config.freeNat n % Code.listed.length) .stateUncorrectable
  { s with fresh := n + 2 }.logError { code := code, detail := Config.freeNat (n + 1) &&& code.detailBits, source := 3 }

/-- Whether a core's workgroups can all leave it now (R355): each is a shadow, has no room for its image, or has stopped. -/
def State.coreStopped (s : State) (core : Nat) : Bool :=
  (s.onCore core).all fun w => w.isShadow || (s.savePlace w).isNone || s.saveReady w

/-- The workgroups of a core saved, at the addresses given where some are, or killed where no image fits (R355); shadows
abandoned. None where an image does not fit at the address given. -/
def State.clearCore (s : State) (saves : List (Nat × Nat)) : List Wg → Option State
  | [] => some s
  | w :: rest =>
    if w.isShadow then (s.abandon w.uid).clearCore saves rest
    else match s.savePlace w with
      | none => (s.killWg Code.stateUncorrectable.num w.uid).clearCore saves rest
      | some a =>
        let a := (mapGet saves w.uid).getD a
        if s.saveFits w a then (s.saveAt w.uid a).clearCore saves rest else none

/-- CORE_REMOVAL (R355): the core takes no workgroup from now on; once its crews have stopped at their packet boundaries
(R268), its workgroups are saved and it leaves placement. -/
def execCoreRemoval (core : Nat) (saves : List (Nat × Nat)) (s : State) : Host.Outcome State Fault Refusal :=
  if s.cores.length ≤ core || (s.core core).removed then .refused (.notEnabled "CORE_REMOVAL: no such core")
  else if !s.coreStopped core then
    if (s.core core).leaving then .refused (.notEnabled "CORE_REMOVAL: a workgroup has yet to stop")
    else .next ((s.markSaving (s.onCore core) true).modCore core fun k => { k with leaving := true })
  else match s.clearCore saves (s.onCore core) with
    | none => .refused (.notEnabled "CORE_REMOVAL: an image does not fit at the address given")
    | some t => .next (t.modCore core fun k => { k with removed := true, leaving := false }).logRemoval

/-! Samples of the PC (R360) -/

/-- The next occupied slot after the one sampled last, ascending with wrap; no party observes a shadow (R357). -/
def State.nextSampled (s : State) (core sched last : Nat) : Option Crew :=
  let crews := (s.onCore core).flatMap fun w => if w.isShadow then [] else (s.crewsOf w.uid).filter (·.sched == sched)
  (List.range 16).findSome? fun k => crews.find? fun c => c.slot == (last + 1 + k) % 16

/-- The reason of a sampled crew, and whether it issued in the cycle, which is timing where it is READY (log 5). -/
def State.sampleReason (s : State) (w : Wg) (c : Crew) : State × Nat × Bool :=
  if c.st != .ready || c.walk.isSome then (s, s.stallReason w c false, false)
  else
    let b := s.freeBit
    if b.1 then (b.2, 0, true)
    else if c.replays.any (·.latch) then (b.2, 20, false)
    else ({ b.2 with fresh := b.2.fresh + 1 }, [16, 2, 3, 17, 18].getD (Config.freeNat b.2.fresh % 5) 16, false)

/-- PC_SAMPLE (R360, Table 9). -/
def execPcSample (core sched : Nat) (s : State) : Host.Outcome State Fault Refusal :=
  let rate := (s.port.profrate.extractLsb' 0 5).toNat
  match ((s.core core).scheds[sched]?) with
  | none => .refused (.notEnabled "PC_SAMPLE: no such scheduler")
  | some q =>
    if rate < 8 || 20 < rate || s.cores.length ≤ core then .refused (.notEnabled "PC_SAMPLE: sampling is disabled") else
    match s.nextSampled core sched q.sampled with
    | none => .next s
    | some c =>
      let s := s.modCore core fun k => { k with scheds := k.scheds.set sched { q with sampled := c.slot } }
      match s.wg? c.wg with
      | none => .next s
      | some w =>
        match s.port.chans.zipIdx.filter fun ch => ch.1.ctl.getLsbD 0 && (ch.1.ctl.extractLsb' 32 32).toNat == w.region / 512 with
        | [] => .next s
        | l =>
          let r := s.sampleReason w c
          .next (l.foldl (fun s ch => s.chanWrite ch.2 (leBytes (w.index.toNat + c.idx * 2 ^ 49 + bit r.2.2 * 2 ^ 54 +
            r.2.1 * 2 ^ 55 + c.pc.toNat * 2 ^ 64) 16)) r.1)

/-! Links (R356) -/

/-- Whether a number names a link (R356). -/
def linkNo (n : Nat) : Bool := n < 7 || (8 ≤ n && n ≤ 24)

/-- A link. -/
def State.link (s : State) (n : Nat) : Link := s.links.getD n ⟨0, 0, true, none⟩

/-- A link replaced. -/
def State.setLink (s : State) (n : Nat) (k : Link) : State := { s with links := s.links.set n k }

/-- FLIT_RECEIVE (R356): a flit whose CRC fails is sent again; whether the link's earlier replays lie within its last 2^20
cycles is timing (log 5). -/
def execFlitReceive (n : Nat) (good : Bool) (s : State) : Host.Outcome State Fault Refusal :=
  if !linkNo n || !(s.link n).up || (s.link n).training.isSome then .refused (.notEnabled "FLIT_RECEIVE: the link carries no flit")
  else if good then .next s
  else
    let b := s.freeBit
    let k := s.link n
    .next (b.2.setLink n { k with replays := if b.1 then k.replays + 1 else 1 })

/-- LINK_RETRAIN_DOWN (R356): more than 16 replays; a link at step 2 retrains there. -/
def execLinkRetrainDown (n : Nat) (s : State) : Host.Outcome State Fault Refusal :=
  let k := s.link n
  if linkNo n && k.up && k.training.isNone && 16 < k.replays then
    .next (s.setLink n { k with training := some (min (k.rate + 1) 2) })
  else .refused (.notEnabled "LINK_RETRAIN_DOWN: the replays are within the limit")

/-- LINK_RETRAIN_UP (R356): 2^30 cycles within the limit. -/
def execLinkRetrainUp (n : Nat) (s : State) : Host.Outcome State Fault Refusal :=
  let k := s.link n
  if linkNo n && k.up && k.training.isNone && k.rate != 0 && k.replays ≤ 16 then
    .next (s.setLink n { k with training := some (k.rate - 1) })
  else .refused (.notEnabled "LINK_RETRAIN_UP: the link has no higher step to take")

/-- DETAIL of a link's event (R350, Table 3). -/
def linkDetail (n rate : Nat) : Nat := n + rate * 2 ^ 8

/-- LINK_DOWN to each region that owns a group routed through a fabric port (R356). -/
def State.portDown (s : State) (n : Nat) : State :=
  let hit (g : Group) : Bool := g.members.any fun m => !s.local m && 8 + Config.route m.dev % 16 == n
  ((s.groups.filter hit).map (·.region)).eraseDups.foldl (fun s r =>
    s.reportHome r { code := .linkDown, detail := linkDetail n 15, region := r / 512, source := 3 }) s

/-- Every node of every region fails (R356). -/
def State.failAll (s : State) : State :=
  s.kill Code.linkDown.num ((s.wgs.filter fun w => !w.isShadow).map (·.uid)) (s.nodes.filter fun n => !n.closed)

/-- A link taken down (R356). -/
def State.linkDown (s : State) (n : Nat) (k : Link) : State :=
  let s := (s.setLink n { k with rate := 15, up := false, training := none, replays := 0 }).logError
    { code := .linkDegraded, detail := linkDetail n 15, source := 3 }
  if n < 7 then s.failAll else if n < 24 then s.portDown n else s

/-- LINK_RETRAIN_DONE (R356): the new step, logged where it is another; a retrain that fails tries the next step, and at
step 2 takes the link down. -/
def execLinkRetrainDone (n : Nat) (ok : Bool) (s : State) : Host.Outcome State Fault Refusal :=
  let k := s.link n
  match k.training with
  | none => .refused (.notEnabled "LINK_RETRAIN_DONE: the link does not retrain")
  | some t =>
    if ok then
      let s' := s.setLink n { k with rate := t, training := none, replays := 0 }
      .next (if t == k.rate then s' else s'.logError { code := .linkDegraded, detail := linkDetail n t, source := 3 })
    else if t < 2 then .next (s.setLink n { k with training := some (t + 1) })
    else .next (s.linkDown n k)

end Sys2Proof.Machine
end

