-- ==== Sys2Proof/Machine/Xform.lean ====
section
/-! DEFINITION. The transform pipe (R168 to R173): selection and decoding, and the pipe's reply. -/

namespace Sys2Proof.Machine

/-- The reads of a transform instruction checked, then made (R149, R168, R287): the bytes of each range as one number. -/
def Ctx.pipeRead (x : Ctx) (pre post : Option Flt) (l : List (Nat × Nat)) : Except Res (Ctx × List Nat) :=
  let accs := l.map scrAcs
  match firstOf [pre, x.rangesBound l, post, x.readRace accs, failingFault x.s x.w true .load accs] with
  | some e => .error (.fault e)
  | none =>
    if watchHit x.s x.w true .load accs then .error x.watchStop else
    let r := x.readAll true 1 accs
    .ok (r.1, r.2.map fun e => leNat e.2)

/-- The instruction's end (R168): one record of the old destinations, which are pending until the pipe replies. -/
def Ctx.pipeFinish (x : Ctx) (a : BitVec 7) (vals : List (List Word)) : Res :=
  let y := x.record a vals.length
  let pend : List Pend := vals.zipIdx.map fun e => ⟨a.toNat + e.2, x.act, some e.1, x.s.nextId⟩
  .done { y with c := { y.c with pend := y.c.pend ++ pend }, s := { y.s with nextId := y.s.nextId + 1 } }

/-! Selection (R170 to R172) -/

/-- A candidate: the exact score, its stored bits, its index, its run. -/
structure Cand where
  score : Exact
  bits : Nat
  index : Nat
  run : Nat
  deriving DecidableEq, Repr

/-- The score format of a selector (R68). -/
def scoreNum (k : Nat) : NumFmt := [.flt fp32, .flt bf16, .flt fp16, .int ⟨32, true⟩].getD k (.flt fp32)

/-- Before (R170). -/
def before (x y : Cand) : Bool :=
  if x.score.isNan != y.score.isNan then !x.score.isNan
  else if !x.score.isNan && Exact.cmp x.score y.score != 0 then Exact.cmp x.score y.score == 1
  else if x.index != y.index then x.index < y.index
  else x.run < y.run

/-- A candidate put at its rank. DESIGN CHOICE (log 33): of two that neither comes before the other, of one run with the same
index and numerically equal scores, the one at the lower position stands first; R172 orders neither. -/
def rankIn (x : Cand) : List Cand → List Cand
  | [] => [x]
  | y :: l => if before x y then x :: y :: l else y :: rankIn x l

/-- The first k candidates in rank order. -/
def topRanks (k : Nat) (l : List Cand) : List Cand := l.foldl (fun r x => (rankIn x r).take k) []

/-- The four registers of a selection (R171). -/
def rankRegs (l : List Cand) : List (List Word) :=
  let val (r : Nat) : Word := (l[r]?.map fun x => BitVec.ofNat 32 x.bits).getD 0
  let idx (r : Nat) : Word := (l[r]?.map fun x => BitVec.ofNat 32 x.index).getD (BitVec.allOnes 32)
  [perThread val, perThread idx, perThread fun t => val (t + 32), perThread fun t => idx (t + 32)]

/-- CONTROL_INVALID naming b. -/
def ctlFault (bad : Bool) : Option Flt := if bad then some { code := .controlInvalid, field := .b } else none

/-- TOPK on its operands (R171). -/
def topkBody (sfmt : Nat) (f : SFields) (x : Ctx) : Res :=
  if x.act == 0 then .done x else
  let sa := (x.leader f.b).toNat
  let ctl := (x.leader (f.b + 1)).toNat
  let num := scoreNum sfmt
  let w := num.bits / 8
  let n := bitsOf ctl 11 0 + 1
  let k := bitsOf ctl 22 16
  let bad := bitsOf ctl 31 23 != 0 || bitsOf ctl 15 12 != 0 || k == 0 || 64 < k
  match x.pipeRead (firstOf [ctlFault bad, alignFault .load w [⟨0, (sa : Int)⟩]]) none [(sa, n * w)] with
  | .error r => r
  | .ok (y, data) =>
    let cands : List Cand := (List.range n).map fun i =>
      let c := packedAt (data.getD 0 0) num.bits i
      ⟨num.value c, c, i, 0⟩
    y.pipeFinish f.a (rankRegs (topRanks k cands))

/-- TOPK (R171). -/
def execTopk (sel : BitVec 2) (f : SFields) (s : State) : Host.Outcome State Fault Refusal :=
  runWord (.topk sel f) (topkBody sel.toNat f) s

/-- TOPK.M on its operands (R172). -/
def topkMBody (sfmt : Nat) (f : SFields) (x : Ctx) : Res :=
  if x.act == 0 then .done x else
  let sa := (x.leader f.b).toNat
  let ctl := (x.leader (f.b + 1)).toNat
  let num := scoreNum sfmt
  let n1 := bitsOf ctl 6 0
  let n2 := bitsOf ctl 14 8
  let k := bitsOf ctl 22 16
  let bad := bitsOf ctl 31 23 != 0 || ctl.testBit 15 || ctl.testBit 7 || k == 0 || 64 < k || 64 < n1 || 64 < n2 || n1 + n2 == 0
  match x.pipeRead (firstOf [ctlFault bad, alignFault .load 8 [⟨0, (sa : Int)⟩]]) none [(sa, 8 * (n1 + n2))] with
  | .error r => r
  | .ok (y, data) =>
    let cands : List Cand := (List.range (n1 + n2)).map fun i =>
      let c := packedAt (data.getD 0 0) 64 i % 2 ^ num.bits
      ⟨num.value c, c, packedAt (data.getD 0 0) 32 (2 * i + 1), if i < n1 then 0 else 1⟩
    y.pipeFinish f.a (rankRegs (topRanks k cands))

/-- TOPK.M (R172). -/
def execTopkM (sel : BitVec 2) (f : SFields) (s : State) : Host.Outcome State Fault Refusal :=
  runWord (.topkM sel f) (topkMBody sel.toNat f) s

/-! Decoding (R173) -/

/-- DECODE.Wn and DECODE.SWn on their operands (R173). -/
def decodeWBody (n : Nat) (signed : Bool) (f : SFields) (x : Ctx) : Res :=
  if x.act == 0 then .done x else
  let sa := (x.leader f.b).toNat
  let pre := firstOf [if x.leader (f.b + 1) != 0 then some { code := .illegalInstruction, field := .b } else none,
    alignFault .load 4 [⟨0, (sa : Int)⟩]]
  match x.pipeRead pre none [(sa + 4 * n * f.imm.toNat, 4 * n)] with
  | .error r => r
  | .ok (y, data) =>
    let val (t : Nat) : Word :=
      let c := packedAt (data.getD 0 0) n t
      if signed && c.testBit (n - 1) then BitVec.ofNat 32 (c + 2 ^ 32 - 2 ^ n) else BitVec.ofNat 32 c
    y.pipeFinish f.a [perThread val]

/-- DECODE.Wn (R173). -/
def execDecodeWn (sel : BitVec 3) (f : SFields) (s : State) : Host.Outcome State Fault Refusal :=
  runWord (.decodeWn sel f) (decodeWBody (sel.toNat + 1) false f) s

/-- DECODE.SWn (R173). -/
def execDecodeSwn (sel : BitVec 3) (f : SFields) (s : State) : Host.Outcome State Fault Refusal :=
  runWord (.decodeSwn sel f) (decodeWBody (sel.toNat + 1) true f) s

/-- DECODE.CB on its operands (R96, R173). -/
def decodeCbBody (f : SFields) (x : Ctx) : Res :=
  if x.act == 0 then .done x else
  let sa := (x.leader f.b).toNat
  let u := (x.leader (f.b + 1)).toNat
  let ch := f.imm.toNat
  match x.pipeRead (firstOf [alignFault .load 4 [⟨0, (sa : Int)⟩], alignFault .load 16 [⟨0, (u : Int)⟩]]) none
      [(sa + 24 * ch, 24), (u + 16 * (ch / 2), 16)] with
  | .error r => r
  | .ok (y, data) =>
    let tab (e : Nat) : Nat := packedAt (data.getD 1 0) 16 (packedAt (data.getD 0 0) 3 e)
    y.pipeFinish f.a [perThread fun t => BitVec.ofNat 32 (tab (2 * t) + 65536 * tab (2 * t + 1))]

/-- DECODE.CB (R173). -/
def execDecodeCb (f : SFields) (s : State) : Host.Outcome State Fault Refusal := runWord (.decodeCb f) (decodeCbBody f) s

/-- DECODE.S24 on its operands (R95, R173). -/
def decodeS24Body (f : SFields) (x : Ctx) : Res :=
  if x.act == 0 then .done x else
  let sa := (x.leader f.b).toNat
  let u := (x.leader (f.b + 1)).toNat
  let ch := f.imm.toNat
  let at_ (a : Nat) : Byte := (x.c.runon.bind fun r => r.buffered true a).getD (memByte x.w.scr a)
  let meta_ := leNat ((List.range 8).map fun k => at_ (u + 8 * ch + k))
  let field (q : Nat) : Nat × Nat := (packedAt meta_ 2 (2 * q), packedAt meta_ 2 (2 * q + 1))
  let bad := (List.range 16).any fun q => (field q).2 ≤ (field q).1
  match x.pipeRead (firstOf [alignFault .load 4 [⟨0, (sa : Int)⟩], alignFault .load 4 [⟨0, (u : Int)⟩]])
      (if bad then some { code := .sparseMetadata, field := .b } else none) [(sa + 64 * ch, 64), (u + 8 * ch, 8)] with
  | .error r => r
  | .ok (y, data) =>
    let el (e : Nat) : Nat :=
      let q := e / 4
      if e % 4 == (field q).1 then packedAt (data.getD 0 0) 16 (2 * q)
      else if e % 4 == (field q).2 then packedAt (data.getD 0 0) 16 (2 * q + 1) else 0
    y.pipeFinish f.a [perThread fun t => BitVec.ofNat 32 (el (2 * t) + 65536 * el (2 * t + 1))]

/-- DECODE.S24 (R173). -/
def execDecodeS24 (f : SFields) (s : State) : Host.Outcome State Fault Refusal :=
  runWord (.decodeS24 f) (decodeS24Body f) s

/-- TRANSFORM_REPLY (R168): the pipe replies to the crew's oldest instruction; a crew that waits for a register goes on. -/
def execTransformReply (r : CrewRef) (s : State) : Host.Outcome State Fault Refusal :=
  match s.crew? r with
  | none => .refused (.notEnabled "TRANSFORM_REPLY: no such crew")
  | some c =>
    match c.pend.find? (·.vals.isSome) with
    | none => .refused (.notEnabled "TRANSFORM_REPLY: no reply is pending")
    | some p =>
      let land (k : Crew) : Crew :=
        if k.wg == r.wg && k.idx == r.idx then
          let k := k.landReply p.copy
          if k.st == .score && k.wait == .pendingReg then { k with st := .ready, wait := .none } else k
        else k
      .next { s with crews := s.crews.map land, snaps := s.snaps.map land }

end Sys2Proof.Machine
end

