-- ==== Sys2Proof/Machine/Dispatch.lean ====
section
/-! DEFINITION. One arm per instruction: a direct call of its meaning. -/

namespace Sys2Proof.Machine

def exec (i : Instr) (s : State) : Host.Outcome State Fault Refusal :=
  match i with
  | .iadd f => Sys2Proof.Machine.execIadd f s
  | .isub f => Sys2Proof.Machine.execIsub f s
  | .imul f => Sys2Proof.Machine.execImul f s
  | .imulh f => Sys2Proof.Machine.execImulh f s
  | .imulhu f => Sys2Proof.Machine.execImulhu f s
  | .imad f => Sys2Proof.Machine.execImad f s
  | .imin f => Sys2Proof.Machine.execImin f s
  | .imax f => Sys2Proof.Machine.execImax f s
  | .umin f => Sys2Proof.Machine.execUmin f s
  | .umax f => Sys2Proof.Machine.execUmax f s
  | .iabs f => Sys2Proof.Machine.execIabs f s
  | .ineg f => Sys2Proof.Machine.execIneg f s
  | .and f => Sys2Proof.Machine.execAnd f s
  | .or f => Sys2Proof.Machine.execOr f s
  | .xor f => Sys2Proof.Machine.execXor f s
  | .andn f => Sys2Proof.Machine.execAndn f s
  | .shl f => Sys2Proof.Machine.execShl f s
  | .shr f => Sys2Proof.Machine.execShr f s
  | .sar f => Sys2Proof.Machine.execSar f s
  | .rot f => Sys2Proof.Machine.execRot f s
  | .bfe f => Sys2Proof.Machine.execBfe f s
  | .bfi f => Sys2Proof.Machine.execBfi f s
  | .popc f => Sys2Proof.Machine.execPopc f s
  | .clz f => Sys2Proof.Machine.execClz f s
  | .brev f => Sys2Proof.Machine.execBrev f s
  | .mov f => Sys2Proof.Machine.execMov f s
  | .lea f => Sys2Proof.Machine.execLea f s
  | .leau f => Sys2Proof.Machine.execLeau f s
  | .swap f => Sys2Proof.Machine.execSwap f s
  | .not f => Sys2Proof.Machine.execNot f s
  | .add64 f => Sys2Proof.Machine.execAdd64 f s
  | .icmpEq f => Sys2Proof.Machine.execIcmpEq f s
  | .icmpNe f => Sys2Proof.Machine.execIcmpNe f s
  | .icmpLt f => Sys2Proof.Machine.execIcmpLt f s
  | .icmpLe f => Sys2Proof.Machine.execIcmpLe f s
  | .icmpUlt f => Sys2Proof.Machine.execIcmpUlt f s
  | .icmpUle f => Sys2Proof.Machine.execIcmpUle f s
  | .itest f => Sys2Proof.Machine.execItest f s
  | .pand f => Sys2Proof.Machine.execPand f s
  | .por f => Sys2Proof.Machine.execPor f s
  | .pxor f => Sys2Proof.Machine.execPxor f s
  | .pnot f => Sys2Proof.Machine.execPnot f s
  | .fcmpEq f => Sys2Proof.Machine.execFcmpEq f s
  | .fcmpLt f => Sys2Proof.Machine.execFcmpLt f s
  | .fcmpLe f => Sys2Proof.Machine.execFcmpLe f s
  | .fcmpUn f => Sys2Proof.Machine.execFcmpUn f s
  | .fadd f => Sys2Proof.Machine.execFadd f s
  | .fsub f => Sys2Proof.Machine.execFsub f s
  | .fmul f => Sys2Proof.Machine.execFmul f s
  | .ffma f => Sys2Proof.Machine.execFfma f s
  | .fmin f => Sys2Proof.Machine.execFmin f s
  | .fmax f => Sys2Proof.Machine.execFmax f s
  | .fabs f => Sys2Proof.Machine.execFabs f s
  | .fneg f => Sys2Proof.Machine.execFneg f s
  | .hadd2 f => Sys2Proof.Machine.execHadd2 f s
  | .hfma2 f => Sys2Proof.Machine.execHfma2 f s
  | .badd2 f => Sys2Proof.Machine.execBadd2 f s
  | .bfma2 f => Sys2Proof.Machine.execBfma2 f s
  | .rcp f => Sys2Proof.Machine.execRcp f s
  | .rsq f => Sys2Proof.Machine.execRsq f s
  | .sqrt f => Sys2Proof.Machine.execSqrt f s
  | .ex2 f => Sys2Proof.Machine.execEx2 f s
  | .lg2 f => Sys2Proof.Machine.execLg2 f s
  | .sin f => Sys2Proof.Machine.execSin f s
  | .cos f => Sys2Proof.Machine.execCos f s
  | .tanh f => Sys2Proof.Machine.execTanh f s
  | .cvt f => Sys2Proof.Machine.execCvt f s
  | .pack f => Sys2Proof.Machine.execPack f s
  | .unpk f => Sys2Proof.Machine.execUnpk f s
  | .scal f => Sys2Proof.Machine.execScal f s
  | .dot2 f => Sys2Proof.Machine.execDot2 f s
  | .dot4 f => Sys2Proof.Machine.execDot4 f s
  | .dot8 f => Sys2Proof.Machine.execDot8 f s
  | .dot4f f => Sys2Proof.Machine.execDot4f f s
  | .shfl f => Sys2Proof.Machine.execShfl f s
  | .vote f => Sys2Proof.Machine.execVote f s
  | .matchAny f => Sys2Proof.Machine.execMatchAny f s
  | .rand f => Sys2Proof.Machine.execRand f s
  | .redlAdd f => Sys2Proof.Machine.execRedlAdd f s
  | .redlFadd f => Sys2Proof.Machine.execRedlFadd f s
  | .scanlAdd f => Sys2Proof.Machine.execScanlAdd f s
  | .scanlFadd f => Sys2Proof.Machine.execScanlFadd f s
  | .redlMin f => Sys2Proof.Machine.execRedlMin f s
  | .redlMax f => Sys2Proof.Machine.execRedlMax f s
  | .scanlMin f => Sys2Proof.Machine.execScanlMin f s
  | .scanlMax f => Sys2Proof.Machine.execScanlMax f s
  | .iaddi f => Sys2Proof.Machine.execIaddi f s
  | .imuli f => Sys2Proof.Machine.execImuli f s
  | .movil f => Sys2Proof.Machine.execMovil f s
  | .movih f => Sys2Proof.Machine.execMovih f s
  | .andi f => Sys2Proof.Machine.execAndi f s
  | .ori f => Sys2Proof.Machine.execOri f s
  | .xori f => Sys2Proof.Machine.execXori f s
  | .roti f => Sys2Proof.Machine.execRoti f s
  | .loop f => Sys2Proof.Machine.execLoop f s
  | .smovil f => Sys2Proof.Machine.execSmovil f s
  | .smovih f => Sys2Proof.Machine.execSmovih f s
  | .saddi f => Sys2Proof.Machine.execSaddi f s
  | .ld8 f => Sys2Proof.Machine.execLd8 f s
  | .ld16 f => Sys2Proof.Machine.execLd16 f s
  | .ld32 f => Sys2Proof.Machine.execLd32 f s
  | .ld64 f => Sys2Proof.Machine.execLd64 f s
  | .ld128 f => Sys2Proof.Machine.execLd128 f s
  | .st8 f => Sys2Proof.Machine.execSt8 f s
  | .st16 f => Sys2Proof.Machine.execSt16 f s
  | .st32 f => Sys2Proof.Machine.execSt32 f s
  | .st64 f => Sys2Proof.Machine.execSt64 f s
  | .st128 f => Sys2Proof.Machine.execSt128 f s
  | .xchg f => Sys2Proof.Machine.execXchg f s
  | .atomAdd f => Sys2Proof.Machine.execAtomAdd f s
  | .atomFadd f => Sys2Proof.Machine.execAtomFadd f s
  | .atomAnd f => Sys2Proof.Machine.execAtomAnd f s
  | .atomOr f => Sys2Proof.Machine.execAtomOr f s
  | .atomXor f => Sys2Proof.Machine.execAtomXor f s
  | .atomImin f => Sys2Proof.Machine.execAtomImin f s
  | .atomImax f => Sys2Proof.Machine.execAtomImax f s
  | .atomExch f => Sys2Proof.Machine.execAtomExch f s
  | .atomUmin f => Sys2Proof.Machine.execAtomUmin f s
  | .atomUmax f => Sys2Proof.Machine.execAtomUmax f s
  | .atomCas f => Sys2Proof.Machine.execAtomCas f s
  | .atomAddScr f => Sys2Proof.Machine.execAtomAddScr f s
  | .atomFaddScr f => Sys2Proof.Machine.execAtomFaddScr f s
  | .atomAndScr f => Sys2Proof.Machine.execAtomAndScr f s
  | .atomOrScr f => Sys2Proof.Machine.execAtomOrScr f s
  | .atomXorScr f => Sys2Proof.Machine.execAtomXorScr f s
  | .atomIminScr f => Sys2Proof.Machine.execAtomIminScr f s
  | .atomImaxScr f => Sys2Proof.Machine.execAtomImaxScr f s
  | .atomExchScr f => Sys2Proof.Machine.execAtomExchScr f s
  | .atomUminScr f => Sys2Proof.Machine.execAtomUminScr f s
  | .atomUmaxScr f => Sys2Proof.Machine.execAtomUmaxScr f s
  | .atomCasScr f => Sys2Proof.Machine.execAtomCasScr f s
  | .bra f => Sys2Proof.Machine.execBra f s
  | .braAny f => Sys2Proof.Machine.execBraAny f s
  | .brp f => Sys2Proof.Machine.execBrp f s
  | .call f => Sys2Proof.Machine.execCall f s
  | .divr f => Sys2Proof.Machine.execDivr f s
  | .flip f => Sys2Proof.Machine.execFlip f s
  | .trap f => Sys2Proof.Machine.execTrap f s
  | .rft f => Sys2Proof.Machine.execRft f s
  | .halt f => Sys2Proof.Machine.execHalt f s
  | .resume f => Sys2Proof.Machine.execResume f s
  | .mfsr f => Sys2Proof.Machine.execMfsr f s
  | .mtsr f => Sys2Proof.Machine.execMtsr f s
  | .tlbiPage f => Sys2Proof.Machine.execTlbiPage f s
  | .tlbiSize f => Sys2Proof.Machine.execTlbiSize f s
  | .tlbiRegion f => Sys2Proof.Machine.execTlbiRegion f s
  | .tlbiAll f => Sys2Proof.Machine.execTlbiAll f s
  | .mfs f => Sys2Proof.Machine.execMfs f s
  | .mts f => Sys2Proof.Machine.execMts f s
  | .seed f => Sys2Proof.Machine.execSeed f s
  | .fenceAcq sel f => Sys2Proof.Machine.execFenceAcq sel f s
  | .fenceRel sel f => Sys2Proof.Machine.execFenceRel sel f s
  | .fence sel f => Sys2Proof.Machine.execFence sel f s
  | .publ f => Sys2Proof.Machine.execPubl f s
  | .cpyq sel f => Sys2Proof.Machine.execCpyq sel f s
  | .gath sel f => Sys2Proof.Machine.execGath sel f s
  | .mma sel f => Sys2Proof.Machine.execMma sel f s
  | .mmaZ sel f => Sys2Proof.Machine.execMmaZ sel f s
  | .mtile sel f => Sys2Proof.Machine.execMtile sel f s
  | .mtileZ sel f => Sys2Proof.Machine.execMtileZ sel f s
  | .wload sel f => Sys2Proof.Machine.execWload sel f s
  | .wloadS24 sel f => Sys2Proof.Machine.execWloadS24 sel f s
  | .accrd f => Sys2Proof.Machine.execAccrd f s
  | .accwr f => Sys2Proof.Machine.execAccwr f s
  | .accz f => Sys2Proof.Machine.execAccz f s
  | .wmark f => Sys2Proof.Machine.execWmark f s
  | .perturb f => Sys2Proof.Machine.execPerturb f s
  | .wtab f => Sys2Proof.Machine.execWtab f s
  | .topk sel f => Sys2Proof.Machine.execTopk sel f s
  | .topkM sel f => Sys2Proof.Machine.execTopkM sel f s
  | .decodeCb f => Sys2Proof.Machine.execDecodeCb f s
  | .decodeS24 f => Sys2Proof.Machine.execDecodeS24 f s
  | .decodeWn sel f => Sys2Proof.Machine.execDecodeWn sel f s
  | .decodeSwn sel f => Sys2Proof.Machine.execDecodeSwn sel f s
  | .cpy sel f => Sys2Proof.Machine.execCpy sel f s
  | .give f => Sys2Proof.Machine.execGive f s
  | .take f => Sys2Proof.Machine.execTake f s
  | .barr f => Sys2Proof.Machine.execBarr f s
  | .bwait f => Sys2Proof.Machine.execBwait f s
  | .bwaitS f => Sys2Proof.Machine.execBwaitS f s
  | .fetchw f => Sys2Proof.Machine.execFetchw f s
  | .dqpush f => Sys2Proof.Machine.execDqpush f s
  | .dqpop f => Sys2Proof.Machine.execDqpop f s
  | .dqsteal f => Sys2Proof.Machine.execDqsteal f s
  | .yield f => Sys2Proof.Machine.execYield f s
  | .qmap f => Sys2Proof.Machine.execQmap f s
  | .qreset f => Sys2Proof.Machine.execQreset f s
  | .arrive f => Sys2Proof.Machine.execArrive f s
  | .merge f => Sys2Proof.Machine.execMerge f s
  | .ret f => Sys2Proof.Machine.execRet f s
  | .exit f => Sys2Proof.Machine.execExit f s
  | .nop f => Sys2Proof.Machine.execNop f s
  | .bkpt f => Sys2Proof.Machine.execBkpt f s
  | .rewind f => Sys2Proof.Machine.execRewind f s
  | .commit f => Sys2Proof.Machine.execCommit f s
  | .pfx f => Sys2Proof.Machine.execPfx f s
  | .illegalEncoding w => Sys2Proof.Machine.execIllegalEncoding w s
  | .queueGrant c => Sys2Proof.Machine.execQueueGrant c s
  | .bwaitReturn c => Sys2Proof.Machine.execBwaitReturn c s
  | .takeGrant c => Sys2Proof.Machine.execTakeGrant c s
  | .fetchwReply c => Sys2Proof.Machine.execFetchwReply c s
  | .yieldWake c => Sys2Proof.Machine.execYieldWake c s
  | .transformReply c => Sys2Proof.Machine.execTransformReply c s
  | .wtabTransfer wg => Sys2Proof.Machine.execWtabTransfer wg s
  | .matrixRowFinal wg => Sys2Proof.Machine.execMatrixRowFinal wg s
  | .accrdWaitEnd c => Sys2Proof.Machine.execAccrdWaitEnd c s
  | .mtileStep wg => Sys2Proof.Machine.execMtileStep wg s
  | .copyWrite id => Sys2Proof.Machine.execCopyWrite id s
  | .cpyqElementPush id => Sys2Proof.Machine.execCpyqElementPush id s
  | .copyComplete id => Sys2Proof.Machine.execCopyComplete id s
  | .copyEndEarly id => Sys2Proof.Machine.execCopyEndEarly id s
  | .crewExited c => Sys2Proof.Machine.execCrewExited c s
  | .nodeStart node => Sys2Proof.Machine.execNodeStart node s
  | .bulkCopyEnd node => Sys2Proof.Machine.execBulkCopyEnd node s
  | .workgroupPlace node core spots shadow => Sys2Proof.Machine.execWorkgroupPlace node core spots shadow s
  | .workgroupSave wg addr => Sys2Proof.Machine.execWorkgroupSave wg addr s
  | .workgroupRestore wg core spots => Sys2Proof.Machine.execWorkgroupRestore wg core spots s
  | .reverseStep c => Sys2Proof.Machine.execReverseStep c s
  | .latchLossReplay c => Sys2Proof.Machine.execLatchLossReplay c s
  | .registerErrorRecovery c code bad => Sys2Proof.Machine.execRegisterErrorRecovery c code bad s
  | .stateErrorKill wg => Sys2Proof.Machine.execStateErrorKill wg s
  | .scrubErrorReport addr => Sys2Proof.Machine.execScrubErrorReport addr s
  | .timingReplay core => Sys2Proof.Machine.execTimingReplay core s
  | .coreRemoval core saves => Sys2Proof.Machine.execCoreRemoval core saves s
  | .watchdogExpired wg => Sys2Proof.Machine.execWatchdogExpired wg s
  | .faultQueueRecheck region => Sys2Proof.Machine.execFaultQueueRecheck region s
  | .pcSample core sched => Sys2Proof.Machine.execPcSample core sched s
  | .dvfsAdjust src dst mhz => Sys2Proof.Machine.execDvfsAdjust src dst mhz s
  | .mcrRoundDelivery group off => Sys2Proof.Machine.execMcrRoundDelivery group off s
  | .doorbellServe => Sys2Proof.Machine.execDoorbellServe s
  | .attestationReportWritten => Sys2Proof.Machine.execAttestationReportWritten s
  | .flitReceive link good => Sys2Proof.Machine.execFlitReceive link good s
  | .linkRetrainDown link => Sys2Proof.Machine.execLinkRetrainDown link s
  | .linkRetrainUp link => Sys2Proof.Machine.execLinkRetrainUp link s
  | .linkRetrainDone link ok => Sys2Proof.Machine.execLinkRetrainDone link ok s
  | .remoteAccess addr a => Sys2Proof.Machine.execRemoteAccess addr a s
  | .powerOnReset boot => Sys2Proof.Machine.execPowerOnReset boot s
  | .warmReset => Sys2Proof.Machine.execWarmReset s
  | .coldReset boot => Sys2Proof.Machine.execColdReset boot s
  | .thermalShutdown => Sys2Proof.Machine.execThermalShutdown s
  | .powerAlarmRaise watts celsius => Sys2Proof.Machine.execPowerAlarmRaise watts celsius s
  | .powerAlarmClear watts celsius => Sys2Proof.Machine.execPowerAlarmClear watts celsius s
  | .controlNodeRead addr len => Sys2Proof.Machine.execControlNodeRead addr len s
  | .controlNodeWrite addr bytes => Sys2Proof.Machine.execControlNodeWrite addr bytes s
  | .mgmtRegisterWrite off size val => Sys2Proof.Machine.execMgmtRegisterWrite off size val s
  | .dbell prio val => Sys2Proof.Machine.execDbell prio val s
  | .grpinst addr => Sys2Proof.Machine.execGrpinst addr s
  | .grpremove addr => Sys2Proof.Machine.execGrpremove addr s
  | .grpstatRead => Sys2Proof.Machine.execGrpstatRead s
  | .ctlstatRead => Sys2Proof.Machine.execCtlstatRead s
  | .attstatRead => Sys2Proof.Machine.execAttstatRead s
  | .errlostRead => Sys2Proof.Machine.execErrlostRead s
  | .ctlopResume val => Sys2Proof.Machine.execCtlopResume val s
  | .ctlopHaltCrew val => Sys2Proof.Machine.execCtlopHaltCrew val s
  | .ctlopHaltWorkgroup val => Sys2Proof.Machine.execCtlopHaltWorkgroup val s
  | .ctlopKillWorkgroup val => Sys2Proof.Machine.execCtlopKillWorkgroup val s
  | .ctlopKillFaultDomain val => Sys2Proof.Machine.execCtlopKillFaultDomain val s
  | .attreq addr => Sys2Proof.Machine.execAttreq addr s
  | .debugHaltCrew c => Sys2Proof.Machine.execDebugHaltCrew c s
  | .debugHaltWorkgroup wg => Sys2Proof.Machine.execDebugHaltWorkgroup wg s
  | .debugResume c => Sys2Proof.Machine.execDebugResume c s
  | .debugStep c n => Sys2Proof.Machine.execDebugStep c n s
  | .debugStepEnd c => Sys2Proof.Machine.execDebugStepEnd c s
  | .debugBack c target => Sys2Proof.Machine.execDebugBack c target s
  | .debugReadState c item => Sys2Proof.Machine.execDebugReadState c item s
  | .debugWriteState c item val => Sys2Proof.Machine.execDebugWriteState c item val s
  | .debugReadWake c => Sys2Proof.Machine.execDebugReadWake c s
  | .debugBreakpointOn n => Sys2Proof.Machine.execDebugBreakpointOn n s
  | .debugBreakpointOff n => Sys2Proof.Machine.execDebugBreakpointOff n s
  | .debugWatchpointSet w p => Sys2Proof.Machine.execDebugWatchpointSet w p s
  | .debugWatchpointClear w => Sys2Proof.Machine.execDebugWatchpointClear w s
  | .debugAttach region => Sys2Proof.Machine.execDebugAttach region s
  | .debugDetach => Sys2Proof.Machine.execDebugDetach s

end Sys2Proof.Machine
end

