-- ==== Sys2Proof/Machine/Sched.lean ====
section
/-! DEFINITION. What moves next: the schedulers' selection, cycles and counters, the steps that the device takes of itself,
and what holds after every step (R27, R263, R264, R295; logs 2 and 7). -/

namespace Sys2Proof.Machine

/-! Selection (R264) -/

/-- Whether a crew is within a packet (R264). -/
def Crew.within (c : Crew) : Bool := c.walk.isNone && (c.pc.toNat % 12 != 0 || c.pfx.isSome)

/-- Whether a crew has a partly issued chain (R47, R264): its next word goes on with one, or its prefix's target comes. -/
def Crew.midChain (c : Crew) : Bool := c.chain || c.pfx.isSome

/-- The READY crews of a scheduler: those of a workgroup that is being saved stop where the save may find them (R263,
R268). -/
def State.readyOn (s : State) (core sched : Nat) : List Crew :=
  (s.onCore core).flatMap fun w => (s.crewsOf w.uid).filter fun c =>
    c.sched == sched && c.st == .ready && !(w.saving && c.saveable)

/-- The crew with the largest WAITCNT, the lowest slot on a tie (R264). -/
def longestWait (l : List Crew) : Option Crew :=
  l.foldl (fun b c => match b with
    | none => some c
    | some x => if x.waitcnt < c.waitcnt || (x.waitcnt == c.waitcnt && c.slot < x.slot) then some c else some x) none

/-- The selection of a scheduler among its READY crews, with RUN (R264). -/
def Sched.select (q : Sched) (l : List Crew) : Option (Crew × Nat) :=
  match q.cur.bind fun r => l.find? (·.ref == r) with
  | none => (longestWait l).map (·, 0)
  | some c =>
    if c.midChain then some (c, q.run)
    else if l.any (16 ≤ ·.waitcnt) then (longestWait l).map (·, 0)
    else if c.within || q.run < 8 then some (c, q.run)
    else (longestWait l).map (·, 0)

/-- The pipe of a word (R51, R67): ALU 0, SFU 1, MEM 2, MTX 3, XFM 4, CTL 5; a prefix has none. -/
def pipeOf (x : Word) : Nat :=
  let m := (majorOf x).toNat
  if m == 0x16 || m == 0x17 || m == 0x19 then (if (view (instrOf x)).uni then 0 else 1)
  else if m == 0x18 then 1
  else if m < 0x20 then 0
  else if m == 0x20 then (if (x.extractLsb' 1 2).toNat == 0 then 5 else 0)
  else if m < 0x32 || m == 0x39 || m == 0x3C then 2
  else if m == 0x3A then 3
  else if m == 0x3B then 4
  else if m == 0x3F then 6
  else 5

/-- Whether an instruction is one of the transform pipe (R51). -/
def isXfm (i : Instr) : Bool :=
  match i with
  | .topk _ _ | .topkM _ _ | .decodeWn _ _ | .decodeSwn _ _ | .decodeCb _ | .decodeS24 _ => true
  | _ => false

/-- Whether the instruction a crew stands at is one of the transform pipe. -/
def State.atXfm (s : State) (w : Wg) (c : Crew) : Bool :=
  c.walk.isNone && c.expired.isNone && match (s.instrNext w c).2 with
    | .ok p => isXfm p.i
    | .error _ => false

/-- Whether the chain that a crew's selection issues goes on in this cycle (R47): the next word's pipe holds none of its
words. -/
def Crew.issuesOn (c : Crew) (pipes : List Nat) : Bool :=
  c.midChain && (c.heldPacket c.wordAddr.toNat).all fun bs => !pipes.contains (pipeOf (packetWord bs c.wordAddr.toNat))

/-- A scheduler of a core. -/
def Core.sched (k : Core) (q : Nat) : Sched := k.scheds.getD q ⟨none, 0, 15⟩

/-- What a core runs next in this cycle (R47, R264): the chain that the last selection issues goes on, or the next scheduler
selects a crew; the scheduler, the crew and RUN. -/
def State.selectOn (s : State) (core : Nat) : Option (Nat × Crew × Nat) :=
  let k := s.core core
  let sel (q : Nat) : Option (Nat × Crew × Nat) := ((k.sched q).select (s.readyOn core q)).map fun x => (q, x.1, x.2)
  let rest := [0, 1, 2, 3].filter fun q => k.turn < q || (k.turn == q && k.pipes.isEmpty)
  match if k.pipes.isEmpty then none else (k.sched k.turn).cur.bind fun r =>
      (s.readyOn core k.turn).find? fun c => c.ref == r && c.issuesOn k.pipes with
  | some c => some (k.turn, c, (k.sched k.turn).run)
  | none => rest.findSome? sel

/-- Whether a workgroup is on a core. -/
def State.busy (s : State) (core : Nat) : Bool := s.wgs.any (·.core == some core)

/-- Whether a cycle of a core has begun. -/
def Core.midCycle (k : Core) : Bool := k.turn != 0 || !k.pipes.isEmpty

/-- The core whose turn it is: the one before goes on with its cycle, else the next that holds a workgroup (log 2). -/
def State.nextCore (s : State) : Option Nat :=
  if (s.core s.turn).midCycle then some s.turn
  else ((List.range s.cores.length).map fun i => (s.turn + 1 + i) % s.cores.length).find? s.busy

/-! Cycles (R264, R266, R295; log 7) -/

/-- One cycle more for each crew of a list that is BLOCKED on a barrier phase, by launch (R266). -/
def countWaits (m : List (Nat × Nat)) (launch : Crew → Nat) (l : List Crew) : List (Nat × Nat) :=
  l.foldl (fun m c => match c.st, c.wait with
    | .blocked, .barrier _ _ => mapSet m (launch c) ((mapGet m (launch c)).getD 0 + 1)
    | _, _ => m) m

/-- The end of a cycle of a core: CYC, WAITCNT of the READY crews that issued nothing, the watchdogs, the cycles BLOCKED on
barrier phases. -/
def State.tickCore (s : State) (core : Nat) : State :=
  let here (w : Wg) : Bool := w.core == some core
  let uids := (s.wgs.filter here).map (·.uid)
  let issued := (s.core core).issued
  let launch (c : Crew) : Nat := ((s.wg? c.wg).map (·.launch)).getD 0
  let s := s.modCore core fun k =>
    { k with
      cyc := k.cyc + 1, turn := 0, pipes := [], issued := [], xfmNow := false
      waits := countWaits k.waits launch (s.crews.filter fun c => uids.contains c.wg) }
  { s with
    crews := s.crews.map fun (c : Crew) =>
      if !uids.contains c.wg then c
      else if c.st == .ready && !issued.contains c.ref then { c with waitcnt := c.waitcnt + 1 }
      else if c.st == .score && c.wait == .pipe then c.unscored
      else c
    wgs := s.wgs.map fun (w : Wg) =>
      if !here w then w
      else if issued.any (·.wg == w.uid) then { w with hang := 0 }
      else if (s.crewsOf w.uid).any (·.st == .halted) then w
      else { w with hang := w.hang + 1 } }

/-- Whether an instruction is kept from issuing by what it would read, a latch that is lost for good or a register that no
recovery repairs (R348, R351): it raises its fault and does not issue. -/
def lostRead (i : Instr) (x : Ctx) : Bool :=
  match gate i x with
  | some (.fault f) | some (.faultAt _ f) => f.code == .latchLost || f.code == .registerUncorrectable
  | _ => false

/-- Whether a crew's word issued, as what it left shows (R27, R264, R348, R351): a word that waits for a register, a queue, a
mailbox or a window round, that stalls a run-on, that begins a replay or a recovery, or whose operand is lost did not; a prefix
issues with its target. DESIGN CHOICE (log 7): an ACCRD has issued when its checks are made and it begins to wait. -/
def wordIssued (t : State) (c : Crew) (lost : Bool) : Bool :=
  !lost && match t.crew? c.ref with
  | none => true
  | some d =>
    !((match d.st, d.wait with
      | .score, .accrd => false
      | .score, _ | .stalled, _ | .blocked, .queue _ _ | .blocked, .mailbox | .blocked, .window => true
      | _, _ => false) ||
    (d.walk.any fun k => k.why == .latch || k.why == .recover) || (c.pfx.isNone && d.pfx.isSome))

/-- A crew selected by its scheduler (R264): CUR and RUN; the selection is the scheduler's turn in the core's cycle. DESIGN
CHOICE (log 7): both stand over a cycle in which the scheduler selects no crew. -/
def State.chosen (s : State) (core q : Nat) (r : CrewRef) (run : Nat) : State :=
  s.modCore core fun k =>
    { k with
      scheds := k.scheds.modify q fun x => { x with cur := some r, run := run }
      pipes := if q == k.turn then k.pipes else [], turn := q }

/-- The turn of a scheduler over: the next one selects. -/
def State.endTurn (s : State) (core q : Nat) : State := s.modCore core fun k => { k with turn := q + 1, pipes := [] }

/-- What a core keeps of the pipes as a word issues: its pipe holds a word of the chain (R47, R51). -/
def Core.issue (k : Core) (c : Crew) (word : Word) : Core :=
  { k with
    pipes := k.pipes ++ [pipeOf word]
    xfm := if pipeOf word == 4 then c.sched else k.xfm
    xfmNow := k.xfmNow || pipeOf word == 4 }

/-- The machine after a word of a selected crew (R47, R264): where it issued, what issuing does, and the rest of a chain
follows in the same turn. -/
def State.afterWord (t : State) (core : Nat) (c : Crew) (word : Word) (lost : Bool) : State :=
  let t := { t with cur := none }
  let now := t.crew? c.ref
  let goes := bitOf word 0 && now.any fun d => d.wordAddr == c.wordAddr + 4
  let pfx := c.pfx.isNone && now.any (·.pfx.isSome)
  if pfx then t.modCore core fun k => { k with pipes := k.pipes ++ [pipeOf word] }
  else if !wordIssued t c lost then t.endTurn core c.sched
  else
    let t := (t.issueBy core c (bitOf word 0)).modCore core (·.issue c word)
    if goes then t else t.endTurn core c.sched

/-! Steps the device takes of itself (log 2) -/

/-- The first of some steps that can happen. -/
def firstNext {α : Type} (f : α → Host.Outcome State Fault Refusal) : List α → Option State
  | [] => none
  | a :: rest =>
    match f a with
    | .next t => some t
    | _ => firstNext f rest

/-- A crew's own wait ended, its reply written, its walk for the debug interface taken on. -/
def State.crewStep (s : State) : Option State :=
  let waiting := (s.crews.filter fun c => c.st != .ready).map Crew.ref
  let walking := (s.crews.filter fun c => c.st == .halted && c.walks).map Crew.ref
  (firstNext (execReverseStep · s) walking) <|>
  (firstNext (execDebugStepEnd · s) waiting) <|>
  (firstNext (execTransformReply · s) ((s.crews.filter fun c => !c.pend.isEmpty).map Crew.ref)) <|>
  (firstNext (execCrewExited · s) waiting) <|>
  (firstNext (execQueueGrant · s) waiting) <|>
  (firstNext (execBwaitReturn · s) waiting) <|>
  (firstNext (execTakeGrant · s) waiting) <|>
  (firstNext (execFetchwReply · s) waiting) <|>
  (firstNext (execYieldWake · s) waiting) <|>
  (firstNext (execAccrdWaitEnd · s) waiting)

/-- An engine of a core taken on: the matrix unit, the tile sequencer, the copy engine. -/
def State.engineStep (s : State) : Option State :=
  let uids := s.wgs.map (·.uid)
  let ids := s.copies.map (·.id)
  (firstNext (execWtabTransfer · s) uids) <|>
  (firstNext (execMatrixRowFinal · s) uids) <|>
  (firstNext (execMtileStep · s) uids) <|>
  (firstNext (execCopyComplete · s) ids) <|>
  (firstNext (execCopyEndEarly · s) ids) <|>
  (firstNext (execCopyWrite · s) ids) <|>
  (firstNext (execCpyqElementPush · s) ids)

/-- Nodes in the order in which the Cox takes them (R258). -/
def byOrder (l : List NodeRun) : List NodeRun :=
  l.foldr (fun n r => (r.takeWhile fun m => NodeRun.before m n) ++ n :: r.dropWhile fun m => NodeRun.before m n) []

/-- A saved workgroup restored on the lowest core that takes it. -/
def State.restoreAuto (s : State) (w : Wg) : Option State :=
  match (List.range s.cores.length).find? (s.restoreRoom w) with
  | none => none
  | some k =>
    firstNext (execWorkgroupRestore w.uid k · s) [((s.freeSlots k).take w.ncrew).map fun p => ⟨p.1, p.2, 0⟩]

/-- Whether the Cox takes the save of a workgroup on: one that it has begun, or one that pre-emption takes next; those of a
core that leaves placement go with the core (R267, R355). -/
def State.savesNow (s : State) (w : Wg) : Bool :=
  if w.saving then !(w.core.any fun k => (s.core k).leaving) else s.preempts w

/-- The Cox taken on: bulk copies, doorbells, restores, starts, placements, pre-emption. -/
def State.coxStep (s : State) : Option State :=
  let nodes := byOrder (s.nodes.filter fun n => !n.closed)
  (firstNext (execBulkCopyEnd · s) (nodes.map (·.addr))) <|>
  (firstNext (fun _ => execDoorbellServe s) [()]) <|>
  (s.wgs.filter (·.core.isNone)).findSome? s.restoreAuto <|>
  (firstNext (execNodeStart · s) ((nodes.filter fun n => !n.running).map (·.addr))) <|>
  (nodes.filter (·.running)).findSome? s.placeAuto <|>
  (firstNext (fun w => execWorkgroupSave w.uid ((s.savePlace w).getD 0) s) (s.wgs.filter s.savesNow))

/-- The hub die taken on: a report in progress (R381). -/
def State.hubStep (s : State) : Option State :=
  if s.port.att.isEmpty then none else firstNext (fun _ => execAttestationReportWritten s) [()]

/-- Whether a command is that of a bulk-copy node, which the hub die's engine runs (R257). -/
def CopyCmd.isBulk (k : CopyCmd) : Bool := match k.kind with | .bulk _ => true | _ => false

/-- Whether the slot that records of a region wait for is free now (R349). -/
def State.recheckDue (s : State) (r : Region) : Bool := !r.waiting.isEmpty && !s.slotFull r

/-- What the hub die does of itself without the compute dies (R4, R382, log 22): the Cox's doorbells and nodes, bulk copies,
fault queues, reports. -/
def State.hubAlone (s : State) : Option State :=
  (firstNext (execBulkCopyEnd · s) (s.nodes.map (·.addr))) <|>
  (firstNext (execCopyWrite · s) ((s.copies.filter (·.isBulk)).map (·.id))) <|>
  (firstNext (fun _ => execDoorbellServe s) [()]) <|>
  (firstNext (execNodeStart · s) ((byOrder (s.nodes.filter fun n => !n.closed && !n.running)).map (·.addr))) <|>
  (firstNext (execFaultQueueRecheck · s) ((s.regions.filter s.recheckDue).map (·.rcb))) <|> s.hubStep

/-- The rest of the device taken on: watchdogs, cores that leave placement, fault queues, rounds, the hub die. -/
def State.deviceStep (s : State) : Option State :=
  (firstNext (execWatchdogExpired · s) (s.wgs.map (·.uid))) <|>
  (firstNext (execCoreRemoval · [] s) ((List.range s.cores.length).filter fun k => (s.core k).leaving)) <|>
  (firstNext (execFaultQueueRecheck · s) ((s.regions.filter s.recheckDue).map (·.rcb))) <|>
  (firstNext (fun p => execMcrRoundDelivery p.1 p.2 s)
    (s.groups.flatMap fun g => g.rounds.map fun r => (g.id, r.off))) <|> s.hubStep

/-- A step that the device takes of itself, if any is due. -/
def State.autoStep (s : State) : Option State := s.crewStep <|> s.engineStep <|> s.coxStep <|> s.deviceStep

/-! What holds after every step -/

/-- Launches that are over and have no workgroup left dropped (R262, R301). -/
def State.dropClosed (s : State) : State :=
  (s.nodes.filter (·.closed)).foldl (fun s n => s.settleLaunch n.id) s

/-- A READY crew whose next word cannot issue (R263): one that waits for a register, a queue, a mailbox or a window round is
SCORE or BLOCKED, a run-on that comes to a stall point is STALLED, and one that wants the transform pipe while it serves another
scheduler is SCORE (R51), before a scheduler selects it. -/
def State.lookAhead (s : State) (r : CrewRef) : State :=
  match s.residentCrew r with
  | none => s
  | some (c, w) =>
    if c.st != .ready || c.walk.isSome || c.expired.isSome then s else
    match s.issueWait w c with
    | some (.stalled, _) => s.finish c false .stall
    | some (st, k) => s.finish c false (.wait st k)
    | none =>
      let k := s.core (w.core.getD 0)
      if k.xfmNow && k.xfm != c.sched && s.atXfm w c then s.finish c false (.wait .score .pipe) else s

/-- Every READY crew stands at a word that can issue, or leaves the state (R263). -/
def State.settleReady (s : State) : State := (s.crews.map Crew.ref).foldl State.lookAhead s

/-- Run-ons whose phase has passed end; crews whose next word cannot issue leave READY; workgroups that nothing can wake are
reported; launches that are over go (R262, R263, R281, R289, R294). -/
def State.settle (s : State) : State := s.settleRunons.settleReady.settleStuck.dropClosed

/-! One word -/

/-- The end of a step in a way of going on. -/
def onNext (f : State → State) : Host.Outcome State Fault Refusal → Host.Outcome State Fault Refusal
  | .next t => .next (f t)
  | .fault r => .fault r
  | .refused r => .refused r

/-- A crew whose WAITCNT begins anew (R265). -/
def State.rested (s : State) (r : CrewRef) : State :=
  match s.crew? r with
  | some d => s.setCrew { d with waitcnt := 0 }
  | none => s

/-- One turn of a READY crew, with the meanings of the instructions: a step of its walk, WATCHDOG_EXPIRED, a fetch fault,
or the word at its PC (R46, R295, R344). A crew that walks restarts its WAITCNT when it is selected (R265). DESIGN CHOICE
(log 7): a reverse step is no word that issues, and clears no latches of the other crews (R27). -/
def State.runCrew (ex : Instr → State → Host.Outcome State Fault Refusal) (s : State) (r : CrewRef) :
    Host.Outcome State Fault Refusal :=
  match s.residentCrew r with
  | none => .refused .noCrew
  | some (c, w) =>
    let core := w.core.getD 0
    if c.st != .ready then .refused .noCrew
    else match c.walk with
    | some k => .next (((s.walkOn c w k).rested r).endTurn core c.sched).settle
    | none =>
      if c.expired.isSome then .next ((s.expire c).endTurn core c.sched).settle else
      let q := s.fetchNext w c
      match q.2.2 with
      | .error f => .next ((q.1.raiseFault c f).endTurn core c.sched).settle
      | .ok word =>
        let lost := lostRead (instrOf word) ⟨q.1, q.2.1, w, q.2.1.after, false⟩
        onNext (fun t => (t.afterWord core c word lost).settle) (ex (instrOf word) { q.1 with cur := some r })

/-- The schedulers of a core whose selections would bring a word to the transform pipe (R51). -/
def State.presenting (s : State) (core : Nat) : List Nat :=
  [0, 1, 2, 3].filter fun q => (((s.core core).sched q).select (s.readyOn core q)).any fun p =>
    (s.wg? p.1.wg).any fun w => s.atXfm w p.1

/-- A cycle of a core begins (R51): where several schedulers have a word for the transform pipe, it serves the next of them in
rotation, and the crews of the others that want it wait. -/
def State.beginCycle (s : State) (core : Nat) : State :=
  let k := s.core core
  let l := s.presenting core
  if k.midCycle || l.length < 2 then s else
  match (([1, 2, 3, 4].map fun i => (k.xfm + i) % 4).find? l.contains) with
  | some q => (s.modCore core fun k => { k with xfm := q, xfmNow := true }).settleReady
  | none => s

/-- A turn of the schedulers: the selected crew's, or the end of a cycle. -/
def State.schedule (ex : Instr → State → Host.Outcome State Fault Refusal) (s : State) : Host.Outcome State Fault Refusal :=
  match s.nextCore with
  | none => .next { s with cores := s.cores.map fun (k : Core) => { k with cyc := k.cyc + 1 } }
  | some core =>
    let s := { s with turn := core }.beginCycle core
    match s.selectOn core with
    | none => .next (s.tickCore core).settleReady
    | some (q, c, run) => (s.chosen core q c.ref run).runCrew ex c.ref

/-- The machine as the schedulers of a crew's core select it next, whatever the order of R264 is (log 2): in a new cycle where
the turn of its scheduler is over. -/
def State.called (s : State) (r : CrewRef) : State :=
  match s.residentCrew r with
  | none => s
  | some (c, w) =>
    let core := w.core.getD 0
    let k := s.core core
    let mine := (k.sched c.sched).cur == some r
    let s := if k.turn < c.sched || (k.turn == c.sched && (k.pipes.isEmpty || mine)) then s else s.tickCore core
    s.chosen core c.sched r (if mine then (k.sched c.sched).run else 0)

/-- Whether an event needs the compute dies or HBM4: the hub die with the Cox, its port, its links and DDR-5 goes on without them
(R4, R382, log 22). -/
def State.needsPower (s : State) (i : Instr) : Bool :=
  match i with
  | .powerOnReset _ | .coldReset _ | .warmReset | .powerAlarmRaise _ _ | .powerAlarmClear _ _ | .flitReceive _ _
  | .linkRetrainDown _ | .linkRetrainUp _ | .linkRetrainDone _ _ | .mgmtRegisterWrite _ _ _ | .dbell _ _ | .grpremove _
  | .grpstatRead | .ctlstatRead | .attstatRead | .errlostRead | .ctlopResume _ | .ctlopHaltCrew _ | .ctlopHaltWorkgroup _
  | .ctlopKillWorkgroup _ | .ctlopKillFaultDomain _ | .attreq _ | .attestationReportWritten | .debugHaltCrew _
  | .debugHaltWorkgroup _ | .debugResume _ | .debugStep _ _ | .debugBack _ _ | .debugReadState _ _ | .debugWriteState _ _ _
  | .debugReadWake _ | .debugBreakpointOn _ | .debugBreakpointOff _ | .debugWatchpointSet _ _ | .debugWatchpointClear _
  | .debugAttach _ | .debugDetach | .grpinst _ | .mcrRoundDelivery _ _ | .doorbellServe | .nodeStart _ | .bulkCopyEnd _
  | .faultQueueRecheck _ => false
  | .copyWrite id => !(s.copy? id).any (·.isBulk)
  | .scrubErrorReport a => a < hbmEnd
  | .controlNodeRead a _ | .controlNodeWrite a _ | .remoteAccess a _ => a < hbmEnd
  | _ => true

/-- One step (log 2): the head of the agenda; else a step that the device takes of itself; else a turn of the schedulers.
A device whose compute dies have no power takes only what needs none of them, and else stands still (R372, R382). -/
def State.stepBy (ex : Instr → State → Host.Outcome State Fault Refusal) (s : State) : Host.Outcome State Fault Refusal :=
  match s.agenda with
  | .event i :: rest =>
    if !s.powered && s.needsPower i then .fault .noPower
    else onNext State.settle (ex i { s with agenda := rest, cur := none })
  | .crew r :: rest => if s.powered then (({ s with agenda := rest }).called r).runCrew ex r else .fault .noPower
  | [] =>
    if !s.powered then .next ((s.hubAlone.map State.settle).getD s) else
    match s.autoStep with
    | some t => .next t.settle
    | none => s.schedule ex

end Sys2Proof.Machine
end

