-- ==== Sys2Proof/Machine/Load.lean ====
section
/-! DEFINITION. One instruction placed where the next step fetches it: the load of a program that a control node makes
through its port, for the checks of single instructions (log 11). -/

namespace Sys2Proof.Machine

/-- The first crew that fetches its next word with no more ado, its workgroup, and the physical byte of that word. -/
def State.fetcher (s : State) : Option (Crew × Wg × Nat) :=
  s.crews.findSome? fun c =>
    if c.st != .ready || c.walk.isSome || c.pfx.isSome || c.expired.isSome || c.pc.toNat % 12 != 0 then none else
    match s.residentCrew c.ref with
    | none => none
    | some (_, w) =>
      let base := c.pc.toNat
      match (s.fetchPacket w base).2, (s.xlateRun (s.rootOf w) base 12 .fetch).2 with
      | .ok _, .ok (p :: _) => if 4 ≤ p.len then some (c, w, p.phys.rd) else none
      | _, _ => none

/-- The word stored in the code that a launch runs. -/
def State.patchCode (s : State) (w : Wg) (a : Nat) (bs : List Byte) : State :=
  match s.node? w.launch with
  | some n => s.setNode { n with code := memWrite n.code a bs }
  | none => s

/-- Where the loaded instruction lies: virtual and physical (a multiple of 12). -/
def loadAddr : Nat := 0xC0000

/-- Tables that map the first 16 GiB onto themselves, readable, writable and executable (R310, R311): three levels, the
last with the sixteen equal entries of one page. -/
def loadTables : List (Nat × Nat) :=
  let next (t : Nat) : Nat := 1 + 15 * 2 ^ 24 + t / 4096 * 2 ^ 28
  (0x300000000, next 0x300002000) :: (0x300002000, next 0x300004000) ::
    (List.range 16).map fun k => (0x300004000 + 16 * k, 1 + 2 ^ 11 + 2 ^ 12 + 2 ^ 13 + 6 * 2 ^ 24)

/-- The effective values of a system region of its own (R248). -/
def loadEff : Eff :=
  { prio := 0, mode := 0, system := true, ptroot := 0x300000000, wakeBase := 0x500000000, wakeSize := 0x10000
    saveBase := 0x600000000, saveSize := 0x10000, faultq := 0x700000000, fqlen := 64, cores := 256, regblk := 98304
    scrgran := 49152, wdog := 15, redun := 0, share := 0x10000, shares := 1024 }

/-- The region (R248). -/
def loadRegion : Region :=
  { rcb := 0x600, parents := [], fdom := true, eff := loadEff, put := 0, lost := 0, waiting := [], prot := true
    killed := false, begun := true }

/-- The launch: one workgroup of one crew, with every register, 48 granules of scratchpad, 8 tiles and 4 weight slots
(R252). -/
def loadDesc : Desc :=
  { qmap := List.replicate 8 0, sw := 0, allin := false, fmode := 1, scrgran := 48, wsl := 4, acc := 8, regblk := 12
    ncrew := 0, dimx := 1, dimy := 1, dimz := 1, entry := 0, code := loadAddr }

/-- The launch's node, RUNNING. -/
def loadNode (id : Nat) (code : List Host.Cell) : NodeRun :=
  { id := id, addr := 0x800, kind := 1, running := true, region := 0x600, arg := 0, subop := 0, succ := 0, nsucc := 0
    onfail := false, eff := loadEff, chain := [(0x600, loadEff)], desc := loadDesc, next := 1, done := 0, seq := id
    clock := [], ended := [], code := code, fdoms := [true], hist := List.replicate 33 0, samples := 0, leftover := 0, closed := false }

/-- A machine with a crew that runs an instruction next: tables, region, launch, workgroup. -/
def State.loaded (s : State) (bs : List Byte) : State :=
  let mem := loadTables.foldl (fun m e => memWrite m e.1 (leBytes e.2 16)) s.mem
  let n := loadNode s.nextId (memWrite mem loadAddr bs)
  let s := { s with
    mem := memWrite mem loadAddr bs
    regions := if (s.region? 0x600).isSome then s.regions else s.regions ++ [loadRegion]
    nodes := s.nodes ++ [n], nextId := s.nextId + 1, powered := true }
  { s.addWg n 0 0 [(s.freeSlots 0).headD (0, 0) |> fun p => ⟨p.1, p.2, 0⟩] none false with
    agenda := [.crew ⟨s.nextId, 0⟩] }

/-- The bytes of a word placed where the next step fetches (log 11). -/
def State.place (s : State) (bs : List Byte) : State :=
  match s.fetcher with
  | some (c, w, a) => { s.patchCode w a bs with agenda := [.crew c.ref], powered := true }
  | none => s.loaded bs

end Sys2Proof.Machine
end

