-- ==== Sys2Proof/Machine/Step.lean ====
section
/-! DEFINITION. One step of the machine, and an instruction placed where the next step fetches it. -/

namespace Sys2Proof.Machine

/-- One step (log 2). -/
def step (s : State) : Host.Outcome State Fault Refusal := s.stepBy exec

/-- An instruction whose bits are w, numbered as the opcode table numbers them, stored where the next step fetches
(log 11). -/
def State.withFetchWord (s : State) (nbits w : Nat) : State :=
  s.place (bytesOfWord (BitVec.ofNat 32 (w % 2 ^ nbits)))

end Sys2Proof.Machine
end

