-- ==== Sys2Proof/Safety.lean ====
section
/-! DEFINITION. What claims about a word or a step speak of: when a word goes on to its meaning, what a counted word
leaves of its crew, where a result lands, what a word leaves as it was, and the form every state of a run has. -/

namespace Sys2Proof.Machine

/-- Whether a step ends in a next state. -/
def goesOn (s : State) : Bool :=
  match step s with
  | .next _ => true
  | _ => false

/-! When a word goes on to its meaning -/

/-- The queue and mailbox operands of a word let it go on (R30, R241, R273, R359): it has no active thread, or is a copy
without a leader, or every queue it names is mapped, every mailbox is in the state it needs, and the queues grant it
elements and room, free of races and watched by no watchpoint. -/
def Ctx.queuesReady (x : Ctx) (i : Instr) : Prop :=
  let v := view i
  inert x.c v = true ∨ leaderless i x.c = true ∨
    ((∀ n ∈ v.pushes ++ v.pops, (x.w.queue n).valid = true) ∧ mailboxStalls x.c v = false ∧
      ((v.pushes = [] ∧ v.pops = []) ∨
        ((x.c.granted.isSome = true ∨ grantable x.s x.w x.c.ref x.s.nextId v.pops v.pushes = true) ∧ x.ringFault v = none ∧
          x.ringWatched v = false)))

/-- A word of the crew at hand goes on to its meaning: the crew is READY, in no walk and not running on, its watchdog has
not expired, it is not sampled by a shadow where the word would end that (R357), the word passes steps 1 to 4 of R72, is
permitted (R302), and finds its registers, latches and queues ready (R27, R168, R273, R348, R351). -/
structure Goes (i : Instr) (s : State) (x : Ctx) : Prop where
  ctx : s.ctx = some x
  live : x.c.expired = none
  alone : (abandonsSampling i && (x.w.isShadow || x.w.sampled)) = false
  legal : firstFault i x.c x.w = none
  allowed : isPrivileged i = true → s.systemWg x.w = true
  settled : x.c.runon = none
  awaited : ∀ n ∈ (view i).vecRegs, n ∉ x.c.pendingRegs
  found : ∀ r ∈ x.c.replays, ¬ (r.lost = true ∧ r.home = x.c.ic)
  sound : x.c.failing (readRegs i) = []
  latched : lostLatch i x.c = none
  queues : x.queuesReady i

/-- No HALT under way, no step count of the debugger, no forward run after a walk: the next instruction is like any. -/
structure Calm (x : Ctx) : Prop where
  halting : x.c.halting = .none
  steps : x.c.steps = none
  replays : x.c.replays = []

/-- The wake ring has room for whatever one instruction pushes (R341). -/
def Roomy (x : Ctx) : Prop := x.c.wakeUsed + 2048 ≤ x.c.ring

/-- The sizes of a crew's register files (R20, R24, R25, R29, R30, R31, R32). -/
def Crew.shaped (c : Crew) : Bool :=
  c.o.length == 8 && c.l.length == 4 && c.m.length == 4 && c.s.length == 32 && c.p.length == 7 && c.sp.length == 4

/-- A word that goes on, in a crew of the right shape with nothing else under way. -/
structure Runs (i : Instr) (s : State) (x : Ctx) : Prop where
  goes : Goes i s x
  calm : Calm x
  roomy : Roomy x
  shaped : x.c.shaped = true

/-! What a counted word leaves of its crew -/

/-- The crew that ran is there after it, counted once, at an address, with no prefix pending, READY (R322). -/
def CountedTo (x : Ctx) (t : State) (c : Crew) (pc : DWord) : Prop :=
  t.crew? x.c.ref = some c ∧ c.ic = x.c.ic + 1 ∧ c.pc = pc ∧ c.pfx = none ∧ c.st = .ready ∧ c.wait = .none

/-- Counted once, at the next word. -/
def Counted (x : Ctx) (t : State) (c : Crew) : Prop := CountedTo x t c x.c.after

/-- A crew without what any counted word may change: counters, the place, register files, predicates, FMODE, LFSR, the
wake, the commit count, what its accesses have ordered, and the signature of a sampled run. What is left is unchanged by
words whose frames say so: identity, slot, MASK and the mask stack, CF, trap and system registers, the share. -/
def Crew.rest (c : Crew) : Crew :=
  { c with
    ic := 0, pc := 0, xfer := false, pfx := none, granted := none, bkptOnce := false, waitcnt := 0, st := .ready
    wait := .none, v := [], o := [], l := [], m := [], s := [], p := [], sp := [], fmode := 0, lfsr := 0, wake := []
    wakep := 0, badRegs := [], stat := [], clock := [], relScope := 0, pendAcq := [], fenceClk := [], commit := 0, commitAt := 0, tail := 0, crc := [] }

/-- What a word leaves of its crew besides its own effect, for a crew with that effect: a boundary commits and empties the
wake (R325, R336, R338), any other word leaves the commit count; the rest is as that crew has it. -/
def KeptAs (i : Instr) (x : Ctx) (y c : Crew) : Prop :=
  c.rest = y.rest ∧
    if isBoundary i then c.commit = x.c.ic + 1 ∧ c.commitAt = x.c.pc ∧ c.wake = []
    else c.commit = x.c.commit ∧ c.commitAt = x.c.commitAt ∧ c.tail = x.c.tail

/-- The same for a word without an effect on the rest. -/
def Kept (i : Instr) (x : Ctx) (c : Crew) : Prop := KeptAs i x x.c c

/-- Every v and o register but the named ones is unchanged. -/
def SameRegs (c d : Crew) (but : List Nat) : Prop := ∀ n, n ∉ but → d.vreg n = c.vreg n

/-- Scalar registers, predicates and scalar predicates are unchanged. -/
def SameScalars (c d : Crew) : Prop := d.s = c.s ∧ d.p = c.p ∧ d.sp = c.sp

/-- FMODE, with its sticky flags, and the LFSR are unchanged. -/
def SameModes (c d : Crew) : Prop := d.fmode = c.fmode ∧ d.lfsr = c.lfsr

/-- FMODE changes by sticky flags that are set and by nothing else (R98). -/
def StickyOnly (c d : Crew) : Prop := ∃ f : Word, f &&& ~~~stickyMask = 0 ∧ d.fmode = c.fmode ||| f

/-- Bytes of records that the crew at hand has pushed. -/
def grown (x : Ctx) (t : State) : Nat := ((t.crew? x.c.ref).map Crew.wakeUsed).getD 0 - x.c.wakeUsed

/-- Everything outside a crew is unchanged: every byte of memory, every other crew, every workgroup with its scratchpad,
tiles and queues, and the rest of the machine; a failing unit of the crew's ring that a record is pushed over is good again
(R352). -/
def SameMachine (x : Ctx) (s t : State) : Prop :=
  (∀ a, memByte t.mem a = memByte s.mem a) ∧ (∀ r, r ≠ x.c.ref → t.crew? r = s.crew? r) ∧
    (∀ u, t.wg? u = s.wg? u) ∧ { t with crews := [], wgs := [] } = { s.repairRing x.c (grown x t) with crews := [], wgs := [] }

/-- What a word that names no queue leaves as it was outside its crew. -/
def SameUnlessQueues (i : Instr) (x : Ctx) (s t : State) : Prop :=
  (view i).pops = [] → (view i).pushes = [] → SameMachine x s t

/-! Where results land -/

/-- A vector result in destination field d (R25, R26, R28, R30, R34, R64): a v or o register takes it in the active threads; a
queue takes it as its newest element, zero in inactive threads; a mailbox takes the lowest active thread's; a latch field
makes it the new l0, valid, which keeps in inactive threads what l0 held, or zero where l0 was invalid; zero takes nothing. -/
def Lands (x : Ctx) (t : State) (c : Crew) (d : BitVec 7) (v : Nat → Word) : Prop :=
  match vecKind d with
  | .v | .o => ∀ th, th < 32 →
      lane (c.vreg d.toNat).vals th = if x.act.getLsbD th then v th else lane (x.c.vreg d.toNat).vals th
  | .q => x.act ≠ 0 → ∃ w, t.wg? x.w.uid = some w ∧ 0 < (w.queue (d.toNat - 104)).count ∧ ∀ th, th < 32 →
      lane (w.element (d.toNat - 104) ((w.queue (d.toNat - 104)).count - 1)) th = if x.act.getLsbD th then v th else 0
  | .m => ∀ th, lowest x.act = some th → c.mbox (d.toNat - 116) = ⟨v th, true⟩
  | .l => x.act ≠ 0 → (c.latch 0).valid = true ∧ ∀ th, th < 32 →
      lane (c.latch 0).vals th = if x.act.getLsbD th then v th
        else if (x.c.latch 0).valid then lane (x.c.latch 0).vals th else 0
  | _ => True

/-- The v and o registers that a destination of n registers from field d names. -/
def destRegs (d : BitVec 7) (n : Nat) : List Nat :=
  match vecKind d with
  | .v | .o => (List.range n).map (d.toNat + ·)
  | _ => []

/-- A scalar result in destination field d (R29, R30). -/
def LandsS (c : Crew) (d : BitVec 7) (w : Word) : Prop :=
  match uniKind d with
  | .s => c.sreg d.toNat = w
  | .m => c.mbox (d.toNat - 116) = ⟨w, true⟩
  | _ => True

/-- The s registers unchanged but those of a destination of n registers from field d. -/
def SameSregs (c c' : Crew) (d : BitVec 7) (n : Nat) : Prop :=
  ∀ k, ¬ (uniKind d = .s ∧ d.toNat ≤ k ∧ k < d.toNat + n) → c'.sreg k = c.sreg k

/-- Mailboxes that a word neither reads nor writes are unchanged. -/
def SameMboxes (i : Instr) (c d : Crew) : Prop :=
  ∀ n, n ∉ (view i).mboxReads ++ (view i).mboxWrites → d.mbox n = c.mbox n

/-- A vector word completes with one result: the values, by thread, that field d takes; the sticky flags that the active
threads raise; the generator's state; nothing else changes but the wake, the latches and the crew's clock (R19, R34, R98,
R103, R322). -/
def Yields (i : Instr) (s : State) (x : Ctx) (d : BitVec 7) (val : Nat → Word) (fl : Nat → Flags) (lfsr : Word) : Prop :=
  ∃ t c, exec i s = .next t ∧ Counted x t c ∧ Lands x t c d val ∧
    c.fmode = x.c.fmode ||| (activeFlags x.act (threads.map fun th => (val th, fl th))).word ∧ c.lfsr = lfsr ∧
    SameRegs x.c c (destRegs d 1) ∧ SameScalars x.c c ∧ SameMboxes i x.c c ∧ Kept i x c ∧ SameUnlessQueues i x s t

/-- The generator after a word that draws from it, once, where `draws` holds, whether or not any thread is active (R103). -/
def drawn (x : Ctx) (draws : Bool) : Word := if draws then lfsrForward x.c.lfsr else x.c.lfsr

/-- A vector word that neither rounds nor draws: no flag is raised and the generator stands. -/
def IntegerResult (i : Instr) (d : BitVec 7) (val : Ctx → Nat → Word) : Prop :=
  ∀ s x, Runs i s x → Yields i s x d (val x) (fun _ => {}) x.c.lfsr

/-- A vector word that rounds in a mode: values with flags; the generator is drawn from where the mode is stochastic. -/
def FloatResult (i : Instr) (d : BitVec 7) (rnd : Nat) (val : Ctx → Nat → Word × Flags) : Prop :=
  ∀ s x, Runs i s x → Yields i s x d (fun th => (val x th).1) (fun th => (val x th).2)
    (drawn x ((x.c.fenv rnd).mode == .sr))

/-- A word of the scalar side completes with one result: field d takes it, whatever MASK holds; no vector register,
latch or flag changes (R122). -/
def ScalarResult (i : Instr) (d : BitVec 7) (val : Ctx → Word) : Prop :=
  ∀ s x, Runs i s x → ∃ t c, exec i s = .next t ∧ Counted x t c ∧ LandsS c d (val x) ∧ SameModes x.c c ∧
    SameRegs x.c c [] ∧ c.l = x.c.l ∧ SameSregs x.c c d 1 ∧ c.p = x.c.p ∧ c.sp = x.c.sp ∧ SameMboxes i x.c c ∧
    Kept i x c ∧ SameMachine x s t

/-- A pair of vector registers in the active threads, elsewhere as it was; a zero destination takes nothing (R65, R119). -/
def LandsPair (x : Ctx) (c : Crew) (d : BitVec 7) (v : Nat → DWord) : Prop :=
  match vecKind d with
  | .v | .o => ∀ th, th < 32 →
      pairOf (lane (c.vreg d.toNat).vals th) (lane (c.vreg (d.toNat + 1)).vals th) =
        if x.act.getLsbD th then v th
        else pairOf (lane (x.c.vreg d.toNat).vals th) (lane (x.c.vreg (d.toNat + 1)).vals th)
  | _ => True

/-- A vector word completes with a pair (R119); no flag is raised and the generator stands. -/
def PairResult (i : Instr) (d : BitVec 7) (val : Ctx → Nat → DWord) : Prop :=
  ∀ s x, Runs i s x → ∃ t c, exec i s = .next t ∧ Counted x t c ∧ LandsPair x c d (val x) ∧ SameModes x.c c ∧
    SameRegs x.c c (destRegs d 2) ∧ SameScalars x.c c ∧ SameMboxes i x.c c ∧ Kept i x c ∧ SameUnlessQueues i x s t

/-- A scalar word completes with a pair of s registers, or none for zero (R119, R122). -/
def ScalarPairResult (i : Instr) (d : BitVec 7) (val : Ctx → DWord) : Prop :=
  ∀ s x, Runs i s x → ∃ t c, exec i s = .next t ∧ Counted x t c ∧
    (uniKind d = .s → pairOf (c.sreg d.toNat) (c.sreg (d.toNat + 1)) = val x) ∧ SameModes x.c c ∧ SameRegs x.c c [] ∧
    c.l = x.c.l ∧ SameSregs x.c c d 2 ∧ c.p = x.c.p ∧ c.sp = x.c.sp ∧ SameMboxes i x.c c ∧ Kept i x c ∧ SameMachine x s t

/-- A compare or a word on predicates completes (R31, R34, R123, R124): predicate d takes the bits in the active threads,
p7 discards them; the given sticky flags are raised; no register, latch or other predicate changes. -/
def PredResult (i : Instr) (s : State) (x : Ctx) (d : Nat) (bit : Nat → Bool) (fl : Word) : Prop :=
  ∃ t c, exec i s = .next t ∧ Counted x t c ∧
    (∀ th, th < 32 → (c.pred d).getLsbD th = if d < 7 ∧ x.act.getLsbD th then bit th else (x.c.pred d).getLsbD th) ∧
    (∀ n, n ≠ d → c.pred n = x.c.pred n) ∧ c.fmode = x.c.fmode ||| fl ∧ c.lfsr = x.c.lfsr ∧ c.s = x.c.s ∧ c.sp = x.c.sp ∧
    c.l = x.c.l ∧ SameRegs x.c c [] ∧ SameMboxes i x.c c ∧ Kept i x c ∧ SameUnlessQueues i x s t

/-- A compare or a word on predicates of the scalar side completes: scalar predicate d takes the bit (R122, R123). -/
def ScalarPredResult (i : Instr) (d : Nat) (bit : Ctx → Bool) : Prop :=
  ∀ s x, Runs i s x → ∃ t c, exec i s = .next t ∧ Counted x t c ∧ c.sp.getD d false = bit x ∧
    (∀ n, n ≠ d → c.sp.getD n false = x.c.sp.getD n false) ∧ SameModes x.c c ∧ SameRegs x.c c [] ∧ c.l = x.c.l ∧
    c.s = x.c.s ∧ c.p = x.c.p ∧ SameMboxes i x.c c ∧ Kept i x c ∧ SameMachine x s t

/-- A word of a crew faults before any effect: the exception is taken with the record of R349. -/
def FaultsWith (i : Instr) (s : State) (x : Ctx) (f : Flt) : Prop := exec i s = .next (s.raiseFault x.c f)

/-- No register, predicate, flag, latch or mailbox changes. -/
def Unwritten (c d : Crew) : Prop :=
  SameRegs c d [] ∧ SameScalars c d ∧ SameModes c d ∧ d.l = c.l ∧ d.m = c.m

/-- Memory, the other crews and every workgroup are unchanged. -/
def SameOutside (x : Ctx) (s t : State) : Prop :=
  (∀ a, memByte t.mem a = memByte s.mem a) ∧ (∀ r, r ≠ x.c.ref → t.crew? r = s.crew? r) ∧ ∀ u, t.wg? u = s.wg? u

/-- Where the wake pointer stands after a word, by the record that it has pushed, if any (R339, R340). -/
def WakeAt (x : Ctx) (c : Crew) : Prop :=
  (c.wake = x.c.wake → c.wakep = x.c.wakep) ∧ ∀ r, c.wake = r :: x.c.wake → c.wakep = x.c.ringStep x.c.wakep r.size

/-- The wake after a word that is no boundary, for a crew with the word's effect: its records and no other (R336, R337). -/
def WakeIs (i : Instr) (x : Ctx) (y c : Crew) : Prop := isBoundary i = false → c.wake = y.wake ∧ WakeAt x c

/-- A control word is not taken, or a word is done that leaves the register files; its own effect on the crew is made, with
the records that it pushes (R324, R326, R328, R337). -/
def Passed (i : Instr) (s : State) (x : Ctx) (y : Crew) : Prop :=
  ∃ t c, exec i s = .next t ∧ Counted x t c ∧ c.xfer = false ∧ KeptAs i x y c ∧ WakeIs i x y c ∧ Unwritten y c ∧
    SameMachine x s t

/-- A control word transfers to a target, its own effect on the crew made: CF takes the distance in words, its old value is
recorded (R324, R326, R337). -/
def Transfers (i : Instr) (s : State) (x : Ctx) (y : Crew) (target : DWord) : Prop :=
  let cf := BitVec.ofInt 32 (((x.c.pc.toNat : Int) - target.toNat) / 4)
  ∃ t c, exec i s = .next t ∧ CountedTo x t c target ∧ c.xfer = true ∧ KeptAs i x { y with cf := cf } c ∧ Unwritten y c ∧
    c.wake = { mask := x.act, ic := x.c.ic, body := .cf x.c.cf } :: y.wake ∧ SameOutside x s t

/-- A target that a transfer may go to (R324, R326): less than 2^31 words away, and ARRIVE is fetched there. -/
def Arrives (x : Ctx) (target : DWord) : Prop :=
  let d := ((x.c.pc.toNat : Int) - target.toNat) / 4
  d < 2 ^ 31 ∧ -(2 ^ 31 : Int) < d ∧ ∃ s' w f, x.s.fetchWord x.w target = (s', .ok w) ∧ decodeWord w = .ok (.arrive f)

/-- A target whose word is fetched and is not ARRIVE; the machine with what the fetch has cached. -/
def Unmarked (x : Ctx) (target : DWord) (s' : State) : Prop :=
  let d := ((x.c.pc.toNat : Int) - target.toNat) / 4
  d < 2 ^ 31 ∧ -(2 ^ 31 : Int) < d ∧ ∃ w, x.s.fetchWord x.w target = (s', .ok w) ∧ ∀ f, decodeWord w ≠ .ok (.arrive f)

/-- A crew record in memory (R349 Table 1): VALID with LOST, ACCESS and SLOT; SOURCE 0 with CREW, FIELD and CODE; region,
workgroup, node, count, address, faulting address, detail. -/
def RecordAt (m : List Host.Cell) (a : Nat) (w : Wg) (c : Crew) (f : Flt) (pc ic lost : Nat) : Prop :=
  memNat m a 4 = 1 + lost * 2 ^ 16 + f.access * 2 ^ 24 ∧ memNat m (a + 4) 4 = c.idx * 2 ^ 3 + f.field.num * 2 ^ 8 + f.code.num * 2 ^ 16 ∧
    memNat m (a + 8) 4 = w.region / 512 % 2 ^ 32 ∧ memNat m (a + 12) 4 = w.index.toNat ∧
    memNat m (a + 16) 8 = w.node % 2 ^ 64 ∧ memNat m (a + 24) 8 = ic ∧ memNat m (a + 32) 8 = pc ∧
    memNat m (a + 40) 8 = f.addr % 2 ^ 64 ∧ memNat m (a + 48) 16 = f.detail % 2 ^ 128

/-! The form every state of a run has -/

/-- Memory is in its canonical form and every crew has the right shape. -/
def State.Inv (s : State) : Prop :=
  memWf s.mem = true ∧ (∀ c ∈ s.crews, c.shaped = true) ∧ (∀ c ∈ s.snaps, c.shaped = true)

end Sys2Proof.Machine
end

