-- ==== Sys2Proof/Certificates/Slice0/Obligations.lean ====
section
/-! DEFINITION. The statements for the provers, and beside them what the rules of the spec give, written apart from the
model's own functions where the spec's own words can be written down. -/

namespace Sys2Proof.Claims

open Sys2Proof.Machine

/-- The two-operand integer words, with the result that R114, R116 and R117 give (R114 Table 2, R116 Table 3). -/
def binary : List ((GFields → Instr) × (Word → Word → Word)) :=
  [(.iadd, fun x y => BitVec.ofInt 32 (x.toInt + y.toInt)), (.isub, fun x y => BitVec.ofInt 32 (x.toInt - y.toInt)),
    (.imul, fun x y => BitVec.ofNat 32 (x.toNat * y.toNat)),
    (.imulh, fun x y => BitVec.ofInt 32 (x.toInt * y.toInt / 2 ^ 32)),
    (.imulhu, fun x y => BitVec.ofNat 32 (x.toNat * y.toNat / 2 ^ 32)),
    (.imin, fun x y => if x.toInt ≤ y.toInt then x else y), (.imax, fun x y => if x.toInt ≤ y.toInt then y else x),
    (.umin, fun x y => if x.toNat ≤ y.toNat then x else y), (.umax, fun x y => if x.toNat ≤ y.toNat then y else x),
    (.and, fun x y => x &&& y), (.or, fun x y => x ||| y), (.xor, fun x y => x ^^^ y), (.andn, fun x y => x &&& ~~~y),
    (.shl, fun x n => if n.toNat < 32 then BitVec.ofNat 32 (x.toNat * 2 ^ n.toNat) else 0),
    (.shr, fun x n => if n.toNat < 32 then BitVec.ofNat 32 (x.toNat / 2 ^ n.toNat) else 0),
    (.sar, fun x n => BitVec.ofInt 32 (x.toInt / 2 ^ min n.toNat 31)),
    (.rot, fun x y => (x <<< (y.toNat % 32)) ||| (x >>> (32 - y.toNat % 32))), (.bfe, bfe)]
where
  /-- BFE (R117). -/
  bfe (x c : Word) : Word :=
    let pos := c.toNat % 32
    let w := min (min (c.toNat / 256 % 64) 32) (32 - pos)
    let r := x.toNat / 2 ^ pos % 2 ^ w
    if c.getLsbD 16 ∧ 0 < w ∧ 2 ^ (w - 1) ≤ r then BitVec.ofInt 32 ((r : Int) - 2 ^ w) else BitVec.ofNat 32 r

/-- The one-operand integer words (R114, R116, R118). -/
def unary : List ((GFields → Instr) × (Word → Word)) :=
  [(.iabs, fun x => BitVec.ofNat 32 x.toInt.natAbs), (.ineg, fun x => BitVec.ofInt 32 (-x.toInt)),
    (.popc, fun x => BitVec.ofNat 32 ((List.range 32).countP fun i => x.getLsbD i)),
    (.clz, fun x => BitVec.ofNat 32 (if x = 0 then 32 else 31 - Nat.log2 x.toNat)),
    (.brev, fun x => BitVec.ofNat 32 (((List.range 32).map fun i => if x.getLsbD (31 - i) then 2 ^ i else 0).sum)),
    (.mov, fun x => x), (.not, fun x => BitVec.ofNat 32 (2 ^ 32 - 1 - x.toNat))]

/-- The accumulating integer words, d, a, b (R115, R117, R136). -/
def accumulate : List ((GFields → Instr) × (Word → Word → Word → Word)) :=
  [(.imad, fun d x y => BitVec.ofNat 32 (d.toNat + x.toNat * y.toNat)), (.bfi, bfi), (.dot2, dot 16), (.dot4, dot 8),
    (.dot8, dot 4)]
where
  /-- BFI (R117). -/
  bfi (d x c : Word) : Word :=
    let pos := c.toNat % 32
    let w := min (min (c.toNat / 256 % 64) 32) (32 - pos)
    BitVec.ofNat 32 (((List.range 32).map fun i =>
      if (if pos ≤ i ∧ i < pos + w then x.getLsbD (i - pos) else d.getLsbD i) then 2 ^ i else 0).sum)
  /-- The dot products of signed elements w bits wide (R136). -/
  dot (w : Nat) (d x y : Word) : Word :=
    let el (v : Word) (i : Nat) : Int := (BitVec.ofNat w (v.toNat / 2 ^ (w * i))).toInt
    BitVec.ofInt 32 (d.toInt + ((List.range (32 / w)).map fun i => el x i * el y i).sum)

/-- The immediate words on vector registers (R121 Table 5): the old value and the immediate. -/
def immediate : List ((IFields → Instr) × (Word → BitVec 16 → Word)) :=
  [(.iaddi, fun d n => BitVec.ofInt 32 (d.toInt + n.toInt)), (.imuli, fun d n => BitVec.ofInt 32 (d.toInt * n.toInt)),
    (.movil, fun _ n => BitVec.ofNat 32 n.toNat), (.movih, fun d n => BitVec.ofNat 32 (n.toNat * 2 ^ 16 + d.toNat % 2 ^ 16)),
    (.andi, fun d n => d &&& n.setWidth 32), (.ori, fun d n => d ||| n.setWidth 32), (.xori, fun d n => d ^^^ n.setWidth 32),
    (.roti, fun d n => (d <<< (n.toNat % 32)) ||| (d >>> (32 - n.toNat % 32)))]

/-- The immediate words on s registers (R121). -/
def immediateS : List ((IFields → Instr) × (Word → BitVec 16 → Word)) :=
  [(.smovil, fun _ n => BitVec.ofNat 32 n.toNat), (.smovih, fun d n => BitVec.ofNat 32 (n.toNat * 2 ^ 16 + d.toNat % 2 ^ 16)),
    (.saddi, fun d n => BitVec.ofInt 32 (d.toInt + n.toInt))]

/-- The integer compares (R123). -/
def compare : List ((GFields → Instr) × (Word → Word → Bool)) :=
  [(.icmpEq, fun x y => x.toNat == y.toNat), (.icmpNe, fun x y => x.toNat != y.toNat),
    (.icmpLt, fun x y => decide (x.toInt < y.toInt)), (.icmpLe, fun x y => decide (x.toInt ≤ y.toInt)),
    (.icmpUlt, fun x y => decide (x.toNat < y.toNat)), (.icmpUle, fun x y => decide (x.toNat ≤ y.toNat)),
    (.itest, fun x y => (List.range 32).any fun i => x.getLsbD i && y.getLsbD i)]

/-- The words on predicates, bit by bit (R124). -/
def predicate : List ((GFields → Instr) × (Bool → Bool → Bool)) :=
  [(.pand, fun x y => x && y), (.por, fun x y => x || y), (.pxor, fun x y => x != y)]

/-- Floating words of two operands: whether packed, and the result of a thread from the environment and the operands (R125,
R129, R102). -/
def floatBinary : List ((FFields → Instr) × Bool × (FEnv → Nat → Word → Word → Word × Flags)) :=
  [(.fadd, false, fun e th x y => e.to32 th (Exact.sum (e.mode == .rm) [e.val32 x, e.val32 y])),
    (.fsub, false, fun e th x y => e.to32 th (Exact.sum (e.mode == .rm) [e.val32 x, (e.val32 y).neg])),
    (.fmul, false, fun e th x y => e.to32 th ((e.val32 x).mul (e.val32 y))),
    (.hadd2, true, halves fp16 fun e x y => Exact.sum (e.mode == .rm) [x, y]),
    (.badd2, true, halves bf16 fun e x y => Exact.sum (e.mode == .rm) [x, y])]
where
  /-- Both 16-bit elements, each rounded once; flags joined (R98, R129). -/
  halves (g : Fmt) (op : FEnv → Exact → Exact → Exact × Flags) (e : FEnv) (th : Nat) (x y : Word) : Word × Flags :=
    let el (w : Word) (k : Nat) : Exact := g.value (g.daz e.daz (w.toNat / 2 ^ (16 * k) % 2 ^ 16))
    let lo := op e (el x 0) (el y 0)
    let hi := op e (el x 1) (el y 1)
    let rl := roundTo g lo.1 (e.rnd false th 0)
    let rh := roundTo g hi.1 (e.rnd false th 1)
    (BitVec.ofNat 32 (rl.1 + 2 ^ 16 * rh.1), (lo.2.or rl.2).or (hi.2.or rh.2))

/-- Fused multiply-adds: d + a × b with one rounding (R125, R129). -/
def floatFused : List ((FFields → Instr) × Bool × (FEnv → Nat → Word → Word → Word → Word × Flags)) :=
  [(.ffma, false, fun e th d x y => e.to32 th (Exact.fma (e.mode == .rm) (e.val32 d) (e.val32 x) (e.val32 y))),
    (.hfma2, true, halves3 fp16), (.bfma2, true, halves3 bf16)]
where
  /-- Both elements of a packed multiply-add. -/
  halves3 (g : Fmt) (e : FEnv) (th : Nat) (d x y : Word) : Word × Flags :=
    let el (w : Word) (k : Nat) : Exact := g.value (g.daz e.daz (w.toNat / 2 ^ (16 * k) % 2 ^ 16))
    let op (k : Nat) := Exact.fma (e.mode == .rm) (el d k) (el x k) (el y k)
    let r (k : Nat) := roundTo g (op k).1 (e.rnd false th k)
    (BitVec.ofNat 32 ((r 0).1 + 2 ^ 16 * (r 1).1), ((op 0).2.or (r 0).2).or ((op 1).2.or (r 1).2))

/-- The transcendental words (R130). -/
def transcendental : List ((GFields → Instr) × TFun) :=
  [(.rcp, .rcp), (.rsq, .rsq), (.sqrt, .sqrt), (.ex2, .ex2), (.lg2, .lg2), (.sin, .sin), (.cos, .cos), (.tanh, .tanh)]

/-- Words that Table 7 of R130 speaks of: infinities, the canonical NaN, 1, −1, −0, −2. -/
def minf : Word := 0xFF800000
/-- +∞. -/
def pinf : Word := 0x7F800000
/-- The canonical NaN. -/
def nan : Word := 0x7FC00000
/-- 1. -/
def one : Word := 0x3F800000
/-- −0. -/
def mz : Word := 0x80000000
/-- −2. -/
def m2 : Word := 0xC0000000
/-- No flag. -/
def ok : Flags := {}
/-- Invalid. -/
def nv : Flags := { nv := true }
/-- Division by zero. -/
def dz : Flags := { dz := true }

/-- Table 7 of R130 as words, by function: operand, result, flags; −2 for a negative operand, and exact cases. -/
def specialCases : TFun → List (Word × Word × Flags)
  | .rcp => [(minf, mz, ok), (mz, minf, dz), (0, pinf, dz), (pinf, 0, ok), (m2, 0xBF000000, ok), (nan, nan, ok)]
  | .rsq => [(minf, nan, nv), (mz, minf, dz), (0, pinf, dz), (pinf, 0, ok), (m2, nan, nv), (nan, nan, ok)]
  | .sqrt => [(minf, nan, nv), (mz, mz, ok), (0, 0, ok), (pinf, pinf, ok), (m2, nan, nv), (nan, nan, ok)]
  | .ex2 => [(minf, 0, ok), (mz, one, ok), (0, one, ok), (pinf, pinf, ok), (m2, 0x3E800000, ok), (nan, nan, ok)]
  | .lg2 => [(minf, nan, nv), (mz, minf, dz), (0, minf, dz), (pinf, pinf, ok), (m2, nan, nv), (one, 0, ok), (nan, nan, ok)]
  | .sin => [(minf, nan, nv), (mz, mz, ok), (0, 0, ok), (pinf, nan, nv), (nan, nan, ok)]
  | .cos => [(minf, nan, nv), (mz, one, ok), (0, one, ok), (pinf, nan, nv), (nan, nan, ok)]
  | .tanh => [(minf, 0xBF800000, ok), (mz, mz, ok), (0, 0, ok), (pinf, one, ok), (nan, nan, ok)]

/-- Floating compares: whether a NaN operand sets NV, and the condition on two values (R127). -/
def floatCompare : List ((GFields → Instr) × Bool × (Exact → Exact → Bool)) :=
  [(.fcmpEq, false, fun x y => !x.isNan && !y.isNan && x.cmp y == 0),
    (.fcmpLt, true, fun x y => !x.isNan && !y.isNan && decide (x.cmp y < 0)),
    (.fcmpLe, true, fun x y => !x.isNan && !y.isNan && decide (x.cmp y ≤ 0)), (.fcmpUn, false, fun x y => x.isNan || y.isNan)]

/-- FMIN and FMAX on two words after DAZ (R128): the other operand for one NaN, the canonical NaN for two, −0 below +0. -/
def smaller (e : FEnv) (x y : Word) : Word :=
  let flush (w : Word) : Word := if e.daz && w.toNat / 2 ^ 23 % 256 == 0 then w &&& 0x80000000 else w
  let a := e.val32 x
  let b := e.val32 y
  if a.isNan && b.isNan then 0x7FC00000
  else if a.isNan then flush y
  else if b.isNan then flush x
  else if a.cmp b < 0 then flush x
  else if 0 < a.cmp b then flush y
  else if x.msb then flush x else flush y

/-- The larger of two words, by the same rule. -/
def larger (e : FEnv) (x y : Word) : Word :=
  let flush (w : Word) : Word := if e.daz && w.toNat / 2 ^ 23 % 256 == 0 then w &&& 0x80000000 else w
  let a := e.val32 x
  let b := e.val32 y
  if a.isNan && b.isNan then 0x7FC00000
  else if a.isNan then flush y
  else if b.isNan then flush x
  else if a.cmp b < 0 then flush y
  else if 0 < a.cmp b then flush x
  else if x.msb then flush y else flush x

/-- Reductions and scans of words over the active threads: whether a scan, and the operation (R138). -/
def laneFold : List ((GFields → Instr) × Bool × (Word → Word → Word)) :=
  [(.redlAdd, false, fun x y => x + y), (.scanlAdd, true, fun x y => x + y),
    (.redlMin, false, least), (.scanlMin, true, least), (.redlMax, false, most), (.scanlMax, true, most)]
where
  /-- The smaller as INT32. -/
  least (x y : Word) : Word := if x.toInt < y.toInt then x else y
  /-- The larger as INT32. -/
  most (x y : Word) : Word := if x.toInt < y.toInt then y else x

/-- The active threads that a thread's result of a reduction, or of a scan, depends on (R138). -/
def folded (x : Ctx) (scan : Bool) (th : Nat) : List Nat :=
  (List.range 32).filter fun u => x.act.getLsbD u && (!scan || decide (u ≤ th))

/-- Bits of the active threads that meet a condition. -/
def ballot (x : Ctx) (p : Nat → Bool) : Word :=
  BitVec.ofNat 32 (((List.range 32).map fun u => if x.act.getLsbD u && p u then 2 ^ u else 0).sum)

/-- The words of format G, off the scalar side, that write one vector result in each active thread (R113 to R118, R128, R130,
R132 to R137). -/
def vectorG : List (GFields → Instr) :=
  binary.map (·.1) ++ unary.map (·.1) ++ accumulate.map (·.1) ++ transcendental.map (·.1) ++
    [.fmin, .fmax, .fabs, .fneg, .dot4f, .pack, .unpk, .scal]

/-- The same of format F (R125, R129, R131). -/
def vectorF : List (FFields → Instr) := floatBinary.map (·.1) ++ floatFused.map (·.1) ++ [.cvt]

/-- The lane words and RAND (R138 to R140). -/
def laneG : List (GFields → Instr) :=
  laneFold.map (·.1) ++ [.redlFadd, .scanlFadd, .shfl, .vote, .matchAny, .rand]

/-- A word, not of the lane words, writes one vector result to destination field d. -/
def Writes (i : Instr) (d : BitVec 7) : Prop :=
  (∃ m ∈ vectorG, ∃ f : GFields, f.uni = false ∧ i = m f ∧ d = f.d) ∨ (∃ m ∈ vectorF, ∃ f : FFields, i = m f ∧ d = f.d) ∨
    ∃ e ∈ immediate, ∃ f : IFields, i = e.1 f ∧ d = f.d

/-- A lane word writes destination field d. -/
def LaneWrites (i : Instr) (d : BitVec 7) : Prop := ∃ m ∈ laneG, ∃ f : GFields, i = m f ∧ d = f.d

/-- A word writes a pair of vector registers from destination field d (R119). -/
def PairWrites (i : Instr) (d : BitVec 7) : Prop :=
  ∃ m ∈ [Instr.lea, .leau, .add64], ∃ f : GFields, f.uni = false ∧ i = m f ∧ d = f.d

/-- The control words of PACK and UNPK and the scale codes of SCAL are valid in the active threads (R132, R135); no other
word has such operands. -/
def FieldsOk (i : Instr) (x : Ctx) : Prop :=
  let second (f : GFields) (th : Nat) : Word := if f.b = 127 then lane (x.srcA f.a) th else lane (x.srcB f.a f.b) th
  match i with
  | .pack f => ∀ th < 32, x.act.getLsbD th → packOk false (lane (x.srcB f.a f.b) th) = true
  | .unpk f => ∀ th < 32, x.act.getLsbD th → packOk true (second f th) = true
  | .scal f => ∀ th < 32, x.act.getLsbD th → (second f th).toNat < 1024
  | _ => True

/-- Field a of an update form names what the inverse reads again (R112): a register outside the n destination registers,
zero or lane. -/
def rereadable (f : GFields) (n : Nat) : Bool :=
  match kindOf f.uni f.a with
  | .v | .o | .s => decide (f.a.toNat < f.d.toNat ∨ f.d.toNat + n ≤ f.a.toNat)
  | .zero | .lane => true
  | _ => false

/-- A word whose own class records nothing of its destination: class I in the form that its table gives (R112, R114, R116,
R119, R121, R124), or Fresh (R111). -/
def unrecorded : Instr → Bool
  | .iadd f | .isub f | .xor f | .rot f => if f.b = 127 then rereadable f 1 else f.f
  | .lea f | .leau f | .add64 f => if f.b = 127 then rereadable f 2 else f.f
  | .pxor f => f.b = 127 && f.a ≠ f.d
  | .iaddi _ | .xori _ | .roti _ | .saddi _ => true
  | .imuli f => f.imm.toNat % 2 = 1
  | i => match view i with
    | .fmtG _ _ _ f => f.f
    | .fmtF _ f => f.f
    | _ => false

/-- Whether a word is a PACK that steps the generator for an active thread (R103), which its record notes (log 14). -/
def packSteps (i : Instr) (x : Ctx) : Bool :=
  match i with
  | .pack f => (List.range 32).any fun th =>
      x.act.getLsbD th && (x.c.fenv (packRnd (lane (x.srcB f.a f.b) th))).mode == .sr
  | _ => false

/-- The wake of a crew after a word that records one thing, or none (R336, R337, R339, R340). -/
def Records (i : Instr) (x : Ctx) (c : Crew) (body : Option WakeBody) : Prop :=
  WakeAt x c ∧ c.wake = match body with
    | some b => { mask := x.act, ic := x.c.ic, body := b, stepped := packSteps i x } :: x.c.wake
    | none => x.c.wake

/-- The tag that R36 gives a register from its old tag, the active threads and the values that it holds after the write: with
every thread active by the values alone, otherwise never more compact than before. -/
def TagAfter (old : Tag) (act : Mask) (val : Nat → Word) (new : Tag) : Prop :=
  let uniform : Prop := ∀ th < 32, val th = val 0
  let progression : Prop := ∀ th < 32, val th = val 0 + (val 1 - val 0) * BitVec.ofNat 32 th
  (act = 0xFFFFFFFF → (uniform → new = .U) ∧ (¬ uniform → progression → new = .A) ∧
    (¬ uniform → ¬ progression → new = .G)) ∧
  (act ≠ 0xFFFFFFFF → (old = .U → (uniform → new = .U) ∧ (¬ uniform → new = .G)) ∧
    (old = .A → (progression → new = .A) ∧ (¬ progression → new = .G)) ∧ (old = .G → new = .G))

/-- What MFS reads (R142 Table 10, R143 Table 11, R16, R33): one word, or two. -/
def special (x : Ctx) (f : SFields) : Word ⊕ DWord :=
  match f.imm.toNat with
  | 0 => .inr x.c.ic
  | 1 => .inl x.c.cf
  | 2 => .inl 0
  | 3 => .inl x.c.fmode
  | 4 => .inl x.c.mask
  | 5 => .inr x.c.wakep
  | 6 => .inl (match vecKind f.b with
    | .v | .o => code (x.c.vreg f.b.toNat).tag
    | .l => code (x.c.latch (f.b.toNat - 112)).tag
    | .lane => 1
    | _ => 0)
  | 7 => .inr (x.s.core x.coreNo).cyc
  | 8 => .inl (BitVec.ofNat 32 (32 * (x.w.ncrew - 1) + x.c.idx))
  | 9 => .inl x.w.index
  | 10 => .inl (BitVec.ofNat 32 (x.w.region / 512))
  | _ => .inl (if x.s.alarm then 1 else 0)
where
  /-- The number of a tag (R143). -/
  code : Tag → Word
    | .U => 0
    | .A => 1
    | .G => 2
/-- Loads with their sizes in bytes (R205). -/
def loads : List ((MFields → Instr) × Nat) := [(.ld8, 1), (.ld16, 2), (.ld32, 4), (.ld64, 8), (.ld128, 16)]

/-- Stores with their sizes in bytes (R205). -/
def stores : List ((MFields → Instr) × Nat) := [(.st8, 1), (.st16, 2), (.st32, 4), (.st64, 8), (.st128, 16)]

/-- NewValue(op, m, x) on numbers of w bits (R212 Table 3, R213): sums modulo 2^w, binary32 sums rounded to nearest. -/
def atomAdd (w m x : Nat) : Nat := (m + x) % 2 ^ w
/-- ATOM.FADD (R215). -/
def atomFadd (_ m x : Nat) : Nat :=
  (roundTo fp32 (Exact.sum false [fp32.value (m % 2 ^ 32), fp32.value (x % 2 ^ 32)]).1 ⟨.rne, false, false, 0⟩).1
/-- Whether a signed number of w bits is at most another. -/
def atMost (w m x : Nat) : Bool := (BitVec.ofNat w m).toInt ≤ (BitVec.ofNat w x).toInt
/-- ATOM.IMIN. -/
def atomMin (w m x : Nat) : Nat := if atMost w m x then m else x
/-- ATOM.IMAX. -/
def atomMax (w m x : Nat) : Nat := if atMost w m x then x else m
/-- ATOM.CAS: the compare value below, the new one above. -/
def atomCas (w m x : Nat) : Nat := if m = x % 2 ^ w then x / 2 ^ w else m

/-- The atomics in global space: the operation, and registers of the operand per register of the result (R212). -/
def atomicsGlobal : List ((AFields → Instr) × (Nat → Nat → Nat → Nat) × Nat) :=
  [(.atomAdd, atomAdd, 1), (.atomFadd, atomFadd, 1), (.atomAnd, fun _ m x => m &&& x, 1), (.atomOr, fun _ m x => m ||| x, 1),
    (.atomXor, fun _ m x => m ^^^ x, 1), (.atomImin, atomMin, 1), (.atomImax, atomMax, 1), (.atomExch, fun _ _ x => x, 1),
    (.atomUmin, fun _ m x => min m x, 1), (.atomUmax, fun _ m x => max m x, 1), (.atomCas, atomCas, 2)]

/-- The atomics in scratchpad. -/
def atomicsScratch : List ((AFields → Instr) × (Nat → Nat → Nat → Nat) × Nat) :=
  [(.atomAddScr, atomAdd, 1), (.atomFaddScr, atomFadd, 1), (.atomAndScr, fun _ m x => m &&& x, 1),
    (.atomOrScr, fun _ m x => m ||| x, 1), (.atomXorScr, fun _ m x => m ^^^ x, 1), (.atomIminScr, atomMin, 1),
    (.atomImaxScr, atomMax, 1), (.atomExchScr, fun _ _ x => x, 1), (.atomUminScr, fun _ m x => min m x, 1),
    (.atomUmaxScr, fun _ m x => max m x, 1), (.atomCasScr, atomCas, 2)]

/-- All atomics, with whether they act in scratchpad. -/
def atomics : List ((AFields → Instr) × Bool × (Nat → Nat → Nat → Nat) × Nat) :=
  (atomicsGlobal.map fun e => (e.1, false, e.2)).append (atomicsScratch.map fun e => (e.1, true, e.2))

/-- The address of each active thread, ascending, from field a and a byte offset (R58, R202): modulo 2^64 in global space,
a signed sum in scratchpad. -/
def requests (x : Ctx) (scr : Bool) (a : BitVec 7) (off : Int) : List AReq :=
  ((List.range 32).filter fun th => x.act.getLsbD th).map fun th =>
    let lo : Int := (lane (x.rawSrc a 0) th).toNat
    let hi : Int := (lane (x.rawSrc (a + 1) 0) th).toNat
    ⟨th, if scr then lo + off else (hi * 2 ^ 32 + lo + off) % 2 ^ 64⟩

/-- Word k that a thread stores from field d: of the k-th register from it; each word of zero is 0 (R64, R205). -/
def storedWord (x : Ctx) (d : BitVec 7) (k th : Nat) : Word :=
  if vecKind d = .zero then 0 else lane (x.rawSrc (d + BitVec.ofNat 7 k) 0) th

/-- The accesses pass the checks of R203 and meet no watchpoint, after the copies whose status words the word reads
(R182). -/
def Passes (i : Instr) (x : Ctx) (scr : Bool) (way : Way) (cls : Nat) (align old : Bool) (n : Nat) (l : List AReq)
    (accs : List Acs) : Prop :=
  ∃ s', (x.readStatus i).check scr way cls align old n l = .ok (s', accs) ∧ watchHit s' x.w scr way accs = false

/-- The bytes of an access as scratchpad or memory holds them (R6, R205). -/
def bytesOf (x : Ctx) (scr : Bool) (a : Acs) : List Byte :=
  if scr then memRead x.w.scr a.addr a.n else a.pieces.flatMap fun p => memRead x.s.mem p.phys.rd p.len

/-- Word k of some bytes, zero-extended (R205). -/
def wordAt (bs : List Byte) (k : Nat) : Word := BitVec.ofNat 32 (leNat ((bs.drop (4 * k)).take 4))

/-- Byte writes applied in order: what a place holds after them. -/
def written (l : List (Nat × Byte)) (b : Nat) (old : Byte) : Byte := ((l.reverse.find? (·.1 == b)).map (·.2)).getD old

/-- Accesses that read and write, one after the other (R204, R210, R214): from the old bytes and the thread the new ones;
the memory after them and each thread's old bytes. -/
def oneByOne (scr : Bool) (new : Nat → List Byte → List Byte) : List Host.Cell → List Acs →
    List Host.Cell × List (Nat × List Byte)
  | m, [] => (m, [])
  | m, a :: rest =>
    let old := if scr then memRead m a.addr a.n else a.pieces.flatMap fun p => memRead m p.phys.rd p.len
    let ws := ((a.bytesAt scr .both).map (·.1)).zip (new a.t old)
    let r := oneByOne scr new (ws.foldl (fun m w => memWrite m w.1 [w.2]) m) rest
    (r.1, (a.t, old) :: r.2)

/-- Registers from field d in the active threads hold words of each thread's bytes, k words each; elsewhere as before. -/
def HoldsWords (x : Ctx) (c : Crew) (d : BitVec 7) (k : Nat) (bytes : Nat → List Byte) : Prop :=
  (vecKind d = .v ∨ vecKind d = .o) → ∀ n < k, ∀ th < 32, lane (c.vreg (d.toNat + n)).vals th =
    if x.act.getLsbD th then wordAt (bytes th) n else lane (x.c.vreg (d.toNat + n)).vals th

/-- What every memory word leaves of its crew: flags, generator, scalars and latches. -/
def LeavesCrew (i : Instr) (x : Ctx) (c : Crew) : Prop :=
  SameModes x.c c ∧ SameScalars x.c c ∧ c.l = x.c.l ∧ SameMboxes i x.c c ∧ Kept i x c

/-- What a memory word leaves outside its crew: other workgroups; other crews, where no crew runs on and no queue is named;
its workgroup but for scratchpad bytes with their tags and check states, where no queue is named. -/
def LeavesOthers (i : Instr) (x : Ctx) (s t : State) : Prop :=
  (∀ u, u ≠ x.w.uid → t.wg? u = s.wg? u) ∧
    ((view i).pops = [] → (view i).pushes = [] →
      ((∀ k ∈ s.crews, k.runon = none) → ∀ r, r ≠ x.c.ref → t.crew? r = s.crew? r) ∧
      ∃ w, t.wg? x.w.uid = some w ∧ { w with scr := x.w.scr, stags := x.w.stags, scrFailing := x.w.scrFailing } = x.w)

/-- The scratchpad of the workgroup of the crew at hand holds, byte by byte, what a function gives. -/
def ScratchIs (x : Ctx) (t : State) (v : Nat → Byte) : Prop :=
  ∃ w, t.wg? x.w.uid = some w ∧ ∀ b, memByte w.scr b = v b
/-- Whether the bit that a format B word names holds for a thread, its invert applied (R59, R332). -/
def holds (c : Crew) (f : BFields) (th : Nat) : Bool := (c.pred f.p.toNat).getLsbD th != f.inv

/-- The target of a branch: packets from the packet of the word (R57, R59). -/
def branchTo (c : Crew) (off : Int) : DWord := BitVec.ofInt 64 (c.pc.toNat - (c.pc.toNat % 12 : Nat) + 12 * off)

/-- The conditional branches with the condition to be taken (R328): every thread of MASK, some thread of MASK, a scalar
predicate. -/
def branches : List ((BFields → Instr) × (Crew → BFields → Bool)) :=
  [(.bra, fun c f => (List.range 32).all fun th => !c.mask.getLsbD th || holds c f th),
    (.braAny, fun c f => (List.range 32).any fun th => c.mask.getLsbD th && holds c f th),
    (.brp, fun c f => c.sp.getD f.p.toNat false != f.inv)]

/-- Threads of a set that meet a condition. -/
def those (p : Nat → Bool) : Mask := BitVec.ofNat 32 (((List.range 32).map fun th => if p th then 2 ^ th else 0).sum)

/-- The words that mark or hint and have no effect on the crew here: NOP, and fences, since a crew's words run in order
(R222, R334). -/
def quiet : Instr → Bool
  | .nop _ | .fenceRel .. => true
  | .fenceAcq sel _ | .fence sel _ => sel.toNat < 3
  | _ => false
/-- A word of the crew at hand is judged: no watchdog of the crew has expired, and it ends no sampling (R295, R357). -/
structure Judged (i : Instr) (s : State) (x : Ctx) : Prop where
  ctx : s.ctx = some x
  live : x.c.expired = none
  alone : (abandonsSampling i && (x.w.isShadow || x.w.sampled)) = false

/-- A crew's word stands in slot 2 of its packet, past its prefix where it has one (R46, R61). -/
def inSlot2 (c : Crew) : Bool := (c.pc.toNat + (if c.pfx.isSome then 4 else 0)) % 2 ^ 64 % 12 == 8

/-- The control transfers (R49). -/
def transfers : Instr → Bool
  | .bra _ | .braAny _ | .brp _ | .call _ | .divr _ | .flip _ | .loop _ | .ret _ | .exit _ | .bkpt _ | .rewind _ | .trap _
  | .rft _ => true
  | _ => false

/-- The format B words. -/
def formatB : Instr → Bool
  | .bra _ | .braAny _ | .brp _ | .call _ | .divr _ | .flip _ => true
  | _ => false

/-- The field that ILLEGAL_PACKET names for a word that breaks R50, bit 0 of a word being C (R52): an address that is no
multiple of 4, a prefix before a prefix or a format B word, C=1 in slot 2 or on a transfer, a prefix in slot 2 or with C=0.
For a prefix with C=1 in slot 2 the model names C (log 33). -/
def packetBreaks (w : Word) (i : Instr) (c : Crew) : Option Field :=
  let prefixing : Bool := match i with | .pfx _ => true | _ => false
  if c.pc.toNat % 4 ≠ 0 then some .major
  else if c.pfx.isSome && (prefixing || formatB i) then some .major
  else if w.getLsbD 0 && (inSlot2 c || transfers i) then some .chain
  else if prefixing && (inSlot2 c || !w.getLsbD 0) then some .major
  else none

/-- The tiles and the slots that a matrix word names in imm5 (R151). -/
def matrixUses : Instr → List Nat × List Nat
  | .mma _ f | .mmaZ _ f | .mtile _ f | .mtileZ _ f => ([f.imm.toNat / 4], [f.imm.toNat % 4])
  | .wload _ f | .wloadS24 _ f | .wtab f => ([], [f.imm.toNat % 4])
  | .accrd f | .accwr f | .accz f | .wmark f | .perturb f => ([f.imm.toNat / 4], [])
  | _ => ([], [])

/-- What HALT does to a crew that it reaches (R308): at once where the crew waits, walks or stands at a packet boundary; at
the next one otherwise; a PARKED crew keeps its replay pending; HALTED and EXITED crews stay; one that runs on is HALTED in
any other state, and runs on no longer (R290). -/
def HaltedAs (r : Reason) (c d : Crew) : Prop :=
  (c.st = .halted ∨ c.st = .exited → d = c) ∧
    (c.st ≠ .halted → c.st ≠ .exited → c.runon.isSome = true → d.st = .halted ∧ d.reason = r ∧ d.runon = none) ∧
    (c.st = .parked → c.runon = none → d.st = .halted ∧ d.reason = r ∧ d.parkpend = true ∧ d.pc = c.pc ∧ d.ic = c.ic) ∧
    (c.st = .blocked → c.runon = none → d.st = .halted ∧ d.reason = r ∧ d.pc = c.pc ∧ d.ic = c.ic) ∧
    (c.st = .ready → c.runon = none → (c.walk.isSome = true ∨ (c.pc.toNat % 12 = 0 ∧ c.pfx = none)) →
      d.st = .halted ∧ d.reason = r ∧ d.pc = c.pc ∧ d.ic = c.ic) ∧
    (c.st = .ready → c.runon = none → c.walk = none → (c.pc.toNat % 12 ≠ 0 ∨ c.pfx ≠ none) →
      d = { c with halting := r })

/-- What RESUME does to a crew (R309): a HALTED crew runs again with its replay dropped, a PARKED one replays, others stay. -/
def ResumedAs (c d : Crew) : Prop :=
  (c.st ≠ .halted → c.st ≠ .parked → d = c) ∧
    (c.st = .halted → c.recWait = false → (∀ k, c.walk = some k → k.why ≠ .debug) →
      d = { c with st := .ready, reason := .none, parkpend := false }) ∧
    (c.st = .parked → c.recWait = false → d = { c with st := .ready })

/-- The machine holds one crew under a reference, this one. -/
def OnlyCrew (s : State) (c : Crew) : Prop := ∀ k ∈ s.crews, k.ref = c.ref → k = c

/-- The numbers of crew states and halt reasons (R305 Table 3). -/
def stateNum : CrewSt → Nat
  | .ready => 1 | .score => 2 | .blocked => 3 | .stalled => 4 | .parked => 5 | .halted => 6 | .exited => 7
/-- Halt reasons. -/
def reasonNum : Reason → Nat
  | .none => 0 | .halt => 1 | .fault => 2 | .trap => 3 | .breakpoint => 4 | .debug => 5

/-- What MFSR reads of a target (R305 Tables 2 and 3): number, value. -/
def targetRegs (c : Crew) (w : Wg) : List (Nat × DWord) :=
  [(5, BitVec.ofNat 64 (stateNum c.st + 16 * reasonNum c.reason + (if c.intrap then 256 else 0) + if c.parkpend then 512 else 0)),
    (6, BitVec.ofNat 64 (w.region / 512)), (7, w.index.setWidth 64), (8, BitVec.ofNat 64 ((32 * (w.ncrew - 1) + c.idx) % 2 ^ 32)),
    (9, c.pc), (10, c.ic), (11, BitVec.ofNat 64 w.node)]

/-- What MFSR reads of the crew itself (R305 Table 2). -/
def ownRegs (c : Crew) : List (Nat × DWord) :=
  [(0, c.tvec), (1, c.tpc), (2, c.tcause.setWidth 64), (3, c.taddr), (4, c.tgt.setWidth 64)]

/-- The translations a TLBI removes, by its word: from the address operand and a cached translation of the region's address
space (R313). -/
def invalidations : List ((SFields → Instr) × (SFields → Nat → Trans → Bool)) :=
  [(.tlbiPage, fun _ a t => decide (t.va ≤ a) && decide (a < t.va + t.size)),
    (.tlbiSize, fun f a t => let n := pageBytes f.imm.toNat; decide (a / n * n < t.va + t.size) && decide (t.va < a / n * n + n) && decide (0 < t.size)),
    (.tlbiRegion, fun _ _ _ => true)]

/-- A predicate written with one value in the active threads, p7 discarding it (R31, R229). -/
def PredIs (x : Ctx) (c : Crew) (d : Nat) (v : Bool) : Prop :=
  (∀ th, th < 32 → (c.pred d).getLsbD th = if d < 7 ∧ x.act.getLsbD th then v else (x.c.pred d).getLsbD th) ∧
    ∀ n, n ≠ d → c.pred n = x.c.pred n

/-- What a copy word reads before it starts (R228, R241): the block of the leader, and the command that the checks give. -/
def CopyStarts (i : Instr) (kind : CopyKind) (dir : Option Nat) (trans rnd : Nat) (f : SFields) (x : Ctx) (k : CopyCmd) : Prop :=
  ∃ th, lowest (x.act &&& x.c.pred ([0, 1, 2, 7].getD (f.imm.toNat % 4) 7)) = some th ∧
    let y := x.readStatus i
    let ca := (lane (x.rawSrc f.a 0) th).toNat
    let block := memNat x.w.scr ca 96
    let reg := f.b.toNat + (if kind == .gath then 1 else 0)
    let idxs := if kind == .gath then (members x.act).map fun u => lane (x.c.vreg f.b.toNat).vals u else []
    ca % 32 = 0 ∧ (∃ r, y.check true .load 1 false true 96 [⟨th, (ca : Int)⟩] = .ok r ∧ watchHit x.s x.w true .load r.2 = false) ∧
      blockBad kind trans block = false ∧ ∃ z racs, y.copyCheck kind dir trans rnd ca reg block idxs = .ok (z, k, racs) ∧
        watchHit x.s x.w false .load racs = false

/-- A barrier object with its counts (R282): MASK, ARREXP, ARRIVED, PHASE, BYTEEXP, BYTELAND. -/
def objFields (o : Obj) : Nat × Nat × Nat × Nat × Nat × Nat := (o.mask, o.arrexp, o.arrived, o.phase, o.exp, o.land)

/-- An entry with the frames of bits 63:28 and 127:92 exchanged (R225). -/
def exchanged (e : Nat) : Nat :=
  let f := e / 2 ^ 28 % 2 ^ 36
  let g := e / 2 ^ 92 % 2 ^ 36
  e % 2 ^ 28 + g * 2 ^ 28 + e / 2 ^ 64 % 2 ^ 28 * 2 ^ 64 + f * 2 ^ 92

/-- A word that waits before any effect (R263): the crew BLOCKED at it. -/
def Blocks (i : Instr) (s : State) (x : Ctx) (w : Wait) : Prop :=
  ∃ t c, exec i s = .next t ∧ t.crew? x.c.ref = some c ∧ c.st = .blocked ∧ c.wait = w ∧ c.pc = x.c.pc ∧ c.ic = x.c.ic ∧
    c.v = x.c.v ∧ c.s = x.c.s ∧ c.p = x.c.p ∧ c.wake = x.c.wake ∧ SameOutside x s t

/-- A word that waits having read scratchpad (R263, R285): the crew BLOCKED at it; the access is noted, no byte changes. -/
def BlocksNoted (i : Instr) (s : State) (x : Ctx) (w : Wait) : Prop :=
  ∃ t c v, exec i s = .next t ∧ t.crew? x.c.ref = some c ∧ c.st = .blocked ∧ c.wait = w ∧ c.pc = x.c.pc ∧ c.ic = x.c.ic ∧
    c.v = x.c.v ∧ c.s = x.c.s ∧ c.p = x.c.p ∧ c.wake = x.c.wake ∧ t.wg? x.w.uid = some v ∧
    { v with stags := x.w.stags } = x.w ∧ (∀ a, memByte t.mem a = memByte s.mem a) ∧
    (∀ r, r ≠ x.c.ref → t.crew? r = s.crew? r) ∧ ∀ u, u ≠ x.w.uid → t.wg? u = s.wg? u

/-- A word passes what comes before its queues and mailboxes (R27, R72, R168, R273, R302, R348, R351). -/
structure Checked (i : Instr) (s : State) (x : Ctx) : Prop where
  judged : Judged i s x
  legal : firstFault i x.c x.w = none
  allowed : isPrivileged i = true → s.systemWg x.w = true
  settled : x.c.runon = none
  awaited : ∀ n ∈ (view i).vecRegs, n ∉ x.c.pendingRegs
  calm : x.c.replays = [] ∧ x.c.badRegs = [] ∧ x.c.halting = .none ∧ x.c.steps = none
  latched : lostLatch i x.c = none
  acts : x.act ≠ 0

/-- A queue that a CPYQ command of the workgroup uses, or a crew of it waits on or has a grant of (R273, R275). -/
def QueueInUse (s : State) (uid n : Nat) : Prop :=
  (∃ k ∈ s.copies, k.kind = .cpyq ∧ k.wg = uid ∧ k.block.dstrec % 8 = n) ∨
    ∃ c ∈ s.crews, c.wg = uid ∧ ∃ pops pushes, (c.wait = .queue pops pushes ∨ c.granted = some (pops, pushes)) ∧
      (n ∈ pops ∨ n ∈ pushes)

/-- A mapping word that breaks R270, beside the other queues of a workgroup with so many bytes of scratchpad. -/
def MappingBreaks (w : Word) (size : Nat) (others : List Queue) : Prop :=
  let depth := w.toNat / 2 ^ 16 % 2 ^ 13
  let off := w.toNat % 2 ^ 13
  if w.getLsbD 31 then depth = 0 ∨ 6144 < depth ∨ size < (off + depth) * 128 ∨ w.toNat / 2 ^ 29 % 4 ≠ 0 ∨
    w.toNat / 2 ^ 13 % 8 ≠ 0 ∨ ∃ q ∈ others, q.valid = true ∧ 0 < q.depth ∧ q.off < off + depth ∧ off < q.off + q.depth
  else w ≠ 0

/-- A word of the matrix unit retires (R150): no byte of memory, no register, flag, predicate or latch of the crew changes,
and its workgroup becomes the one given, race tags apart. -/
def MatrixRuns (i : Instr) (s : State) (x : Ctx) (v : Wg) : Prop :=
  ∃ t c w, exec i s = .next t ∧ Counted x t c ∧ Kept i x c ∧ SameRegs x.c c [] ∧ SameScalars x.c c ∧ SameModes x.c c ∧
    c.l = x.c.l ∧ SameMboxes i x.c c ∧ t.wg? x.w.uid = some w ∧
    { w with stags := [], mtags := [] } = { v with stags := [], mtags := [] } ∧
    (∀ b, memByte t.mem b = memByte s.mem b) ∧ (∀ r, r ≠ x.c.ref → t.crew? r = s.crew? r) ∧
    ∀ u, u ≠ x.w.uid → t.wg? u = s.wg? u

/-- The scratchpad ranges that a matrix or transform word reads meet no race (R148, R149), no failing word and no
watchpoint; nor do the rows and slots that it reads and writes. -/
def Quietly (i : Instr) (s : State) (x : Ctx) (ranges : List (Nat × Nat × Nat)) (reads writes : List Nat) : Prop :=
  (x.readStatus i).readRace (ranges.map fun r => ⟨r.1, r.2.1, r.2.2, []⟩) = none ∧ (x.readStatus i).matFault false reads = none ∧
    (x.readStatus i).matFault true writes = none ∧ x.w.scrFailing = [] ∧ s.dbg.region = none

/-- The active threads, ascending. -/
def actives (x : Ctx) : List Nat := (List.range 32).filter fun th => x.act.getLsbD th

/-- Scratchpad bytes allocated to a workgroup (R44). -/
def scratch (w : Wg) : Nat := 4096 * w.scrgran

/-- The elements that a control word addresses (R159): row and column pair. -/
def rowOf (x : Ctx) (b : BitVec 7) (th : Nat) : Nat := (lane (x.rawSrc b 0) th).toNat % 32
/-- The column pair. -/
def pairAt (x : Ctx) (b : BitVec 7) (th : Nat) : Nat := (lane (x.rawSrc b 0) th).toNat / 32

/-- One element of a row after an operation over groups of 32 (R107, R155, R165): the groups' exact sums added in ascending
order, then an armed perturbation (R167). -/
def element (int : Bool) (start : Word) (groups : Nat) (a : Nat → Exact) (w : Nat → Exact) (add : Option Word) : Word :=
  let sum (g : Nat) : Exact := (Exact.sum false ((List.range 32).map fun k => ((a (32 * g + k)).mul (w (32 * g + k))).1)).1
  let x := (List.range groups).foldl (fun acc g => addGroup int acc (sum g)) start
  match add with
  | some p => if int then x + p else
    BitVec.ofNat 32 (roundTo fp32 (Exact.sum false [fp32.value x.toNat, fp32.value p.toNat]).1 ⟨.rne, false, false, 0⟩).1
  | none => x

/-- A word of the transform pipe retires (R168): the old values of its destination registers are pushed, one record, the
new ones pend, and nothing else of the crew changes. -/
def Pends (i : Instr) (s : State) (x : Ctx) (a : BitVec 7) (vals : List (Nat → Word)) : Prop :=
  ∃ t c, exec i s = .next t ∧ Counted x t c ∧ SameRegs x.c c [] ∧ SameScalars x.c c ∧ SameModes x.c c ∧ c.l = x.c.l ∧
    c.m = x.c.m ∧ c.commit = x.c.commit ∧ (∀ b, memByte t.mem b = memByte s.mem b) ∧ ScratchIs x t (memByte x.w.scr) ∧
    c.wake = { mask := x.act, ic := x.c.ic, body := .reg a.toNat ((List.range vals.length).map fun n => x.c.vreg (a.toNat + n)) } ::
      x.c.wake ∧
    ∃ id, c.pend.length = x.c.pend.length + vals.length ∧ c.pend.take x.c.pend.length = x.c.pend ∧
      ∀ n < vals.length, ∃ l, c.pend[x.c.pend.length + n]? = some ⟨a.toNat + n, x.act, some l, id⟩ ∧
        ∀ th < 32, lane l th = (vals.getD n fun _ => 0) th

/-- Whether a candidate ranks ahead of another (R170): score, index, run. -/
def ahead (x y : Exact × Nat × Nat) : Prop :=
  if x.1.isNan ≠ y.1.isNan then x.1.isNan = false
  else if x.1.isNan = false ∧ x.1.cmp y.1 ≠ 0 then 0 < x.1.cmp y.1
  else if x.2.1 ≠ y.2.1 then x.2.1 < y.2.1
  else x.2.2 < y.2.2

/-- The registers of a selection of k among n candidates, in some order that ranks them (R171): ranks 0 to 31 and 32 to 63,
values and indices; an empty rank has value 0 and index 0xFFFF_FFFF. Of two candidates that R170 leaves level the one at the
lower position stands first, which is the model's choice (log 33). -/
def Selects (i : Instr) (s : State) (x : Ctx) (a : BitVec 7) (n k : Nat) (cand : Nat → Exact × Nat × Nat) (bits : Nat → Nat) :
    Prop :=
  ∃ o : List Nat, o.Perm (List.range n) ∧ 
    o.Pairwise (fun p q => ahead (cand p) (cand q) ∨ (¬ ahead (cand q) (cand p) ∧ p < q)) ∧
    let val (r : Nat) : Word := match (o.take k)[r]? with | some p => BitVec.ofNat 32 (bits p) | none => 0
    let idx (r : Nat) : Word := match (o.take k)[r]? with | some p => BitVec.ofNat 32 (cand p).2.1 | none => BitVec.allOnes 32
    Pends i s x a [val, idx, fun th => val (th + 32), fun th => idx (th + 32)]

/-- The score formats of TOPK (R68): bits, value. -/
def scores (sel : BitVec 2) : Nat × (Nat → Exact) :=
  match sel.toNat with
  | 0 => (32, fp32.value)
  | 1 => (16, bf16.value)
  | 2 => (16, fp16.value)
  | _ => (32, fun v => Exact.ofInt (BitVec.ofNat 32 v).toInt)

/-- n bits of a scratchpad stream from an address, from bit m on (R96, R173). -/
def stream (x : Ctx) (a m n : Nat) : Nat := memNat x.w.scr a (m / 8 + n / 8 + 2) / 2 ^ m % 2 ^ n

/-- The contributions of a window store (R219, R220): address of each element, thread by thread, and its word. -/
def contributions (x : Ctx) (f : MFields) (size : Nat) : List (Nat × Word) :=
  (requests x false f.a (f.off.toInt * size)).flatMap fun r =>
    (List.range (size / 4)).map fun k => (r.addr.toNat + 4 * k, storedWord x f.d k r.t)

/-- The contributions of a group's open round at an offset: member index and word. -/
def parts (g : Group) (off : Nat) : List (Nat × Word) := ((g.rounds.find? (·.off == off)).map (·.parts)).getD []

/-- Two contributions added (R197): binary32 or each BF16 half rounded to nearest, or modulo 2^32. -/
def combine (fmt : Nat) (p q : Word) : Word :=
  let add (g : Fmt) (a b : Nat) : Nat := (roundTo g (Exact.sum false [g.value a, g.value b]).1 ⟨.rne, false, false, 0⟩).1
  if fmt = 0 then BitVec.ofNat 32 (add fp32 p.toNat q.toNat)
  else if fmt = 1 then BitVec.ofNat 32 (add bf16 (p.toNat % 2 ^ 16) (q.toNat % 2 ^ 16) +
    2 ^ 16 * add bf16 (p.toNat / 2 ^ 16) (q.toNat / 2 ^ 16))
  else BitVec.ofNat 32 (p.toNat + q.toNat)

/-- The first byte of a node with STATE in its bits 6:4 (R254). -/
def marked (m : List Host.Cell) (a st : Nat) : Byte :=
  let b := (memByte m a).toNat
  BitVec.ofNat 8 (b % 16 + 16 * st + b / 128 * 128)

/-- A place within a run of n bytes. -/
def within (a n b : Nat) : Prop := a ≤ b ∧ b < a + n

/-- The successors of a node, as its list names them (R254). -/
def successor (s : State) (n : NodeRun) (i : Nat) : Nat := memNat s.mem (n.succ + 8 * i) 8

/-- Bytes in populated memory that has power (R371, R382): HBM4 lies below 768 GiB, and without power counts as not populated,
which is the model's (log 22). -/
abbrev there (s : State) (a n : Nat) : Prop := populated a n = true ∧ (s.powered = true ∨ 768 * 2 ^ 30 ≤ a)

/-- A node whose successors all wait for more than it (R256): listed once each, WAITING with PENDING above 1, apart from
the list and the node. -/
def HoldsBack (s : State) (n : NodeRun) : Prop :=
  s.failing = [] ∧ (n.addr + 128 ≤ n.succ ∨ n.succ + 8 * n.nsucc ≤ n.addr) ∧ ((List.range n.nsucc).map (successor s n)).Nodup ∧
    ∀ i < n.nsucc, let y := successor s n i
      y % 128 = 0 ∧ there s y 128 ∧ y ≠ n.addr ∧ n.addr % 128 = 0 ∧
        (y + 128 ≤ n.succ ∨ n.succ + 8 * n.nsucc ≤ y) ∧ (memByte s.mem y).toNat / 16 % 8 = 0 ∧ 2 ≤ memNat s.mem (y + 4) 4

/-- What the end of such a node leaves in memory (R255, R256): its STATE, each successor's PENDING lower by 1, the bytes of
the fields named, and nothing else. -/
def Ended (s t : State) (n : NodeRun) (st : Nat) (fields : List (Nat × Nat)) : Prop :=
  memByte t.mem n.addr = marked s.mem n.addr st ∧
    (∀ i < n.nsucc, memNat t.mem (successor s n i + 4) 4 = memNat s.mem (successor s n i + 4) 4 - 1) ∧
    (∀ f ∈ fields, memNat t.mem (n.addr + f.1) 4 = f.2 % 2 ^ 32) ∧
    ∀ b, b ≠ n.addr → (∀ i < n.nsucc, ¬ within (successor s n i + 4) 4 b) → (∀ f ∈ fields, ¬ within (n.addr + f.1) 4 b) →
      memByte t.mem b = memByte s.mem b

/-- A crew at the start of its workgroup (R23, R41, R141). -/
def Initial (n : NodeRun) (index j : Nat) (p : Spot) (c : Crew) : Prop :=
  c.sched = p.sched ∧ c.slot = p.slot ∧ c.st = .ready ∧ c.pc = BitVec.ofNat 64 (n.desc.code + n.desc.entry) ∧ c.ic = 0 ∧
    c.walk = none ∧ c.cf = 0x80000000 ∧ c.wake = [] ∧ c.wakep = BitVec.ofNat 64 (n.eff.wakeBase + p.share * n.eff.share) ∧
    c.mask = 0xFFFFFFFF ∧ c.mstack = [] ∧ c.v = List.replicate (8 * n.desc.regblk) ⟨List.replicate 32 0, .U⟩ ∧
    c.o = List.replicate 8 ⟨List.replicate 32 0, .U⟩ ∧ c.s = List.replicate 32 0 ∧ c.p = List.replicate 7 0 ∧
    c.sp = List.replicate 4 false ∧ (∀ l ∈ c.l, l.valid = false) ∧ (∀ m ∈ c.m, m.full = false) ∧
    c.fmode = BitVec.ofNat 32 n.desc.fmode ∧
    c.lfsr = let m := mix n.desc.sw (BitVec.ofNat 32 (32 * index + j)); if m = 0 then 1 else m

/-- A crew of a machine: the one under its reference (R14). -/
def Stands (s : State) (r : CrewRef) (c : Crew) (w : Wg) : Prop := s.residentCrew r = some (c, w) ∧ c.ref = r ∧ w.uid = r.wg

/-- A number in memory, little-endian, n bytes (R6). -/
def holdsNat (t : State) (a n v : Nat) : Prop := memNat t.mem a n = v % 2 ^ (8 * n)

/-- Memory is unchanged outside a run of bytes. -/
def MemBut (s t : State) (a n : Nat) : Prop := ∀ b, ¬ within a n b → memByte t.mem b = memByte s.mem b

/-- Memory, crews, workgroups, nodes and regions are unchanged. -/
def SameWork (s t : State) : Prop :=
  t.mem = s.mem ∧ t.crews = s.crews ∧ t.wgs = s.wgs ∧ t.nodes = s.nodes ∧ t.regions = s.regions ∧ t.copies = s.copies

/-- The first slot of the error log for the next record (R375). -/
def logSlot (s : State) : Nat := s.port.errBase.toNat + 64 * (s.port.errCnt.toNat % s.port.errLen.toNat)

/-- A record of the error log (R349 Table 1, R375): with a log in place the count moves on and its next slot holds VALID, the
kind of access, the source, the code, the address and the detail; other memory is unchanged. -/
def Logs (s t : State) (code : Code) (source access addr detail : Nat) : Prop :=
  (s.port.errBase = 0 ∨ s.port.errLen = 0 → t.mem = s.mem ∧ t.port = s.port) ∧
    (s.port.errBase ≠ 0 → s.port.errLen ≠ 0 → t.port.errCnt = s.port.errCnt + 1 ∧ holdsNat t (logSlot s) 4 (1 + access * 2 ^ 24) ∧ holdsNat t (logSlot s + 4) 4 (source + code.num * 2 ^ 16) ∧
      holdsNat t (logSlot s + 40) 8 addr ∧ holdsNat t (logSlot s + 48) 16 detail ∧ MemBut s t (logSlot s) 64)

/-- Whether a number names a link (R356). -/
def linkNumber (n : Nat) : Prop := n < 7 ∨ (8 ≤ n ∧ n ≤ 24)

/-- The code that the debug interface is answered with, and the data (R358). -/
def Told (t : State) (code : Option Code) (reply : List Byte) : Prop := t.dbg.refused = code ∧ t.dbg.reply = reply

/-- A debug operation is refused with a code and changes nothing else (R358). -/
def RefusedWith (i : Instr) (s : State) (code : Code) : Prop :=
  ∃ t, exec i s = .next t ∧ Told t (some code) [] ∧ { t with dbg := s.dbg } = s

/-- The debug operations on one crew (R358). -/
def onOneCrew (r : CrewRef) (i : Instr) : Prop :=
  i = .debugHaltCrew r ∨ i = .debugResume r ∨ i = .debugReadWake r ∨ (∃ n, 1 ≤ n ∧ n ≤ 2 ^ 32 ∧ i = .debugStep r n) ∨
    (∃ t, i = .debugBack r t) ∨ (∃ m, i = .debugReadState r m) ∨ ∃ m v, i = .debugWriteState r m v

/-- The bytes of n bytes of a number (R6). -/
def numBytes (v n : Nat) : List Byte := (List.range n).map fun k => BitVec.ofNat 8 (v / 2 ^ (8 * k))
/-! Encodings, the step, reset -/

/-- A crew's turn: at the head of the agenda, or where nothing else is due and the schedulers select it, in a cycle in which
the transform pipe serves one of them (R51, R264; the model's order of steps is log 2). The state is that in which its word is
fetched. -/
def TurnOf (s s0 : State) (r : CrewRef) : Prop :=
  s.powered = true ∧
    ((∃ rest, s.agenda = .crew r :: rest ∧ s0 = ({ s with agenda := rest } : State).called r) ∨
      (s.agenda = [] ∧ s.autoStep = none ∧ ∃ core q c run u, s.nextCore = some core ∧
        u = ({ s with turn := core } : State).beginCycle core ∧ u.selectOn core = some (q, c, run) ∧ r = c.ref ∧
        s0 = u.chosen core q r run))

/-- Words that the spec writes out with the instruction they stand for, one or more of each family of the opcode table. -/
def specWords : List (Word × Instr) :=
  [(0x04081430, .iadd ⟨4, 5, 6, false, false, false⟩), (0x0406102C, .iadd ⟨3, 4, 5, true, false, false⟩),
    (0x040A1BF8, .iadd ⟨5, 6, 127, false, false, false⟩), (0x09100818, .imad ⟨8, 2, 3, false, false, false⟩),
    (0x1D0DE7F8, .mov ⟨6, 121, 127, false, false, false⟩), (0x26020C10, .icmpLt ⟨1, 3, 2, false, false, false⟩),
    (0x3401040C, .fadd ⟨0, 1, 2, 3, false, false⟩), (0x408A1630, .ffma ⟨1, 10, 11, 12, false, false⟩),
    (0x581427F8, .rcp ⟨10, 9, 127, false, false, false⟩), (0x6002020C, .cvt ⟨0, 2, 1, 3, false, false⟩),
    (0x710C0BC0, .redlFadd ⟨6, 2, 120, false, false, false⟩)] ++
  [(0x78180324, .movil ⟨3, 100, false⟩), (0x7C2807FC, .xori ⟨5, 0xFF, false⟩), (0x8027FFF8, .loop ⟨4, 0xFFFF, false⟩),
    (0x9020A048, .ld64 ⟨4, 10, 2, 1, 0, false⟩), (0xA0486010, .st32 ⟨9, 6, 0, 2, 0, false⟩),
    (0xAC18104A, .xchg ⟨3, 1, 2, 1, 1, false⟩), (0xB0181848, .atomAdd ⟨12, 6, 9, 0, false⟩),
    (0xC8400004, .bra ⟨false, 1, 2, false⟩), (0xD5C00020, .call ⟨false, 7, 16, false⟩),
    (0xE00FFFCA, .trap ⟨127, 127, 5, false⟩), (0xE1009FC0, .mfs ⟨4, 127, 0, false⟩), (0xE0511FC8, .mtsr ⟨8, 127, 4, false⟩)] ++
  [(0xE41FFFC0, .fenceAcq 1 ⟨127, 127, 0, false⟩), (0xE4CFFFC0, .fenceRel 4 ⟨127, 127, 0, false⟩),
    (0xE8B11FC0, .mmaZ 3 ⟨8, 127, 0, false⟩), (0xEA30DFC0, .wload 3 ⟨6, 127, 0, false⟩),
    (0xEB81C400, .accrd ⟨14, 16, 0, false⟩), (0xEC010100, .topk 0 ⟨8, 4, 0, false⟩), (0xF102050E, .cpy 16 ⟨16, 20, 7, false⟩),
    (0xF4304180, .bwait ⟨2, 6, 0, false⟩), (0xF4815FC0, .fetchw ⟨10, 127, 0, false⟩), (0xF5011FC4, .qmap ⟨8, 127, 2, false⟩),
    (0xF80FFFC0, .arrive ⟨127, 127, 0, false⟩), (0xF83FFFC0, .exit ⟨127, 127, 0, false⟩),
    (0xF8609FC0, .rewind ⟨4, 127, 0, false⟩), (0xFD2801A1, .pfx ⟨0x25, 0, 1, 10, 0, true⟩)]

/-- The crew with the largest WAITCNT, the lowest slot on a tie (R264). -/
def LongestOf (l : List Crew) (c : Crew) : Prop :=
  c ∈ l ∧ ∀ d ∈ l, d.waitcnt ≤ c.waitcnt ∧ (d.waitcnt = c.waitcnt → c.slot ≤ d.slot)

/-- A crew has a chain under way: words of it, or the target of a prefix, are still to issue (R47, R61, R264). -/
def MidChain (c : Crew) : Prop := c.chain = true ∨ c.pfx ≠ none

/-- A crew has a packet under way: its next word is not the first of a packet, or follows a prefix (R61, R264). -/
def MidPacket (c : Crew) : Prop := c.walk = none ∧ (c.pc.toNat % 12 ≠ 0 ∨ c.pfx ≠ none)

end Sys2Proof.Claims

open Sys2Proof Sys2Proof.Machine Sys2Proof.Claims

/-! Integer words -/

/-- R114, R116, R117 on the vector side: every two-operand integer word completes and writes what the tables give, in the
assign form from a and b, in the update form (b names none) from d and a (R53); frame included. -/
def Sys2Proof.Claims.IntegerBinary : Prop :=
  ∀ e ∈ binary, ∀ f : GFields, f.uni = false → IntegerResult (e.1 f) f.d fun x th =>
    if f.b = 127 then e.2 (lane (x.c.vreg f.d.toNat).vals th) (lane (x.srcA f.a) th)
    else e.2 (lane (x.srcA f.a) th) (lane (x.srcB f.a f.b) th)

/-- The same words on the scalar side (R29, R53, R122). -/
def Sys2Proof.Claims.IntegerBinaryScalar : Prop :=
  ∀ e ∈ binary, ∀ f : GFields, f.uni = true → ScalarResult (e.1 f) f.d fun x =>
    if f.b = 127 then e.2 (x.c.sreg f.d.toNat) (x.c.scalarSrc f.a) else e.2 (x.c.scalarSrc f.a) (x.c.scalarSrc f.b)

/-- The one-operand integer words, on both sides (R114, R116, R118). -/
def Sys2Proof.Claims.IntegerUnary : Prop :=
  ∀ e ∈ unary, ∀ f : GFields,
    (f.uni = false → IntegerResult (e.1 f) f.d fun x th => e.2 (lane (x.srcA f.a) th)) ∧
      (f.uni = true → ScalarResult (e.1 f) f.d fun x => e.2 (x.c.scalarSrc f.a))

/-- The accumulating integer words (R113, R115, R117, R136); the scalar side has IMAD and BFI only, the others being
illegal there. -/
def Sys2Proof.Claims.IntegerAccumulate : Prop :=
  ∀ e ∈ accumulate, ∀ f : GFields,
    (f.uni = false → IntegerResult (e.1 f) f.d fun x th =>
      e.2 (lane (x.c.vreg f.d.toNat).vals th) (lane (x.srcA f.a) th) (lane (x.srcB f.a f.b) th)) ∧
    (f.uni = true → ScalarResult (e.1 f) f.d fun x => e.2 (x.c.sreg f.d.toNat) (x.c.scalarSrc f.a) (x.c.scalarSrc f.b))

/-- The immediate words (R121): vector registers in majors 0x1E and 0x1F, s registers in major 0x20. -/
def Sys2Proof.Claims.Immediates : Prop :=
  (∀ e ∈ immediate, ∀ f : IFields, IntegerResult (e.1 f) f.d fun x th => e.2 (lane (x.c.vreg f.d.toNat).vals th) f.imm) ∧
    ∀ e ∈ immediateS, ∀ f : IFields, ScalarResult (e.1 f) f.d fun x => e.2 (x.c.sreg f.d.toNat) f.imm

/-- LEA, LEAU and ADD64 (R119) on both sides: 64-bit sums, the single addend of LEA sign-extended, of LEAU zero-extended;
the update form adds to the old pair. -/
def Sys2Proof.Claims.PairSums : Prop :=
  ∀ f : GFields,
    let old (x : Ctx) (th : Nat) : DWord :=
      pairOf (lane (x.c.vreg f.d.toNat).vals th) (lane (x.c.vreg (f.d.toNat + 1)).vals th)
    let a (x : Ctx) (th : Nat) : DWord := (x.pairA f.a).getD th 0
    let b (x : Ctx) (th : Nat) : DWord := (x.pairB f.b).getD th 0
    let oldS (x : Ctx) : DWord := pairOf (x.c.scalarSrc f.d) (x.c.scalarSrc (f.d + 1))
    let aS (x : Ctx) : DWord := pairOf (x.c.scalarSrc f.a) (x.c.scalarSrc (f.a + 1))
    let bS (x : Ctx) : DWord := pairOf (x.c.scalarSrc f.b) (x.c.scalarSrc (f.b + 1))
    (∀ e ∈ [(Instr.lea, fun w : Word => BitVec.ofInt 64 w.toInt), (.leau, fun w => BitVec.ofNat 64 w.toNat)],
      (f.uni = false → PairResult (e.1 f) f.d fun x th =>
        if f.b = 127 then old x th + e.2 (lane (x.srcA f.a) th) else a x th + e.2 (lane (x.srcB f.a f.b) th)) ∧
      (f.uni = true → ScalarPairResult (e.1 f) f.d fun x =>
        if f.b = 127 then oldS x + e.2 (x.c.scalarSrc f.a) else aS x + e.2 (x.c.scalarSrc f.b))) ∧
    (f.uni = false → PairResult (.add64 f) f.d fun x th => if f.b = 127 then old x th + a x th else a x th + b x th) ∧
    (f.uni = true → ScalarPairResult (.add64 f) f.d fun x => if f.b = 127 then oldS x + aS x else aS x + bS x)

/-- SWAP (R120): registers d and a exchange their values in the active threads, s registers whole; nothing is recorded. -/
def Sys2Proof.Claims.Swap : Prop :=
  ∀ (f : GFields) (s : State) (x : Ctx), Runs (.swap f) s x → ∃ t c, exec (.swap f) s = .next t ∧ Counted x t c ∧
    (f.uni = false → (∀ th, th < 32 →
        lane (c.vreg f.d.toNat).vals th = lane (x.c.vreg (if x.act.getLsbD th then f.a else f.d).toNat).vals th ∧
        lane (c.vreg f.a.toNat).vals th = lane (x.c.vreg (if x.act.getLsbD th then f.d else f.a).toNat).vals th) ∧
      SameRegs x.c c [f.d.toNat, f.a.toNat] ∧ c.s = x.c.s) ∧
    (f.uni = true → c.sreg f.d.toNat = x.c.sreg f.a.toNat ∧ c.sreg f.a.toNat = x.c.sreg f.d.toNat ∧
      (∀ n, n ≠ f.d.toNat → n ≠ f.a.toNat → c.sreg n = x.c.sreg n) ∧ SameRegs x.c c [] ∧ c.l = x.c.l) ∧
    c.wake = x.c.wake ∧ c.p = x.c.p ∧ c.sp = x.c.sp ∧ SameModes x.c c ∧ SameMboxes (.swap f) x.c c ∧ Kept (.swap f) x c ∧
    SameMachine x s t

/-- Integer compares and ITEST on both sides (R123): the predicate takes the condition, no flag is raised. -/
def Sys2Proof.Claims.IntegerCompares : Prop :=
  ∀ e ∈ compare, ∀ f : GFields,
    (f.uni = false → ∀ s x, Runs (e.1 f) s x →
      PredResult (e.1 f) s x f.d.toNat (fun th => e.2 (lane (x.srcA f.a) th) (lane (x.srcB f.a f.b) th)) 0) ∧
    (f.uni = true → ScalarPredResult (e.1 f) f.d.toNat fun x => e.2 (x.c.scalarSrc f.a) (x.c.scalarSrc f.b))

/-- PAND, POR, PXOR and PNOT on both sides (R124): the update form takes d and a; p7 reads 1 (R31). -/
def Sys2Proof.Claims.PredicateWords : Prop :=
  ∀ f : GFields,
    (f.uni = false →
      let p (x : Ctx) (n : BitVec 7) (th : Nat) : Bool := if n.toNat < 7 then (x.c.p.getD n.toNat 0).getLsbD th else true
      (∀ e ∈ predicate, ∀ s x, Runs (e.1 f) s x → PredResult (e.1 f) s x f.d.toNat (fun th =>
        if f.b = 127 then e.2 (p x f.d th) (p x f.a th) else e.2 (p x f.a th) (p x f.b th)) 0) ∧
      ∀ s x, Runs (.pnot f) s x → PredResult (.pnot f) s x f.d.toNat (fun th => !p x f.a th) 0) ∧
    (f.uni = true →
      let p (x : Ctx) (n : BitVec 7) : Bool := x.c.sp.getD n.toNat false
      (∀ e ∈ predicate, ScalarPredResult (e.1 f) f.d.toNat fun x =>
        if f.b = 127 then e.2 (p x f.d) (p x f.a) else e.2 (p x f.a) (p x f.b)) ∧
      ScalarPredResult (.pnot f) f.d.toNat fun x => !p x f.a)

/-- The wake records of the words on registers that are no boundary (R111, R112, R119, R121 to R124, R141, R142, R144, R337, R339): one record
with the count, the active set and what the destination held, registers with their tags; none for a word of class I or Fresh,
for zero, p7 or, by the model's choice (log 33), a latch; the record of a PACK notes whether it stepped the generator
(log 14). A lane word without active threads records as well. -/
def Sys2Proof.Claims.WakeRecords : Prop :=
  (∀ i d s x, Writes i d ∨ LaneWrites i d → FieldsOk i x → Runs i s x → isBoundary i = false →
    ∃ t c, exec i s = .next t ∧ Counted x t c ∧ Records i x c
      (if (vecKind d = .v ∨ vecKind d = .o) ∧ unrecorded i = false then some (.reg d.toNat [x.c.vreg d.toNat]) else none)) ∧
  (∀ i d s x, PairWrites i d → Runs i s x → isBoundary i = false → ∃ t c, exec i s = .next t ∧ Counted x t c ∧ Records i x c
    (if (vecKind d = .v ∨ vecKind d = .o) ∧ unrecorded i = false then
      some (.reg d.toNat [x.c.vreg d.toNat, x.c.vreg (d.toNat + 1)]) else none)) ∧
  (∀ m ∈ binary.map (·.1) ++ unary.map (·.1) ++ accumulate.map (·.1), ∀ f : GFields, f.uni = true → ∀ s x,
    Runs (m f) s x → isBoundary (m f) = false → ∃ t c, exec (m f) s = .next t ∧ Counted x t c ∧ Records (m f) x c
      (if uniKind f.d = .s ∧ unrecorded (m f) = false then some (.sreg f.d.toNat [x.c.sreg f.d.toNat]) else none)) ∧
  (∀ m ∈ [Instr.lea, .leau, .add64], ∀ f : GFields, f.uni = true → ∀ s x, Runs (m f) s x → isBoundary (m f) = false →
    ∃ t c, exec (m f) s = .next t ∧ Counted x t c ∧ Records (m f) x c
      (if uniKind f.d = .s ∧ unrecorded (m f) = false then
        some (.sreg f.d.toNat [x.c.sreg f.d.toNat, x.c.sreg (f.d.toNat + 1)]) else none)) ∧
  (∀ e ∈ immediateS, ∀ (f : IFields) s x, Runs (e.1 f) s x → ∃ t c, exec (e.1 f) s = .next t ∧ Counted x t c ∧
    Records (e.1 f) x c (if unrecorded (e.1 f) = true then none else some (.sreg f.d.toNat [x.c.sreg f.d.toNat]))) ∧
  (∀ m ∈ compare.map (·.1) ++ floatCompare.map (·.1) ++ predicate.map (·.1) ++ [.pnot], ∀ (f : GFields) s x,
    Runs (m f) s x → isBoundary (m f) = false → ∃ t c, exec (m f) s = .next t ∧ Counted x t c ∧ Records (m f) x c
      (if unrecorded (m f) = true then none
        else if f.uni then some (.spred f.d.toNat (x.c.sp.getD f.d.toNat false))
        else if f.d.toNat < 7 then some (.pred f.d.toNat (x.c.pred f.d.toNat)) else none)) ∧
  ∀ (f : SFields) (s : State) (x : Ctx),
    (Runs (.mfs f) s x → isBoundary (.mfs f) = false → ∃ t c, exec (.mfs f) s = .next t ∧ Counted x t c ∧ Records (.mfs f) x c
      (if vecKind f.a = .v ∨ vecKind f.a = .o then
        some (.reg f.a.toNat (x.c.vreg f.a.toNat :: if f.imm.toNat ∈ [0, 5, 7] then [x.c.vreg (f.a.toNat + 1)] else []))
        else none)) ∧
    (Runs (.mts f) s x → isBoundary (.mts f) = false →
      (∀ th, lowest x.act = some th → (lane (x.rawSrc f.a 0) th).toNat % 8 ∉ [0, 7]) →
      ∃ t c, exec (.mts f) s = .next t ∧ Counted x t c ∧ Records (.mts f) x c (some (.fmode x.c.fmode))) ∧
    (Runs (.seed f) s x → isBoundary (.seed f) = false → ∃ t c, exec (.seed f) s = .next t ∧ Counted x t c ∧
      Records (.seed f) x c (some (.lfsr x.c.lfsr)))

/-- The wake records of loads, of weak and plain stores and of plain exchanges that are no boundary (R205, R208, R210, R337, R339):
a load records the old registers, a store the address of each active thread with the bytes that it overwrites there, threads
ascending, an exchange, its own inverse, nothing. -/
def Sys2Proof.Claims.WakeOfAccesses : Prop :=
  (∀ e ∈ loads, ∀ (f : MFields) (s : State) (x : Ctx) (accs : List Acs), Runs (e.1 f) s x → x.act ≠ 0 →
    isBoundary (e.1 f) = false →
    Passes (e.1 f) x (f.sp == 1) .load f.cls.toNat false true e.2 (requests x (f.sp == 1) f.a (f.off.toInt * e.2)) accs →
    let k := if e.2 ≤ 4 then 1 else e.2 / 4
    ∃ t c, exec (e.1 f) s = .next t ∧ Counted x t c ∧ Records (e.1 f) x c
      (if vecKind f.d = .v ∨ vecKind f.d = .o then
        some (.reg f.d.toNat ((List.range k).map fun n => x.c.vreg (f.d.toNat + n))) else none)) ∧
  (∀ e ∈ stores, ∀ (f : MFields) (s : State) (x : Ctx) (accs : List Acs), Runs (e.1 f) s x → x.act ≠ 0 → f.sp ≠ 2 →
    isBoundary (e.1 f) = false → x.w.isShadow = false →
    let scr := f.sp == 1
    Passes (e.1 f) x scr .store f.cls.toNat false true e.2 (requests x scr f.a (f.off.toInt * e.2)) accs →
    let bytes (th : Nat) : List Byte := ((List.range (if e.2 ≤ 4 then 1 else e.2 / 4)).flatMap fun n =>
      leBytes (storedWord x f.d n th).toNat 4).take e.2
    let places (a : Acs) : List Nat := (a.bytesAt scr .store).map (·.1)
    let before (k b : Nat) : Byte :=
      written ((accs.take k).flatMap fun a => (places a).zip (bytes a.t)) b (memByte (if scr then x.w.scr else s.mem) b)
    ∃ t c, exec (e.1 f) s = .next t ∧ Counted x t c ∧ Records (e.1 f) x c
      (some (.store scr e.2 (accs.zipIdx.map fun a => (a.1.addr, (places a.1).map (before a.2)))))) ∧
  ∀ (f : MFields) (s : State) (x : Ctx) (accs : List Acs), Runs (.xchg f) s x → x.act ≠ 0 → isBoundary (.xchg f) = false →
    Passes (.xchg f) x (f.sp == 1) .both f.cls.toNat true true 4 (requests x (f.sp == 1) f.a (f.off.toInt * 4)) accs →
    ∃ t c, exec (.xchg f) s = .next t ∧ Counted x t c ∧ Records (.xchg f) x c none

/-- The latch history (R25, R26, R119, R120, R138): a vector word whose destination is a register, a queue or a latch shifts the
latches and l0 takes the destination's new value with its tag; a queue's element is tagged by its values; a latch destination
takes the tag that R36 gives from the old l0, U where that was invalid, and keeps its values in inactive threads, or zero; a pair
enters by its low register, SWAP by its new d. Nothing shifts for a mailbox or zero, without active threads for a lane word or
one that names a queue or mailbox. -/
def Sys2Proof.Claims.LatchHistory : Prop :=
  (∀ i d s x, Writes i d ∨ LaneWrites i d → FieldsOk i x → Runs i s x → ∃ t c, exec i s = .next t ∧ Counted x t c ∧
    (x.act = 0 → (view i).namesQM = true ∨ LaneWrites i d → c.l = x.c.l) ∧
    (x.act ≠ 0 ∨ ((view i).namesQM = false ∧ Writes i d) →
      ((vecKind d = .v ∨ vecKind d = .o) → c.l = ⟨(c.vreg d.toNat).vals, (c.vreg d.toNat).tag, true⟩ :: x.c.l.take 3) ∧
      (vecKind d = .q → ∃ w tag, t.wg? x.w.uid = some w ∧
        let e := w.element (d.toNat - 104) ((w.queue (d.toNat - 104)).count - 1)
        c.l = ⟨e, tag, true⟩ :: x.c.l.take 3 ∧ TagAfter .U 0xFFFFFFFF (lane e) tag) ∧
      (vecKind d = .l → ∃ vals tag, c.l = ⟨vals, tag, true⟩ :: x.c.l.take 3 ∧
        TagAfter (if (x.c.latch 0).valid then (x.c.latch 0).tag else .U) x.act (lane vals) tag ∧
        ∀ th < 32, x.act.getLsbD th = false →
          lane vals th = if (x.c.latch 0).valid then lane (x.c.latch 0).vals th else 0) ∧
      (vecKind d = .m ∨ vecKind d = .zero → c.l = x.c.l))) ∧
  (∀ i d s x, PairWrites i d → Runs i s x → ∃ t c, exec i s = .next t ∧ Counted x t c ∧
    (x.act = 0 → (view i).namesQM = true → c.l = x.c.l) ∧
    (x.act ≠ 0 ∨ (view i).namesQM = false →
      c.l = ⟨(c.vreg d.toNat).vals, (c.vreg d.toNat).tag, true⟩ :: x.c.l.take 3)) ∧
  ∀ (f : GFields) (s : State) (x : Ctx), f.uni = false → Runs (.swap f) s x → ∃ t c, exec (.swap f) s = .next t ∧
    Counted x t c ∧ c.l = ⟨(c.vreg f.d.toNat).vals, (c.vreg f.d.toNat).tag, true⟩ :: x.c.l.take 3

/-- The shape tags of written registers (R36), by the values they hold after the write: of vector results, of both registers of
a pair and of SWAP, and of the registers that a load writes. -/
def Sys2Proof.Claims.ShapeTags : Prop :=
  let tagged (x : Ctx) (c : Crew) (n : Nat) : Prop :=
    TagAfter (x.c.vreg n).tag x.act (fun th => lane (c.vreg n).vals th) (c.vreg n).tag
  (∀ i d s x, Writes i d ∨ LaneWrites i d → FieldsOk i x → (vecKind d = .v ∨ vecKind d = .o) → Runs i s x → x.act ≠ 0 →
    ∃ t c, exec i s = .next t ∧ Counted x t c ∧ tagged x c d.toNat) ∧
  (∀ i d s x, PairWrites i d → (vecKind d = .v ∨ vecKind d = .o) → Runs i s x → x.act ≠ 0 →
    ∃ t c, exec i s = .next t ∧ Counted x t c ∧ tagged x c d.toNat ∧ tagged x c (d.toNat + 1)) ∧
  (∀ (f : GFields) (s : State) (x : Ctx), f.uni = false → Runs (.swap f) s x → ∃ t c, exec (.swap f) s = .next t ∧
    Counted x t c ∧ tagged x c f.d.toNat ∧ tagged x c f.a.toNat) ∧
  ∀ e ∈ loads, ∀ (f : MFields) (s : State) (x : Ctx) (accs : List Acs), Runs (e.1 f) s x → x.act ≠ 0 →
    (vecKind f.d = .v ∨ vecKind f.d = .o) →
    Passes (e.1 f) x (f.sp == 1) .load f.cls.toNat false true e.2 (requests x (f.sp == 1) f.a (f.off.toInt * e.2)) accs →
    ∃ t c, exec (e.1 f) s = .next t ∧ Counted x t c ∧
      ∀ n < (if e.2 ≤ 4 then 1 else e.2 / 4), tagged x c (f.d.toNat + n)

/-! Floating words -/

/-- Sums, differences and products, single and packed (R53, R61, R125, R126, R129): the exact value of fields a and b, or in
an update form of d and a, with modifiers on the signs, rounded once. -/
def Sys2Proof.Claims.FloatArithmetic : Prop :=
  ∀ e ∈ floatBinary, ∀ f : FFields, FloatResult (e.1 f) f.d f.rnd.toNat fun x th =>
    let a := lane (x.fsrcA e.2.1 f.a) th
    if f.b = 127 then e.2.2 (x.roundEnv f.rnd.toNat) th (lane (x.c.vreg f.d.toNat).vals th) a
    else e.2.2 (x.roundEnv f.rnd.toNat) th a (lane (x.fsrcB e.2.1 f.a f.b) th)

/-- Fused multiply-adds (R125, R129): d + a × b, rounded once. -/
def Sys2Proof.Claims.FusedMultiplyAdd : Prop :=
  ∀ e ∈ floatFused, ∀ f : FFields, FloatResult (e.1 f) f.d f.rnd.toNat fun x th =>
    e.2.2 (x.roundEnv f.rnd.toNat) th (lane (x.c.vreg f.d.toNat).vals th) (lane (x.fsrcA e.2.1 f.a) th)
      (lane (x.fsrcB e.2.1 f.a f.b) th)

/-- Floating compares (R127): the predicate takes the condition in the active threads, NV is raised by LT and LE where an
active thread has a NaN operand, and no other flag. -/
def Sys2Proof.Claims.FloatCompares : Prop :=
  ∀ e ∈ floatCompare, ∀ f : GFields, ∀ s x, Runs (e.1 f) s x →
    let a th := (x.c.fenv 0).val32 (lane (x.fsrcA false f.a) th)
    let b th := (x.c.fenv 0).val32 (lane (x.fsrcB false f.a f.b) th)
    PredResult (e.1 f) s x f.d.toNat (fun th => e.2.2 (a th) (b th))
      (if e.2.1 && (List.range 32).any fun th => x.act.getLsbD th && ((a th).isNan || (b th).isNan) then 0x100 else 0)

/-- FMIN, FMAX, FABS and FNEG (R128) complete with no flag: the smaller or the larger, the sign cleared or changed, a NaN
operand of FABS and FNEG replaced by the canonical one. -/
def Sys2Proof.Claims.FloatSelect : Prop :=
  ∀ f : GFields,
    (∀ e ∈ [(Instr.fmin, smaller), (.fmax, larger)], IntegerResult (e.1 f) f.d fun x th =>
      let a := lane (x.fsrcA false f.a) th
      if f.b = 127 then e.2 (x.c.fenv 0) (lane (x.c.vreg f.d.toNat).vals th) a
      else e.2 (x.c.fenv 0) a (lane (x.fsrcB false f.a f.b) th)) ∧
    ∀ e ∈ [(Instr.fabs, fun w : Word => w &&& 0x7FFFFFFF), (.fneg, fun w => w ^^^ 0x80000000)],
      IntegerResult (e.1 f) f.d fun x th =>
        let w := lane (x.fsrcA false f.a) th
        if ((x.c.fenv 0).val32 w).isNan then 0x7FC00000
        else e.2 (if (x.c.fenv 0).daz ∧ w.toNat / 2 ^ 23 % 256 = 0 then w &&& 0x80000000 else w)

/-- The transcendental words (R130): the value of the function, rounded in the mode of FMODE. The model takes the value to 250
bits with a sticky bit below them, and that this rounds as the exact value does is its deduction (log 9). -/
def Sys2Proof.Claims.Transcendentals : Prop :=
  ∀ e ∈ transcendental, ∀ f : GFields, FloatResult (e.1 f) f.d 0 fun x th =>
    (x.roundEnv 0).to32 th (e.2.eval ((x.roundEnv 0).val32 (lane (x.srcA f.a) th)))

/-- Table 7 of R130: what the transcendental words make of infinities, zeros, NaNs, negative operands of RSQ, SQRT and LG2,
and some exact cases, in every mode. -/
def Sys2Proof.Claims.TranscendentalSpecialCases : Prop :=
  ∀ (f : TFun), ∀ e ∈ specialCases f, ∀ (env : FEnv) (th : Nat), env.to32 th (f.eval (env.val32 e.1)) = e.2

/-- A code of a format that has no NaN in it rounds to itself, exactly and with no flag, in every mode (R89, R100); flushed
subnormals aside. -/
def Sys2Proof.Claims.RoundingKeepsValues : Prop :=
  ∀ g ∈ [fp32, fp16, bf16, e4m3, e5m2, e2m1], ∀ (c : Nat) (r : Rnd), c < 2 ^ g.bits → (g.value c).isNan = false →
    r.ftzo = false → roundTo g (g.value c) r = (c, {})

/-- Rounding to binary32 in a directed mode errs on the side R100 gives: never down in RP, never up in RM, never away from
zero in RZ, where the result is finite and does not saturate. -/
def Sys2Proof.Claims.DirectedRounding : Prop :=
  ∀ (neg : Bool) (m : Nat) (e : Int) (r : Rnd) (n : Bool) (k : Nat) (q : Int), m ≠ 0 → r.ftzo = false → r.sat = false →
    fp32.value (roundTo fp32 (.fin neg m e) r).1 = .fin n k q →
    let v (n : Bool) (k : Nat) (q : Int) : Rat := (if n then -1 else 1) * k * (2 : Rat) ^ q
    (r.mode = .rp → v neg m e ≤ v n k q) ∧ (r.mode = .rm → v n k q ≤ v neg m e) ∧
      (r.mode = .rz → |v n k q| ≤ |v neg m e|)

/-- Conversions and DOT4F (R131, R105, R137): CVT by its code, with modifiers on the sign of field a; four products of
binary8 elements and d summed exactly and rounded once. -/
def Sys2Proof.Claims.ConversionsAndDots : Prop :=
  (∀ f : FFields, FloatResult (.cvt f) f.d f.rnd.toNat fun x th =>
    convert f.b.toNat (x.roundEnv f.rnd.toNat) th (lane (x.fsrcA false f.a) th)) ∧
  ∀ f : GFields, FloatResult (.dot4f f) f.d 0 fun x th =>
    let e := x.roundEnv 0
    let el (w : Word) (k : Nat) : Exact := e4m3.value (w.toNat / 2 ^ (8 * k) % 256)
    let a := lane (x.srcA f.a) th
    let b := lane (x.srcB f.a f.b) th
    e.to32 th (Exact.sum (e.mode == .rm) (e.val32 (lane (x.c.vreg f.d.toNat).vals th) ::
      (List.range 4).map fun k => ((el a k).mul (el b k)).1))

/-- A 32-bit integer of at most 24 bits goes to binary32 and back unchanged, with no flag either way (R101, R105). -/
def Sys2Proof.Claims.IntegerConversionRoundTrip : Prop :=
  ∀ (e : FEnv) (th : Nat) (w : Word), w.toInt.natAbs ≤ 2 ^ 24 →
    (convert 0x16 e th w).2 = {} ∧ convert 0x06 e th (convert 0x16 e th w).1 = (w, {})

/-- PACK, UNPK and SCAL with the control words of every active thread valid (R132 to R135). That the update form of SCAL scales
the old destination by the code in field a is the model's reading of R53 beside R135 (log 31). -/
def Sys2Proof.Claims.PackedConversions : Prop :=
  ∀ (f : GFields) (s : State) (x : Ctx),
    (Runs (.pack f) s x → (∀ th < 32, x.act.getLsbD th → packOk false (lane (x.srcB f.a f.b) th) = true) →
      let q th := lane (x.srcB f.a f.b) th
      let sr := (List.range 32).any fun th => x.act.getLsbD th && (x.c.fenv (packRnd (q th))).mode == .sr
      let r th := packWord { x.c.fenv (packRnd (q th)) with lfsr := if sr then lfsrForward x.c.lfsr else x.c.lfsr } th
        (lane (x.c.vreg f.d.toNat).vals th) (lane (x.srcA f.a) th) (q th)
      Yields (.pack f) s x f.d (fun th => (r th).1) (fun th => (r th).2) (drawn x sr)) ∧
    (Runs (.unpk f) s x →
      let p th := if f.b = 127 then lane (x.c.vreg f.d.toNat).vals th else lane (x.srcA f.a) th
      let q th := if f.b = 127 then lane (x.srcA f.a) th else lane (x.srcB f.a f.b) th
      (∀ th < 32, x.act.getLsbD th → packOk true (q th) = true) →
      Yields (.unpk f) s x f.d (fun th => unpkWord (p th) (q th)) (fun _ => {}) x.c.lfsr) ∧
    (Runs (.scal f) s x →
      let p th := if f.b = 127 then lane (x.c.vreg f.d.toNat).vals th else lane (x.srcA f.a) th
      let q th := if f.b = 127 then lane (x.srcA f.a) th else lane (x.srcB f.a f.b) th
      (∀ th < 32, x.act.getLsbD th → (q th).toNat < 1024) →
      let r th := scalWord (x.roundEnv 0) th (p th) (q th)
      Yields (.scal f) s x f.d (fun th => (r th).1) (fun th => (r th).2) (drawn x ((x.c.fenv 0).mode == .sr)))

/-- A control word that is not valid in an active thread raises CONTROL_INVALID, for SCAL a code of more than 10 bits
BLOCK_SCALE_INVALID, before any effect, and names field b (field a in the update form of UNPK) (R132, R135). -/
def Sys2Proof.Claims.ControlWordFaults : Prop :=
  ∀ (f : GFields) (s : State) (x : Ctx) (th : Nat), th < 32 → x.act.getLsbD th = true →
    (Goes (.pack f) s x → packOk false (lane (x.srcB f.a f.b) th) = false →
      exec (.pack f) s = .next (s.raiseFault x.c { code := .controlInvalid, field := .b })) ∧
    (Goes (.unpk f) s x →
      packOk true (if f.b = 127 then lane (x.srcA f.a) th else lane (x.srcB f.a f.b) th) = false →
      exec (.unpk f) s = .next (s.raiseFault x.c { code := .controlInvalid, field := if f.b = 127 then .a else .b })) ∧
    (Goes (.scal f) s x → 1024 ≤ (if f.b = 127 then lane (x.srcA f.a) th else lane (x.srcB f.a f.b) th).toNat →
      exec (.scal f) s = .next (s.raiseFault x.c { code := .blockScaleInvalid, field := .b }))

/-! Lane words -/

/-- Reductions, scans, SHFL, VOTE and MATCH over the active threads (R138); the update form takes its key, or for SHFL its
values, from the old destination. -/
def Sys2Proof.Claims.LaneWords : Prop :=
  ∀ f : GFields,
    let key (x : Ctx) (th : Nat) := if f.b = 127 then lane (x.c.vreg f.d.toNat).vals th else lane (x.srcB f.a f.b) th
    (∀ e ∈ laneFold, IntegerResult (e.1 f) f.d fun x th =>
      (folded x e.2.1 th).foldl (fun r u => e.2.2 r (lane (x.srcA f.a) u)) (key x th)) ∧
    (IntegerResult (.shfl f) f.d fun x th =>
      if f.b = 127 then lane (x.c.vreg f.d.toNat).vals ((lane (x.srcA f.a) th).toNat % 32)
      else lane (x.srcA f.a) ((lane (x.srcB f.a f.b) th).toNat % 32)) ∧
    (IntegerResult (.vote f) f.d fun x _ => ballot x fun u => lane (x.srcA f.a) u != key x u) ∧
    IntegerResult (.matchAny f) f.d fun x th =>
      ballot x fun u => lane (x.srcA f.a) u == lane (x.srcA f.a) th && key x u == key x th

/-- The floating reduction and scan (R139): exact sums, one rounding a thread; and RAND (R140), which draws once whatever
the active threads. -/
def Sys2Proof.Claims.LaneSumsAndRandom : Prop :=
  ∀ f : GFields,
    let key (x : Ctx) (th : Nat) := if f.b = 127 then lane (x.c.vreg f.d.toNat).vals th else lane (x.srcB f.a f.b) th
    (∀ e ∈ [(Instr.redlFadd, false), (.scanlFadd, true)], FloatResult (e.1 f) f.d 0 fun x th =>
      let env := x.roundEnv 0
      env.to32 th (Exact.sum (env.mode == .rm)
        (env.val32 (key x th) :: (folded x e.2 th).map fun u => env.val32 (lane (x.srcA f.a) u)))) ∧
    ∀ s x, Runs (.rand f) s x → Yields (.rand f) s x f.d
      (fun th => mix (lfsrForward x.c.lfsr) (lane (x.srcA f.a) th + key x th)) (fun _ => {}) (drawn x true)

/-- One step of the generator back undoes one forward, and the state is never 0 (R103). -/
def Sys2Proof.Claims.GeneratorStepsBack : Prop :=
  ∀ w : Word, lfsrBackward (lfsrForward w) = w ∧ lfsrForward (lfsrBackward w) = w ∧ (w ≠ 0 → lfsrForward w ≠ 0)

/-! Special registers -/

/-- MFS (R142, R143): the value of the special register before the instruction goes to every active thread of field a, a
64-bit one to the pair; no latch shifts and no other register changes. -/
def Sys2Proof.Claims.SpecialRegisterReads : Prop :=
  ∀ (f : SFields) (s : State) (x : Ctx), Runs (.mfs f) s x → ∃ t c, exec (.mfs f) s = .next t ∧ Counted x t c ∧
    (match special x f with
      | .inl w => Lands x t c f.a (fun _ => w) ∧ SameRegs x.c c (destRegs f.a 1)
      | .inr q => LandsPair x c f.a (fun _ => q) ∧ SameRegs x.c c (destRegs f.a 2)) ∧
    c.l = x.c.l ∧ SameModes x.c c ∧ SameScalars x.c c ∧ SameMboxes (.mfs f) x.c c ∧ Kept (.mfs f) x c ∧ SameMachine x s t


/-- MTS writes FMODE and SEED the generator, from the leader's value (R141, R144): reserved bits of FMODE stay 0, a seed of
0 becomes 1, reserved modes raise ILLEGAL_OPERAND. -/
def Sys2Proof.Claims.ModeAndSeed : Prop :=
  ∀ (f : SFields) (s : State) (x : Ctx) (th : Nat), lowest x.act = some th →
    let w := lane (x.rawSrc f.a 0) th
    (Runs (.mts f) s x → w.toNat % 8 ≠ 0 → w.toNat % 8 ≠ 7 → ∃ t c, exec (.mts f) s = .next t ∧ Counted x t c ∧
      c.fmode = w &&& 0x3F3F ∧ c.lfsr = x.c.lfsr ∧ SameRegs x.c c [] ∧ SameScalars x.c c ∧ c.l = x.c.l ∧
      SameMboxes (.mts f) x.c c ∧ Kept (.mts f) x c ∧ SameUnlessQueues (.mts f) x s t) ∧
    (Goes (.mts f) s x → (w.toNat % 8 = 0 ∨ w.toNat % 8 = 7) →
      exec (.mts f) s = .next (s.raiseFault x.c { code := .illegalOperand, field := .a })) ∧
    (Runs (.seed f) s x → ∃ t c, exec (.seed f) s = .next t ∧ Counted x t c ∧
      c.lfsr = (if w = 0 then 1 else w) ∧ c.fmode = x.c.fmode ∧ SameRegs x.c c [] ∧ SameScalars x.c c ∧ c.l = x.c.l ∧
      SameMboxes (.seed f) x.c c ∧ Kept (.seed f) x c ∧ SameUnlessQueues (.seed f) x s t)

/-! Memory words -/

/-- Loads (R202 to R206): with active threads, where the checks of R203 pass, each active thread's bytes go zero-extended
to the registers from field d (through a mapping that is not non-coherent the bytes memory holds); no byte of memory or,
unless a queue is pushed, of scratchpad changes. For a plain weak load (class 00), and where a race goes unchecked, R186 also
allows older bytes: that the newest are read is there the model's choice (log 6), and no rule's. -/
def Obligations.Loads : Prop :=
  ∀ e ∈ loads, ∀ (f : MFields) (s : State) (x : Ctx) (accs : List Acs), Runs (e.1 f) s x → x.act ≠ 0 →
    let scr := f.sp == 1
    let k := if e.2 ≤ 4 then 1 else e.2 / 4
    Passes (e.1 f) x scr .load f.cls.toNat false true e.2 (requests x scr f.a (f.off.toInt * e.2)) accs →
    ∃ t c, exec (e.1 f) s = .next t ∧ Counted x t c ∧ LeavesCrew (e.1 f) x c ∧ LeavesOthers (e.1 f) x s t ∧
      SameRegs x.c c (destRegs f.d k) ∧ (∀ b, memByte t.mem b = memByte s.mem b) ∧
      ((view (e.1 f)).pushes = [] → ScratchIs x t (memByte x.w.scr)) ∧
      ((∀ a ∈ accs, ∀ p ∈ a.pieces, p.phys.ncl1 = false) →
        let bytes (th : Nat) : List Byte := (accs.find? (·.t == th)).elim [] (bytesOf x scr)
        HoldsWords x c f.d k bytes ∧
        (vecKind f.d = .m ∨ vecKind f.d = .q → Lands x t c f.d fun th => wordAt (bytes th) 0))

/-- Stores to scratchpad and global space (R204, R205, R208): with active threads, where the checks pass, every byte the
accesses cover holds the newest byte stored to it, threads ascending; every other byte of memory and scratchpad is as
before; a shadow of redundant execution performs no global store (R357). R186 allows that a weak store (class 00) that another
overwrites, or whose race goes unchecked, never lands: that it always does is the model's choice (log 6), and no rule's. -/
def Obligations.Stores : Prop :=
  ∀ e ∈ stores, ∀ (f : MFields) (s : State) (x : Ctx) (accs : List Acs), Runs (e.1 f) s x → x.act ≠ 0 → f.sp ≠ 2 →
    let scr := f.sp == 1
    let k := if e.2 ≤ 4 then 1 else e.2 / 4
    Passes (e.1 f) x scr .store f.cls.toNat false (f.cls.toNat != 2 && !(view (e.1 f)).namesQM) e.2
      (requests x scr f.a (f.off.toInt * e.2)) accs →
    let bytes (th : Nat) : List Byte := ((List.range k).flatMap fun n =>
      leBytes (storedWord x f.d n th).toNat 4).take e.2
    let ws : List (Nat × Byte) := accs.flatMap fun a => ((a.bytesAt scr .store).map (·.1)).zip (bytes a.t)
    ∃ t c, exec (e.1 f) s = .next t ∧ Counted x t c ∧ LeavesCrew (e.1 f) x c ∧ LeavesOthers (e.1 f) x s t ∧
      SameRegs x.c c [] ∧
      (∀ b, memByte t.mem b = if scr = true ∨ x.w.isShadow = true then memByte s.mem b else written ws b (memByte s.mem b)) ∧
      ScratchIs x t fun b => if scr then written ws b (memByte x.w.scr b) else memByte x.w.scr b

/-- XCHG (R210): the accesses exchange one after the other, threads ascending, each the word memory holds then with the
thread's word of d; every other byte is as before. -/
def Sys2Proof.Claims.Exchange : Prop :=
  ∀ (f : MFields) (s : State) (x : Ctx) (accs : List Acs), Runs (.xchg f) s x → x.act ≠ 0 → x.w.isShadow = false →
    let scr := f.sp == 1
    Passes (.xchg f) x scr .both f.cls.toNat true true 4 (requests x scr f.a (f.off.toInt * 4)) accs →
    let r := oneByOne scr (fun th _ => leBytes (lane (x.c.vreg f.d.toNat).vals th).toNat 4) (if scr then x.w.scr else s.mem) accs
    ∃ t c, exec (.xchg f) s = .next t ∧ Counted x t c ∧ LeavesCrew (.xchg f) x c ∧ LeavesOthers (.xchg f) x s t ∧
      SameRegs x.c c (destRegs f.d 1) ∧
      HoldsWords x c f.d 1 (fun th => ((r.2.find? (·.1 == th)).map (·.2)).getD []) ∧
      (∀ b, memByte t.mem b = memByte (if scr then s.mem else r.1) b) ∧
      ScratchIs x t fun b => memByte (if scr then r.1 else x.w.scr) b

/-- Atomics (R211 to R215): each active thread in ascending order reads the old value, computes NewValue and writes it;
field d, unless it holds none or zero, receives the old values; every other byte is as before. -/
def Sys2Proof.Claims.Atomics : Prop :=
  ∀ e ∈ atomics, ∀ (f : AFields) (s : State) (x : Ctx) (accs : List Acs), Runs (e.1 f) s x → x.act ≠ 0 →
    let scr := e.2.1
    let k := match f.w.toNat with | 0 => 1 | 1 => 2 | _ => 4
    let reqs : List AReq := if scr then ((List.range 32).filter fun th => x.act.getLsbD th).map fun th =>
      ⟨th, (lane (x.srcA f.a) th).toNat⟩ else requests x false f.a 0
    Passes (e.1 f) x scr .both 2 true true (4 * k) reqs accs →
    let operand (th : Nat) : Nat := ((List.range (k * e.2.2.2)).map fun n =>
      (lane (permute x.patB (x.rawSrc (f.b + BitVec.ofNat 7 n) 0)) th).toNat * 2 ^ (32 * n)).sum
    let r := oneByOne scr (fun th old => leBytes (e.2.2.1 (32 * k) (leNat old) (operand th)) (4 * k))
      (if scr then x.w.scr else s.mem) accs
    ∃ t c, exec (e.1 f) s = .next t ∧ Counted x t c ∧ LeavesCrew (e.1 f) x c ∧ LeavesOthers (e.1 f) x s t ∧
      SameRegs x.c c (destRegs f.d k) ∧
      HoldsWords x c f.d k (fun th => ((r.2.find? (·.1 == th)).map (·.2)).getD []) ∧
      (∀ b, memByte t.mem b = memByte (if scr then s.mem else r.1) b) ∧
      ScratchIs x t fun b => memByte (if scr then r.1 else x.w.scr) b

/-- A memory word with no active thread retires with no effect (R110, R205); no queue or mailbox it names is touched, and it
pushes no record (R337). -/
def Sys2Proof.Claims.IdleAccesses : Prop :=
  ∀ (i : Instr) (s : State) (x : Ctx),
    ((∃ e ∈ loads, ∃ f, i = e.1 f) ∨ (∃ e ∈ stores, ∃ f, i = e.1 f) ∨ (∃ f, i = .xchg f) ∨ ∃ e ∈ atomics, ∃ f, i = e.1 f) →
    Runs i s x → x.act = 0 → ∃ t c, exec i s = .next t ∧ Counted x t c ∧ LeavesCrew i x c ∧ WakeIs i x x.c c ∧
      SameRegs x.c c [] ∧ c.m = x.c.m ∧ SameMachine x s t

/-- The access that a word makes in each active thread (R202, R203): its space, way and class, whether it must be aligned,
whether it reads bytes, its size and the addresses, lowest thread first. -/
structure Sys2Proof.Claims.Shape where
  scr : Bool
  way : Way
  cls : Nat
  align : Bool
  old : Bool
  n : Nat
  reqs : List AReq

/-- The accesses of loads, stores in ordinary spaces, exchanges and atomics (R205, R210, R211). -/
def Sys2Proof.Claims.AccessOf (i : Instr) (x : Ctx) (k : Shape) : Prop :=
  (∃ e ∈ loads, ∃ f : MFields, i = e.1 f ∧
    k = ⟨f.sp == 1, .load, f.cls.toNat, false, true, e.2, requests x (f.sp == 1) f.a (f.off.toInt * e.2)⟩) ∨
  (∃ e ∈ stores, ∃ f : MFields, f.sp ≠ 2 ∧ i = e.1 f ∧
    k = ⟨f.sp == 1, .store, f.cls.toNat, false, f.cls.toNat != 2 && !(view i).namesQM, e.2,
      requests x (f.sp == 1) f.a (f.off.toInt * e.2)⟩) ∨
  (∃ f : MFields, i = .xchg f ∧
    k = ⟨f.sp == 1, .both, f.cls.toNat, true, true, 4, requests x (f.sp == 1) f.a (f.off.toInt * 4)⟩) ∨
  ∃ e ∈ atomics, ∃ f : AFields, i = e.1 f ∧
    k = ⟨e.2.1, .both, 2, true, true, 4 * (match f.w.toNat with | 0 => 1 | 1 => 2 | _ => 4),
      if e.2.1 then ((List.range 32).filter fun th => x.act.getLsbD th).map fun th => ⟨th, (lane (x.srcA f.a) th).toNat⟩
      else requests x false f.a 0⟩

/-- The accesses of a shape after translation, with the machine that the walks leave (R203 step 4). -/
def Sys2Proof.Claims.Translated (x : Ctx) (k : Shape) (s1 : State) (accs : List Acs) : Prop :=
  if k.scr then s1 = x.s ∧ accs = k.reqs.map fun r => ⟨r.t, r.addr.toNat, k.n, []⟩
  else xlateAll x.eff.ptroot k.way k.n x.s k.reqs = (s1, .ok accs)

/-- No access of a shape lies above the address range, is misaligned where it must be aligned, or leaves the scratchpad
allocation (R203 steps 1 to 3). -/
def Sys2Proof.Claims.Placed (x : Ctx) (k : Shape) : Prop :=
  ∀ q ∈ k.reqs, (k.scr = false → q.addr + k.n ≤ 2 ^ 57) ∧ (k.align = true → q.addr % k.n = 0) ∧
    (k.scr = true → 0 ≤ q.addr ∧ q.addr + k.n ≤ (4096 * x.w.scrgran : Nat))

/-- Steps 1 to 3 of R203: the first that an active thread fails, for the lowest of them, before any effect: ADDRESS_RANGE, with
the lowest byte past 2^57, ALIGNMENT of exchanges and atomics of every width, SCRATCH_BOUND, with the lowest byte past the
allocation; of the address that a negative scratchpad offset reports nothing is said. -/
def Sys2Proof.Claims.PlaceFaults : Prop :=
  ∀ (i : Instr) (s : State) (x : Ctx) (k : Shape), AccessOf i x k → Goes i s x →
    ∀ pre r post, k.reqs = pre ++ r :: post →
    let access : Nat := if k.way = .load then 1 else 2
    let inRange (q : AReq) : Prop := k.scr = false → q.addr + k.n ≤ 2 ^ 57
    let aligned (q : AReq) : Prop := k.align = true → q.addr % k.n = 0
    let inside (q : AReq) : Prop := k.scr = true → 0 ≤ q.addr ∧ q.addr + k.n ≤ (4096 * x.w.scrgran : Nat)
    ((∀ q ∈ pre, inRange q) → ¬ inRange r →
      FaultsWith i s x { code := .addressRange, addr := max r.addr.toNat (2 ^ 57), access := access }) ∧
    ((∀ q ∈ k.reqs, inRange q) → (∀ q ∈ pre, aligned q) → ¬ aligned r →
      ∃ addr, FaultsWith i s x { code := .alignment, addr := addr, access := access } ∧
        (0 ≤ r.addr → r.addr < 2 ^ 64 → (addr : Int) = r.addr)) ∧
    ((∀ q ∈ k.reqs, aligned q) → (∀ q ∈ pre, inside q) → ¬ inside r →
      ∃ addr, FaultsWith i s x { code := .scratchBound, addr := addr, access := access } ∧
        (0 ≤ r.addr → (addr : Int) = max r.addr (4096 * x.w.scrgran : Nat)))

/-- Steps 4 and 5 of R203: the first translation that fails, with its code and the lowest failing byte, and SHADOW_ACCESS of a
global exchange or atomic that touches a shadowed page; what the walks have cached stays (R312). -/
def Sys2Proof.Claims.PageFaults : Prop :=
  ∀ (i : Instr) (s : State) (x : Ctx) (k : Shape), AccessOf i x k → Goes i s x → Placed x k → k.scr = false →
    (∀ pre r post s1 s2 accs e, k.reqs = pre ++ r :: post →
      xlateAll x.eff.ptroot k.way k.n s pre = (s1, .ok accs) →
      s1.xlateRun x.eff.ptroot r.addr.toNat k.n k.way.need = (s2, .error e) →
      exec i s = .next (s2.raiseFault x.c { code := e.1, addr := e.2, access := if k.way = .load then 1 else 2 })) ∧
    ∀ s1 accs pre p post, Translated x k s1 accs → k.way = .both → (accs.flatMap fun a => a.pieces) = pre ++ p :: post →
      p.phys.shad = true → (∀ q ∈ pre, q.phys.shad = false) →
      exec i s = .next (s1.raiseFault x.c { code := .shadowAccess, addr := p.va, access := 2 })

/-- Step 6 of R203: an access of class 01 or 10 that conflicts with a remembered one raises MEMORY_RACE, but of a shadow of
redundant execution (R357); ADDR is the lowest conflicting byte, the detail holds it with the space, the two kinds and the other
party (R188, R189 Table 6). -/
def Sys2Proof.Claims.RaceFaults : Prop :=
  ∀ (i : Instr) (s : State) (x : Ctx) (k : Shape) (s1 : State) (accs : List Acs) (va : Nat) (e : Access) (o : Acc), AccessOf i x k →
    Goes i s x → Placed x k → Translated x k s1 accs → x.w.isShadow = false → k.cls ≠ 0 →
    (k.way = .both → k.scr = false → ∀ a ∈ accs, ∀ p ∈ a.pieces, p.phys.shad = false) →
    let me := (x.readStatus i).accessAt (k.way != .load) (k.cls == 2)
    findRace (if k.scr then x.w.stags else s.tags) (tagged k.scr k.way me accs) = some (va, e, o) →
    let mine : Nat := (if k.cls = 2 then 2 else 0) + (if k.way = .load then 0 else 1)
    let other : Nat := (if o.strong then 2 else 0) + (if o.write then 1 else 0)
    let space : Nat := if k.scr then 1 else 0
    let access : Nat := if k.way = .load then 1 else 2
    let detail : Nat := va * 2 ^ 64 + space * 2 ^ 62 + mine * 2 ^ 60 + other * 2 ^ 58 + otherBits e.who o.who
    exec i s = .next (s1.raiseFault x.c { code := .memoryRace, addr := va, access := access, detail := detail })

/-- Step 7 of R203: an access that reads a byte with data that ECC cannot correct raises MEMORY_UNCORRECTABLE at the lowest
such byte of the lowest thread, where no earlier check fails: scratchpad checks words, global memory aligned 8-byte units
(R352). -/
def Sys2Proof.Claims.DataFaults : Prop :=
  ∀ (i : Instr) (s : State) (x : Ctx) (k : Shape) (s1 : State) (accs : List Acs), AccessOf i x k →
    Goes i s x → Placed x k → Translated x k s1 accs → k.old = true →
    (k.way = .both → k.scr = false → ∀ a ∈ accs, ∀ p ∈ a.pieces, p.phys.shad = false) →
    (k.cls = 0 ∨ x.w.isShadow = true ∨ findRace (if k.scr then x.w.stags else s.tags)
      (tagged k.scr k.way ((x.readStatus i).accessAt (k.way != .load) (k.cls == 2)) accs) = none) →
    (k.scr = true → x.w.mtiles = []) →
    let raises (addr : Nat) : Prop := exec i s = .next (s1.raiseFault x.c
      { code := .memoryUncorrectable, addr := addr, access := if k.way = .load then 1 else 2 })
    (∀ pre a post n, k.scr = true → accs = pre ++ a :: post → n < a.n → (a.addr + n) / 4 ∈ x.w.scrFailing →
      (∀ b ∈ pre, ∀ m < b.n, (b.addr + m) / 4 ∉ x.w.scrFailing) → (∀ m < n, (a.addr + m) / 4 ∉ x.w.scrFailing) →
      raises (a.addr + n)) ∧
    ∀ pre p post n, k.scr = false → (accs.flatMap fun a => a.pieces) = pre ++ p :: post → n < p.len →
      let at_ (q : Piece) (m : Nat) : Nat := ((if k.way = .load then q.phys.rd else q.phys.wr) + m) / 8
      at_ p n ∈ s.failing → (∀ q ∈ pre, ∀ m < q.len, at_ q m ∉ s.failing) → (∀ m < n, at_ p m ∉ s.failing) →
      raises (p.va + n)

/-! Control words -/

/-- BRA, BRA.ANY and BRP (R328): taken where their condition holds, with CF set at the transfer, provided ARRIVE stands at
the target; otherwise ARRIVE_MISSING; not taken, nothing but the place changes. -/
def Obligations.Branches : Prop :=
  ∀ e ∈ branches, ∀ (f : BFields) (s : State) (x : Ctx),
    let target := branchTo x.c f.off.toInt
    (Runs (e.1 f) s x → e.2 x.c f = true → Arrives x target → Transfers (e.1 f) s x x.c target) ∧
    (Runs (e.1 f) s x → e.2 x.c f = false → Passed (e.1 f) s x x.c) ∧
    ∀ s', Goes (e.1 f) s x → e.2 x.c f = true → Unmarked x target s' →
      exec (e.1 f) s = .next (s'.raiseFault x.c { code := .arriveMissing })

/-- CALL, RET and LOOP (R329, R330): the packet after the call goes to s31, RET goes back to it, LOOP counts an s register
down and is taken until it is 0. -/
def Obligations.CallsAndLoops : Prop :=
  (∀ (f : BFields) (s : State) (x : Ctx), Runs (.call f) s x →
    let back : Word := BitVec.ofNat 32 ((BitVec.ofInt 64 (x.c.pc.toNat - (x.c.pc.toNat % 12 : Nat) + 12) - x.w.codeBase).toNat / 12)
    let y : Crew := { x.c with
      s := x.c.s.set 31 back, wake := { mask := x.act, ic := x.c.ic, body := .sreg 31 [x.c.sreg 31] } :: x.c.wake }
    let all := (List.range 32).all fun th => !x.c.mask.getLsbD th || holds x.c f th
    (all = true → Arrives x (branchTo x.c f.off.toInt) → Transfers (.call f) s x y (branchTo x.c f.off.toInt)) ∧
    (all = false → Passed (.call f) s x x.c)) ∧
  (∀ (f : SFields) (s : State) (x : Ctx), Runs (.ret f) s x →
    let target := x.w.codeBase + BitVec.ofNat 64 (12 * (x.c.sreg 31).toNat)
    Arrives x target → Transfers (.ret f) s x x.c target) ∧
  ∀ (f : IFields) (s : State) (x : Ctx), Runs (.loop f) s x →
    let n := x.c.sreg f.d.toNat - 1
    let y : Crew := { x.c with s := x.c.s.set f.d.toNat n }
    (n = 0 → Passed (.loop f) s x y) ∧
    (n ≠ 0 → Arrives x (branchTo x.c f.imm.toInt) → Transfers (.loop f) s x y (branchTo x.c f.imm.toInt))

/-- DIVR, FLIP and MERGE (R331, R332): MASK and the mask stack, the transfer where the new MASK is empty, and the faults of
a full or empty stack; FLIP and MERGE record MASK, whether taken or not (R337). -/
def Obligations.Divergence : Prop :=
  (∀ (f : BFields) (s : State) (x : Ctx),
    let n := those fun th => x.c.mask.getLsbD th && holds x.c f th
    let y : Crew := { x.c with mask := n, mstack := x.c.mask :: x.c.mstack }
    (Runs (.divr f) s x → x.c.mstack.length ≠ 16 → n ≠ 0 → Passed (.divr f) s x y) ∧
    (Runs (.divr f) s x → x.c.mstack.length ≠ 16 → n = 0 → Arrives x (branchTo x.c f.off.toInt) →
      Transfers (.divr f) s x y (branchTo x.c f.off.toInt)) ∧
    (Goes (.divr f) s x → x.c.mstack.length = 16 → FaultsWith (.divr f) s x { code := .maskStackOverflow })) ∧
  (∀ (f : BFields) (s : State) (x : Ctx),
    (Goes (.flip f) s x → x.c.mstack = [] → FaultsWith (.flip f) s x { code := .maskStackEmpty }) ∧
    ∀ top rest, x.c.mstack = top :: rest →
      let n := those fun th => top.getLsbD th && !x.c.mask.getLsbD th && holds x.c f th
      let y : Crew := { x.c with mask := n, wake := { mask := x.act, ic := x.c.ic, body := .mask x.c.mask } :: x.c.wake }
      (Runs (.flip f) s x → n ≠ 0 → Passed (.flip f) s x y) ∧
      (Runs (.flip f) s x → n = 0 → Arrives x (branchTo x.c f.off.toInt) →
        Transfers (.flip f) s x y (branchTo x.c f.off.toInt))) ∧
  ∀ (f : SFields) (s : State) (x : Ctx),
    (Goes (.merge f) s x → x.c.mstack = [] → FaultsWith (.merge f) s x { code := .maskStackEmpty }) ∧
    ∀ top rest, x.c.mstack = top :: rest → Runs (.merge f) s x →
      Passed (.merge f) s x { x.c with
        mask := top, mstack := rest, wake := { mask := x.act, ic := x.c.ic, body := .mask x.c.mask } :: x.c.wake }

/-- NOP and the fences that discard nothing have no effect but the count (R222, R334); an acquiring fence of die scope or
wider discards its core's non-coherent lines and nothing else (R199, R222). -/
def Sys2Proof.Claims.QuietWords : Prop :=
  (∀ (i : Instr) (s : State) (x : Ctx), quiet i = true → Runs i s x → Passed i s x x.c) ∧
  ∀ (sel : BitVec 3) (f : SFields) (s : State) (x : Ctx), 3 ≤ sel.toNat →
    ∀ i ∈ [Instr.fenceAcq sel f, .fence sel f], Runs i s x →
      ∃ t c, exec i s = .next t ∧ Counted x t c ∧ KeptAs i x x.c c ∧ WakeIs i x x.c c ∧ Unwritten x.c c ∧ SameOutside x s t ∧
        (x.coreNo < s.cores.length → (t.core x.coreNo).ncl1 = []) ∧ ∀ n, n ≠ x.coreNo → t.core n = s.core n

/-- ARRIVE (R335): reached by a transfer it changes nothing; reached in order it records CF and sets it to FALL. -/
def Sys2Proof.Claims.Arrive : Prop :=
  ∀ (f : SFields) (s : State) (x : Ctx), Runs (.arrive f) s x →
    (x.c.xfer = true → Passed (.arrive f) s x x.c) ∧
    (x.c.xfer = false → Passed (.arrive f) s x { x.c with
      cf := 0x80000000, wake := { mask := x.act, ic := x.c.ic, body := .cf x.c.cf } :: x.c.wake })

/-- BKPT (R334): with the debug interface attached to its region, its selector enabled and no RESUME just past it, the crew
is HALTED with reason BREAKPOINT at the word, uncounted; otherwise it is a NOP. -/
def Sys2Proof.Claims.Breakpoint : Prop :=
  ∀ (f : SFields) (s : State) (x : Ctx),
    let stops := s.attached x.w && s.dbg.breaks.getLsbD f.imm.toNat && !x.c.bkptOnce
    (Runs (.bkpt f) s x → stops = false → Passed (.bkpt f) s x x.c) ∧
    (Goes (.bkpt f) s x → stops = true → ∃ t c, exec (.bkpt f) s = .next t ∧ t.crew? x.c.ref = some c ∧ c.st = .halted ∧
      c.reason = .breakpoint ∧ c.pc = x.c.pc ∧ c.ic = x.c.ic ∧ c.bkptOnce = true ∧ SameOutside x s t)

/-- EXIT (R333): with MASK empty nothing happens; the threads of MASK exit, leave every entry of the mask stack, and MASK is
empty; when the last threads exit the crew is EXITED, counted, as a boundary; it waits in SCORE for pending writes. -/
def Obligations.Exit : Prop :=
  ∀ (f : SFields) (s : State) (x : Ctx), Runs (.exit f) s x →
    (x.c.mask = 0 → Passed (.exit f) s x x.c) ∧
    (x.c.mask ≠ 0 → x.c.exited ||| x.c.mask ≠ 0xFFFFFFFF → Passed (.exit f) s x { x.c with
      exited := x.c.exited ||| x.c.mask, mask := 0, mstack := x.c.mstack.map fun m => m &&& ~~~x.c.mask }) ∧
    (x.c.mask ≠ 0 → x.c.exited ||| x.c.mask = 0xFFFFFFFF → x.c.pend = [] → ∃ t c, exec (.exit f) s = .next t ∧
      t.crew? x.c.ref = some c ∧ c.st = .exited ∧ c.ic = x.c.ic + 1 ∧ c.commit = x.c.ic + 1 ∧ c.wake = [] ∧ c.mask = 0 ∧
      c.exited = 0xFFFFFFFF ∧ SameOutside x s t) ∧
    (x.c.mask ≠ 0 → x.c.exited ||| x.c.mask = 0xFFFFFFFF → x.c.pend ≠ [] → ∃ t c, exec (.exit f) s = .next t ∧
      t.crew? x.c.ref = some c ∧ c.st = .score ∧ c.pc = x.c.pc ∧ c.ic = x.c.ic ∧ Unwritten x.c c)

/-- COMMIT (R342): the commit count rises to the operand, at most to IC, and the records below it are freed; it never
falls. With no active thread, or from zero, nothing changes. Its inverse is empty: a walk passes it without effect. -/
def Sys2Proof.Claims.Commit : Prop :=
  (∀ (f : SFields) (x : Ctx), (∀ r ∈ x.c.wake, r.ic ≠ x.c.ic - 1) → undoOf (.commit f) = .empty ∧ x.undo (.commit f) = .ok x) ∧
  ∀ (f : SFields) (s : State) (x : Ctx), Runs (.commit f) s x →
    let n := if f.a = 127 then x.c.ic else if x.leaderPair f.a < x.c.ic then x.leaderPair f.a else x.c.ic
    ∃ t c, exec (.commit f) s = .next t ∧ Counted x t c ∧ c.rest = x.c.rest ∧ Unwritten x.c c ∧ SameMachine x s t ∧
      (x.act = 0 ∨ vecKind f.a = .zero ∨ n ≤ x.c.commit → c.commit = x.c.commit ∧ c.wake = x.c.wake) ∧
      (x.act ≠ 0 → vecKind f.a ≠ .zero → x.c.commit < n → c.commit = n ∧ c.commitAt = x.c.pc ∧
        c.wake = x.c.wake.filter fun r => n ≤ r.ic)

/-- REWIND (R323, R343, R344): to an earlier count not below the commit count it starts the walk, with the latches lost;
to the present count, or with no active thread, it is passed over uncounted; past IC it raises CONTROL_INVALID, below the
commit count REWIND_PAST_COMMIT with both as DETAIL. -/
def Sys2Proof.Claims.Rewind : Prop :=
  ∀ (f : SFields) (s : State) (x : Ctx),
    let n := if vecKind f.a = .zero then 0 else x.leaderPair f.a
    (Runs (.rewind f) s x → x.act ≠ 0 → x.c.commit ≤ n → n < x.c.ic → x.c.pend = [] → ∃ t c k, exec (.rewind f) s = .next t ∧
      t.crew? x.c.ref = some c ∧ c.walk = some k ∧ k.target = n ∧ k.why = .rewind ∧ c.pc = x.c.pc ∧ c.ic = x.c.ic ∧
      (∀ l ∈ c.l, l.valid = false) ∧ SameRegs x.c c [] ∧ SameScalars x.c c ∧ c.wake = x.c.wake ∧ SameOutside x s t) ∧
    (Runs (.rewind f) s x → (x.act = 0 ∨ (x.c.commit ≤ n ∧ n = x.c.ic)) → ∃ t c, exec (.rewind f) s = .next t ∧
      t.crew? x.c.ref = some c ∧ c.walk = none ∧ c.pc = x.c.after ∧ c.ic = x.c.ic ∧ Unwritten x.c c ∧ c.wake = x.c.wake ∧
      SameOutside x s t) ∧
    (Goes (.rewind f) s x → x.act ≠ 0 → x.c.ic < n →
      FaultsWith (.rewind f) s x { code := .controlInvalid, field := .a }) ∧
    (Goes (.rewind f) s x → x.act ≠ 0 → n ≤ x.c.ic → n < x.c.commit →
      FaultsWith (.rewind f) s x
        { code := .rewindPastCommit, detail := x.c.commit.toNat + x.c.commitAt.toNat * 2 ^ 64 })

/-- The prefix word (R61) holds its fields for the word after it, and the two are one instruction: the place and the count
stand, nothing else changes. That the prefix is a half-step of its own is the model's (log 3). -/
def Sys2Proof.Claims.Prefix : Prop :=
  ∀ (f : XFields) (s : State) (x : Ctx), Goes (.pfx f) s x → ∃ t c, exec (.pfx f) s = .next t ∧
    t.crew? x.c.ref = some c ∧ c.pfx = some f ∧ c.pc = x.c.pc ∧ c.ic = x.c.ic ∧ { c with pfx := x.c.pfx, clock := x.c.clock } = x.c ∧
    SameMachine x s t

/-! Exceptions -/

/-- A word that fails steps 1 to 4 of R72 raises the first fault of them, in the order of R72, before anything else of the
word (R19, R50, R64, R70, R72). -/
def Sys2Proof.Claims.FirstFaults : Prop :=
  ∀ (i : Instr) (s : State) (x : Ctx) (f : Flt), view i ≠ .event → Judged i s x → firstFault i x.c x.w = some f →
    FaultsWith i s x f

/-- Step 1 of R72 (R50): a word that breaks the structure of its packet raises ILLEGAL_PACKET naming C or the major, whatever
else is wrong with it. -/
def Sys2Proof.Claims.PacketFaults : Prop :=
  ∀ (w : Word) (i : Instr) (s : State) (x : Ctx) (e : Field), decodeWord w = .ok i → Judged i s x →
    packetBreaks w i x.c = some e → FaultsWith i s x { code := .illegalPacket, field := e }

/-- Steps 2 to 4 of R72 for the two-operand integer words of the vector side, in their packet and with no prefix (R22, R55,
R64, R113): a forbidden F raises ILLEGAL_INSTRUCTION naming F, then a code point that Table 6 does not accept raises
ILLEGAL_OPERAND naming the first of d, a and b, then a v register at or past the allocation raises REG_UNALLOCATED. -/
def Sys2Proof.Claims.OperandFaults : Prop :=
  ∀ e ∈ binary, ∀ (f : GFields) (s : State) (x : Ctx), f.uni = false → f.c = false → Judged (e.1 f) s x → x.c.pfx = none →
    x.c.pc.toNat % 4 = 0 →
    let update : Prop := f.b = 127
    let reg (n : BitVec 7) : Prop := n.toNat < 104
    let source (n : BitVec 7) : Prop := n.toNat < 122
    let fresh : Prop := f.f = true ∧ (update ∨ ¬ reg f.d)
    let badD : Prop := if update then ¬ reg f.d else 121 ≤ f.d.toNat
    let badB : Prop := ¬ update ∧ ¬ source f.b
    let past (n : BitVec 7) : Prop := n.toNat < 96 ∧ x.c.v.length ≤ n.toNat
    (fresh → FaultsWith (e.1 f) s x { code := .illegalInstruction, field := .fresh }) ∧
    (¬ fresh → badD → FaultsWith (e.1 f) s x { code := .illegalOperand, field := .d }) ∧
    (¬ fresh → ¬ badD → ¬ source f.a → FaultsWith (e.1 f) s x { code := .illegalOperand, field := .a }) ∧
    (¬ fresh → ¬ badD → source f.a → badB → FaultsWith (e.1 f) s x { code := .illegalOperand, field := .b }) ∧
    (¬ fresh → ¬ badD → source f.a → ¬ badB → past f.d ∨ past f.a ∨ (¬ update ∧ past f.b) →
      FaultsWith (e.1 f) s x { code := .regUnallocated })

/-- Step 2 of R72 with a prefix (R38, R62): of the prefix's fields, tested with those of the word in ascending code, patterns
come before the modifiers, the guard and the reserved bits. -/
def Sys2Proof.Claims.PrefixFaults : Prop :=
  ∀ e ∈ binary, ∀ (f : GFields) (p : XFields) (s : State) (x : Ctx), f.uni = false → f.c = false → f.f = false →
    Judged (e.1 f) s x → x.c.pfx = some p → x.c.pc.toNat % 4 = 0 → f.b ≠ 127 →
    let mirror (n : BitVec 7) : Prop := 96 ≤ n.toNat ∧ (n.toNat % 32 = 0 ∨ 5 < n.toNat % 32)
    (mirror p.patA → FaultsWith (e.1 f) s x { code := .illegalInstruction, field := .patA }) ∧
    (p.patA = 0 → mirror p.patB → FaultsWith (e.1 f) s x { code := .illegalInstruction, field := .patB }) ∧
    (p.patA = 0 → p.patB = 0 → p.mods ≠ 0 → FaultsWith (e.1 f) s x { code := .illegalInstruction, field := .mods }) ∧
    (p.patA = 0 → p.patB = 0 → p.mods = 0 → p.guard = 15 →
      FaultsWith (e.1 f) s x { code := .illegalInstruction, field := .guard }) ∧
    (p.patA = 0 → p.patB = 0 → p.mods = 0 → p.guard = 7 → p.res ≠ 0 →
      FaultsWith (e.1 f) s x { code := .illegalInstruction, field := .res })

/-- The end of step 4 of R72 (R32): a matrix word that passes the steps before and names a tile or a slot at or past those its
launch declares raises MATRIX_UNALLOCATED. -/
def Sys2Proof.Claims.MatrixFaults : Prop :=
  ∀ (i : Instr) (s : State) (x : Ctx), Judged i s x → encodingFault i x.c = none →
    (∀ n ∈ (view i).mainRegs, n < x.c.v.length) →
    ((∃ n ∈ (matrixUses i).1, x.w.acc ≤ n) ∨ ∃ n ∈ (matrixUses i).2, x.w.wsl ≤ n) →
    FaultsWith i s x { code := .matrixUnallocated }

/-- A word that decodes to no assigned encoding raises, prefixed or not, ILLEGAL_INSTRUCTION naming the field that the
decoder could not match, after the faults of its packet: a misaligned address, or C=1 in slot 2 (R47, R50, R70, R72). -/
def Sys2Proof.Claims.UnassignedEncodings : Prop :=
  ∀ (w : Word) (e : Field) (s : State) (x : Ctx), decodeWord w = .error e → s.ctx = some x → x.c.expired = none →
    FaultsWith (.illegalEncoding w) s x
      (if x.c.pc.toNat % 4 ≠ 0 then { code := .illegalPacket, field := .major }
        else if inSlot2 x.c && w.getLsbD 0 then { code := .illegalPacket, field := .chain }
        else { code := .illegalInstruction, field := e })

/-- The privileged words raise PRIVILEGED in a workgroup whose region is no system region (R302), as the first of the
instruction's own checks: after the faults of steps 1 to 4 of R72 and after its mailboxes, of which one that is not in the
state R30 requires raises MAILBOX_STALL, or blocks a crew that the debug interface is attached to (R72, R273, R277). -/
def Sys2Proof.Claims.Privilege : Prop :=
  ∀ (i : Instr) (s : State) (x : Ctx),
    ((∃ f, i = .rft f) ∨ (∃ f, i = .halt f) ∨ (∃ f, i = .resume f) ∨ (∃ f, i = .mfsr f) ∨ (∃ f, i = .mtsr f) ∨
      (∃ f, i = .tlbiPage f) ∨ (∃ f, i = .tlbiSize f) ∨ (∃ f, i = .tlbiRegion f) ∨ ∃ f, i = .tlbiAll f) →
    s.ctx = some x → x.c.expired = none → firstFault i x.c x.w = none → s.systemWg x.w = false → x.c.runon = none →
    (∀ n ∈ (view i).vecRegs, n ∉ x.c.pendingRegs) → (∀ r ∈ x.c.replays, ¬ (r.lost = true ∧ r.home = x.c.ic)) →
    x.c.failing (readRegs i) = [] → lostLatch i x.c = none →
    (x.queuesReady i → FaultsWith i s x { code := .privileged }) ∧
    (x.act ≠ 0 → mailboxStalls x.c (view i) = true →
      (s.attached x.w = false → FaultsWith i s x { code := .mailboxStall }) ∧
      (s.attached x.w = true → x.c.halting = .none → x.c.steps = none → Blocks i s x .mailbox))

/-- TAKING AN EXCEPTION in a handler (R303, R314): a fault that is not replayable, of a crew of a system region with a
vector and not in a trap, enters the handler: PC the vector, TPC the place of the instruction, TCAUSE its code and field,
TADDR its address, INTRAP 1; the count stands and becomes the commit count, the wake is emptied, the latches are lost. -/
def Sys2Proof.Claims.ExceptionEntry : Prop :=
  ∀ (s : State) (c : Crew) (w : Wg) (f : Flt), s.crew? c.ref = some c → s.wg? c.wg = some w →
    (∀ k ∈ s.wgs, k.uid = c.wg → k.isShadow = false) → c.runon = none → c.halting = .none → (f.code = .pageFault ∨ f.code = .pagePermission → False) → f.code ≠ .trap →
    s.systemWg w = true → c.tvec ≠ 0 → c.intrap = false → ∃ d, (s.raiseFault c f).crew? c.ref = some d ∧
      d.st = .ready ∧ d.pc = c.tvec ∧ d.tpc = c.pc ∧ d.tcause = BitVec.ofNat 32 (f.code.num * 2 ^ 16 + f.field.num * 2 ^ 8) ∧
      d.taddr = BitVec.ofNat 64 f.addr ∧ d.intrap = true ∧ d.ic = c.ic ∧ d.commit = c.ic ∧ d.commitAt = c.pc ∧ d.wake = [] ∧
      (∀ l ∈ d.l, l.valid = false) ∧ d.s = c.s ∧ d.p = c.p ∧ d.sp = c.sp ∧ d.mask = c.mask ∧ d.mstack = c.mstack ∧
      d.fmode = c.fmode ∧ d.tvec = c.tvec ∧ d.tgt = c.tgt

/-- TAKING AN EXCEPTION without a handler (R303, R308, R349): the crew is HALTED with reason FAULT at the instruction, and
its record stands in the next slot of its region's fault queue. -/
def Sys2Proof.Claims.FaultRecord : Prop :=
  ∀ (s : State) (c : Crew) (w : Wg) (f : Flt) (r : Region), s.crew? c.ref = some c → s.wg? c.wg = some w →
    (∀ k ∈ s.wgs, k.uid = c.wg → k.isShadow = false) → (∀ k ∈ s.crews, k.ref = c.ref → k.runon = none) → c.runon = none → (f.code = .pageFault ∨ f.code = .pagePermission → False) → f.code ≠ .trap →
    ¬ (s.systemWg w = true ∧ c.tvec ≠ 0 ∧ c.intrap = false) → s.regionOf w = some r → s.queueFull r = false →
    f.access < 4 → c.idx < 32 →
    let t := s.raiseFault c f
    (∃ d, t.crew? c.ref = some d ∧ d.st = .halted ∧ d.reason = .fault ∧ d.pc = c.pc ∧ d.ic = c.ic ∧ d.commit = c.ic ∧
      d.wake = [] ∧ d.intrap = c.intrap) ∧
    RecordAt t.mem r.slotAddr w c f c.pc.toNat c.ic.toNat (min r.lost 255) ∧
    ∃ q, t.region? w.region = some q ∧ q.put = r.put + 1 ∧ q.lost = 0

/-- A replayable fault (R314, R350) parks the crew at the instruction with a record, whatever its vector; the count, the
registers and the commit count stand. -/
def Sys2Proof.Claims.ReplayableFaults : Prop :=
  ∀ (s : State) (c : Crew) (w : Wg) (f : Flt) (r : Region), s.crew? c.ref = some c → s.wg? c.wg = some w →
    (∀ k ∈ s.wgs, k.uid = c.wg → k.isShadow = false) → (∀ k ∈ s.crews, k.ref = c.ref → k.runon = none) → c.runon = none → c.halting = .none → c.steps = none →
    (f.code = .pageFault ∨ f.code = .pagePermission) → s.regionOf w = some r → s.queueFull r = false →
    f.access < 4 → c.idx < 32 →
    let t := s.raiseFault c f
    (∃ d, t.crew? c.ref = some d ∧ d.st = .parked ∧ d.pc = c.pc ∧ d.ic = c.ic ∧ d.commit = c.commit ∧ d.wake = c.wake ∧
      d.v = c.v ∧ d.o = c.o ∧ d.s = c.s) ∧
    RecordAt t.mem r.slotAddr w c f c.pc.toNat c.ic.toNat (min r.lost 255)

/-- TRAP (R303): counted, it enters the handler of a system crew with TPC past it and imm5 in TCAUSE, or halts the crew past
it with reason TRAP and leaves a record: the code, the address of the TRAP, the count before it, imm5 as DETAIL. -/
def Sys2Proof.Claims.Trap : Prop :=
  ∀ (f : SFields) (s : State) (x : Ctx), Runs (.trap f) s x →
    (∀ k ∈ s.wgs, k.uid = x.w.uid → k.isShadow = false) → (∀ k ∈ s.crews, k.ref = x.c.ref → k.runon = none) →
    let code : Code := .trap
    ∃ t c, exec (.trap f) s = .next t ∧ t.crew? x.c.ref = some c ∧ c.ic = x.c.ic + 1 ∧ c.commit = x.c.ic + 1 ∧ c.wake = [] ∧
      (s.systemWg x.w = true ∧ x.c.tvec ≠ 0 ∧ x.c.intrap = false → c.st = .ready ∧ c.pc = x.c.tvec ∧ c.tpc = x.c.after ∧
        c.intrap = true ∧ c.tcause = BitVec.ofNat 32 (code.num * 2 ^ 16 + f.imm.toNat)) ∧
      (¬ (s.systemWg x.w = true ∧ x.c.tvec ≠ 0 ∧ x.c.intrap = false) → c.st = .halted ∧ c.reason = .trap ∧ c.pc = x.c.after ∧
        ∀ r, s.regionOf x.w = some r → s.queueFull r = false → x.c.idx < 32 →
          RecordAt t.mem r.slotAddr x.w x.c { code := code, detail := f.imm.toNat } x.c.pc.toNat x.c.ic.toNat (min r.lost 255))

/-- RFT (R304): in a trap, the PC becomes TPC and INTRAP 0, as a boundary, and nothing else changes; outside one it raises
TRAP_STATE; and a fetch at an address that is no multiple of 4, as TPC may be, raises ILLEGAL_PACKET. -/
def Obligations.ReturnFromTrap : Prop :=
  (∀ (f : SFields) (s : State) (x : Ctx),
    (Runs (.rft f) s x → x.c.intrap = true → ∃ t c, exec (.rft f) s = .next t ∧ CountedTo x t c x.c.tpc ∧ c.intrap = false ∧
      c.commit = x.c.ic + 1 ∧ c.wake = [] ∧ KeptAs (.rft f) x { x.c with intrap := false } c ∧ Unwritten x.c c ∧
      SameMachine x s t) ∧
    (Goes (.rft f) s x → x.c.intrap = false → FaultsWith (.rft f) s x { code := .trapState })) ∧
  ∀ (s : State) (w : Wg) (a : DWord), a.toNat % 4 ≠ 0 →
    s.fetchWord w a = (s, .error { code := .illegalPacket, field := .major })

/-! System words -/

/-- HALT 0 and RESUME of another crew (R306, R308, R309), and HALT 2 and 3, after which the target's workgroup is gone. -/
def Sys2Proof.Claims.HaltAndResume : Prop :=
  (∀ (f : SFields) (s : State) (x : Ctx) (d : Crew) (v : Wg), Runs (.halt f) s x → x.target = .ok (d, v) →
    (f.imm = 0 → d.ref ≠ x.c.ref → OnlyCrew s d → ∃ t c e, exec (.halt f) s = .next t ∧ Counted x t c ∧
      Kept (.halt f) x c ∧ Unwritten x.c c ∧ t.crew? d.ref = some e ∧ HaltedAs .halt d e ∧
      ∀ r, r ≠ x.c.ref → r ≠ d.ref → t.crew? r = s.crew? r) ∧
    (f.imm = 1 → v.uid ≠ x.w.uid → (∀ k ∈ s.crews, k.wg = v.uid → OnlyCrew s k) → ∃ t c, exec (.halt f) s = .next t ∧
      Counted x t c ∧ Kept (.halt f) x c ∧ Unwritten x.c c ∧
      (∀ k ∈ s.crews, k.wg = v.uid → ∃ e, t.crew? k.ref = some e ∧ HaltedAs .halt k e) ∧
      ∀ r, r ≠ x.c.ref → r.wg ≠ v.uid → t.crew? r = s.crew? r) ∧
    (f.imm = 2 ∨ f.imm = 3 → ∃ t, exec (.halt f) s = .next t ∧ t.wg? v.uid = none)) ∧
  ∀ (f : SFields) (s : State) (x : Ctx) (d : Crew) (v : Wg), Runs (.resume f) s x → x.target = .ok (d, v) →
    d.ref ≠ x.c.ref → OnlyCrew s d → ∃ t c e, exec (.resume f) s = .next t ∧ Counted x t c ∧ Kept (.resume f) x c ∧
      Unwritten x.c c ∧ t.crew? d.ref = some e ∧ ResumedAs d e ∧ ∀ r, r ≠ x.c.ref → r ≠ d.ref → t.crew? r = s.crew? r

/-- The target checks (R306): no crew in the slot raises TARGET_ABSENT, a crew outside the subtree of the region
TARGET_DENIED. -/
def Sys2Proof.Claims.TargetChecks : Prop :=
  ∀ (i : Instr) (s : State) (x : Ctx), ((∃ f, i = .halt f) ∨ ∃ f, i = .resume f) → Goes i s x →
    (x.s.target x.c.tgt = none → FaultsWith i s x { code := .targetAbsent }) ∧
    ∀ d v, x.s.target x.c.tgt = some (d, v) → x.s.wgUnder v x.w.region = false →
      FaultsWith i s x { code := .targetDenied }

/-- MFSR (R305): the value of the numbered register, of the crew itself or of its target, to every active thread. -/
def Sys2Proof.Claims.SystemRegisterReads : Prop :=
  ∀ (f : SFields) (s : State) (x : Ctx) (q : DWord), Runs (.mfsr f) s x →
    ((f.imm.toNat, q) ∈ ownRegs x.c ∨ (∃ d v, x.target = .ok (d, v) ∧ (f.imm.toNat, q) ∈ targetRegs d v) ∨ x.act = 0) →
    let wide := f.imm.toNat ∈ [0, 1, 3, 9, 10, 11]
    ∃ t c, exec (.mfsr f) s = .next t ∧ Counted x t c ∧
      (wide → LandsPair x c f.a (fun _ => q) ∧ SameRegs x.c c (destRegs f.a 2)) ∧
      (¬ wide → Lands x t c f.a (fun _ => q.setWidth 32) ∧ SameRegs x.c c (destRegs f.a 1)) ∧
      c.l = x.c.l ∧ SameModes x.c c ∧ SameScalars x.c c ∧ SameMboxes (.mfsr f) x.c c ∧ Kept (.mfsr f) x c ∧ SameMachine x s t

/-- MTSR (R305): TVEC, TPC and TGT of the crew itself; TPCX moves the PC of a HALTED target, whose commit count becomes its
IC; a vector that is no packet address and a reserved bit of TGT raise CONTROL_INVALID, a target that is not HALTED
TARGET_STATE. -/
def Sys2Proof.Claims.SystemRegisterWrites : Prop :=
  ∀ (f : SFields) (s : State) (x : Ctx) (th : Nat), lowest x.act = some th →
    let w := lane (x.rawSrc f.a 0) th
    let q := pairOf w (lane (x.rawSrc (f.a + 1) 0) th)
    let own (y : Crew) : Prop := ∃ t c, exec (.mtsr f) s = .next t ∧ Counted x t c ∧ KeptAs (.mtsr f) x y c ∧
      SameRegs x.c c [] ∧ SameScalars x.c c ∧ SameModes x.c c ∧ c.l = x.c.l ∧ SameMboxes (.mtsr f) x.c c ∧ SameMachine x s t
    let bad (e : Flt) : Prop := FaultsWith (.mtsr f) s x e
    (f.imm = 0 → (Runs (.mtsr f) s x → q.toNat % 12 = 0 → own { x.c with tvec := q }) ∧
      (Goes (.mtsr f) s x → q.toNat % 12 ≠ 0 → bad { code := .controlInvalid, field := .a })) ∧
    (f.imm = 1 → Runs (.mtsr f) s x → own { x.c with tpc := q }) ∧
    (f.imm = 4 → (Runs (.mtsr f) s x → w.toNat < 2 ^ 14 → own { x.c with tgt := w }) ∧
      (Goes (.mtsr f) s x → 2 ^ 14 ≤ w.toNat → bad { code := .controlInvalid, field := .a })) ∧
    (f.imm = 9 → ∀ d v, x.target = .ok (d, v) →
      (Runs (.mtsr f) s x → d.ref ≠ x.c.ref → OnlyCrew s d → d.st = .halted → ∃ t c e, exec (.mtsr f) s = .next t ∧
        Counted x t c ∧ t.crew? d.ref = some e ∧ e.pc = q ∧ e.ic = d.ic ∧ e.commit = d.ic ∧ e.wake = [] ∧ e.st = .halted ∧
        e.walk = none ∧ e.v = d.v ∧ e.s = d.s) ∧
      (Goes (.mtsr f) s x → d.st ≠ .halted → bad { code := .targetState }))

/-- The TLBI words (R313): with a leader, the cached translations and table pointers of the named region's address space that the word
covers are gone, all others stay; TLBI.ALL removes all; a region outside the subtree raises TARGET_DENIED. No byte of memory and
no workgroup changes, and no other crew where none runs on. -/
def Obligations.Invalidation : Prop :=
  let outside (x : Ctx) (s t : State) : Prop := (∀ a, memByte t.mem a = memByte s.mem a) ∧ (∀ u, t.wg? u = s.wg? u) ∧
    ((∀ k ∈ s.crews, k.runon = none) → ∀ r, r ≠ x.c.ref → t.crew? r = s.crew? r)
  (∀ e ∈ invalidations, ∀ (f : SFields) (s : State) (x : Ctx) (th : Nat) (r : Region), lowest x.act = some th →
    s.region? ((x.leader f.b).toNat * 512) = some r →
    let kept (l : List Trans) : List Trans := l.filter fun q => !(q.root == r.eff.ptroot && e.2 f (x.leaderPair f.a).toNat q)
    (Runs (e.1 f) s x → s.inSubtree r.rcb x.w.region = true → ∃ t c, exec (e.1 f) s = .next t ∧ Counted x t c ∧
      t.tlb = kept s.tlb ∧ t.live = kept s.live ∧ t.walker = kept s.walker ∧
      Kept (e.1 f) x c ∧ SameRegs x.c c [] ∧ SameScalars x.c c ∧ SameModes x.c c ∧ c.l = x.c.l ∧ outside x s t) ∧
    (Goes (e.1 f) s x → s.inSubtree r.rcb x.w.region = false → FaultsWith (e.1 f) s x { code := .targetDenied })) ∧
  ∀ (f : SFields) (s : State) (x : Ctx), Runs (.tlbiAll f) s x → ∃ t c, exec (.tlbiAll f) s = .next t ∧ Counted x t c ∧
    t.tlb = [] ∧ t.live = [] ∧ t.walker = [] ∧ Kept (.tlbiAll f) x c ∧ Unwritten x.c c ∧ outside x s t

/-! Waiting -/

/-- GIVE and TAKE (R278, R279, R280): the top blocks go, or zero blocks come, with every other register kept; GIVE of more
than is held raises REG_UNALLOCATED, TAKE past a limit REG_CLAIM_LIMIT; TAKE without room waits, and TAKE_GRANT ends that. -/
def Sys2Proof.Claims.RegisterClaims : Prop :=
  (∀ (f : SFields) (s : State) (x : Ctx), let n := f.imm.toNat
    (Runs (.give f) s x → n ≤ x.c.v.length / 8 → x.c.pend = [] → ∃ t c, exec (.give f) s = .next t ∧ Counted x t c ∧
      c.v = x.c.v.take (8 * (x.c.v.length / 8 - n)) ∧ c.o = x.c.o ∧ SameScalars x.c c ∧ SameModes x.c c ∧ c.l = x.c.l ∧
      c.m = x.c.m ∧ Kept (.give f) x c ∧ SameMachine x s t) ∧
    (Goes (.give f) s x → x.c.v.length / 8 < n → FaultsWith (.give f) s x { code := .regUnallocated }) ∧
    (Runs (.take f) s x → x.c.v.length / 8 + n ≤ 12 → x.c.v.length / 8 + n ≤ s.regLimit x.w →
      s.takeRoom x.w x.c.ref s.nextId n = true → ∃ t c, exec (.take f) s = .next t ∧ Counted x t c ∧
      c.v = x.c.v ++ List.replicate (8 * n) ⟨List.replicate 32 0, .U⟩ ∧ c.o = x.c.o ∧ SameScalars x.c c ∧ SameModes x.c c ∧
      c.l = x.c.l ∧ c.m = x.c.m ∧ Kept (.take f) x c ∧ SameMachine x s t) ∧
    (Runs (.take f) s x → x.c.v.length / 8 + n ≤ 12 → x.c.v.length / 8 + n ≤ s.regLimit x.w →
      s.takeRoom x.w x.c.ref s.nextId n = false → Blocks (.take f) s x (.take n)) ∧
    (Goes (.take f) s x → (12 < x.c.v.length / 8 + n ∨ s.regLimit x.w < x.c.v.length / 8 + n) → ∃ d,
      FaultsWith (.take f) s x { code := .regClaimLimit, detail := d })) ∧
  ∀ (r : CrewRef) (s : State) (c : Crew) (w : Wg) (n : Nat), s.residentCrew r = some (c, w) → c.st = .blocked →
    c.wait = .take n → s.takeRoom w c.ref c.since n = true → c.halting = .none → c.steps = none → c.replays = [] →
    c.ref = r → ∃ t d, exec (.takeGrant r) s = .next t ∧ t.crew? r = some d ∧ d.st = .ready ∧ d.ic = c.ic + 1 ∧
      d.pc = c.after ∧ d.v = c.v ++ List.replicate (8 * n) ⟨List.replicate 32 0, .U⟩ ∧ d.commit = c.ic + 1 ∧ d.wake = []

/-- BARR (R283): a valid arrival of the whole active set counts one arrival and the announced bytes; the arrival that
completes the phase, with every byte landed, begins the next with cleared counts. -/
def Sys2Proof.Claims.BarrierArrival : Prop :=
  ∀ (f : SFields) (s : State) (x : Ctx) (r : State × List Acs × Obj), Runs (.barr f) s x → x.act ≠ 0 → x.w.ncrew ≤ 32 →
    (∀ k ∈ s.crews, k.runon = none) → s.dbg.region = none →
    let n := (x.leader (f.b + 1)).toNat
    let off := (x.leader f.a).toNat
    let o := x.w.obj off
    let need := if o.arrexp = 0 then x.w.ncrew else o.arrexp
    (x.readStatus (.barr f)).barCheck .both f.a (2 ^ 27 ≤ n) = .ok r → o.res0 = 0 → o.res1 = 0 → o.arrived < need →
    x.act = x.leader f.b → (o.arrived ≠ 0 → (x.leader f.b).toNat = o.mask) → o.exp + n < 2 ^ 27 →
    ¬ (o.arrived + 1 = need ∧ o.exp + n < o.land) →
    ∃ t c w, exec (.barr f) s = .next t ∧ Counted x t c ∧ Kept (.barr f) x c ∧ SameRegs x.c c [] ∧ SameScalars x.c c ∧
      SameModes x.c c ∧ c.l = x.c.l ∧ t.wg? x.w.uid = some w ∧ (∀ b, memByte t.mem b = memByte s.mem b) ∧
      (∀ b, ¬ (off ≤ b ∧ b < off + 16) → memByte w.scr b = memByte x.w.scr b) ∧
      objFields (w.obj off) =
        if o.arrived + 1 = need ∧ o.land = o.exp + n then (0, o.arrexp, 0, (o.phase + 1) % 2 ^ 20, 0, 0)
        else ((if o.arrived = 0 then (x.leader f.b).toNat else o.mask), o.arrexp, o.arrived + 1, o.phase, o.exp + n, o.land)

/-- BWAIT and BWAIT.S (R285, R286): past a phase in the last 2^19 the wait returns with no other effect on the crew than
that it may run on again; otherwise BWAIT waits, and BWAIT.S runs on, once the crew is not marked against it; BWAIT_RETURN
ends a wait whose phase has passed. Where the arrivals of the phase are complete and its bytes are not, the wait is one for
that phase (log 31). -/
def Sys2Proof.Claims.BarrierWait : Prop :=
  (∀ (f : SFields) (s : State) (x : Ctx) (r : State × List Acs × Obj), ∀ i ∈ [Instr.bwait f, .bwaitS f], Runs i s x →
    x.act ≠ 0 → s.dbg.region = none →
    let k := (x.leader f.b).toNat
    let off := (x.leader f.a).toNat
    let o := x.w.obj off
    let need := if o.arrexp = 0 then x.w.ncrew else o.arrexp
    let d := (o.phase + 2 ^ 20 - k % 2 ^ 20) % 2 ^ 20
    (x.readStatus i).barCheck .load f.a (2 ^ 20 ≤ k) = .ok r → o.res0 = 0 → o.res1 = 0 → o.arrived ≤ need →
    (1 ≤ d ∧ d ≤ 2 ^ 19 → ∃ t c, exec i s = .next t ∧ Counted x t c ∧ KeptAs i x { x.c with norun := false } c ∧
      SameRegs x.c c [] ∧ SameScalars x.c c ∧ SameModes x.c c ∧ c.l = x.c.l ∧ ScratchIs x t (memByte x.w.scr) ∧
      ∀ b, memByte t.mem b = memByte s.mem b) ∧
    (¬ (1 ≤ d ∧ d ≤ 2 ^ 19) → (i = .bwait f ∨ x.c.norun = true) → BlocksNoted i s x (.barrier off k)) ∧
    (¬ (1 ≤ d ∧ d ≤ 2 ^ 19) → i = .bwaitS f → x.c.norun = false → ∃ t c, exec i s = .next t ∧ Counted x t c ∧
      c.runon = some ⟨off, k, x.c.ic, [], [], []⟩ ∧ SameRegs x.c c [] ∧ SameScalars x.c c ∧ c.l = x.c.l)) ∧
  ∀ (r : CrewRef) (s : State) (c : Crew) (w : Wg) (off k : Nat), s.residentCrew r = some (c, w) → c.ref = r →
    c.st = .blocked → c.wait = .barrier off k → c.halting = .none → c.steps = none → c.replays = [] → w.scrFailing = [] →
    s.dbg.region = none →
    let d := ((w.obj off).phase + 2 ^ 20 - k % 2 ^ 20) % 2 ^ 20
    1 ≤ d → d ≤ 2 ^ 19 → ∃ t e v, exec (.bwaitReturn r) s = .next t ∧ t.crew? r = some e ∧ e.st = .ready ∧ e.wait = .none ∧
      e.ic = c.ic + 1 ∧ e.pc = c.after ∧ e.v = c.v ∧ e.s = c.s ∧ e.norun = false ∧
      ((∀ p, s.atHand w c = some p → isBoundary p.i = false) → e.wake = c.wake ∧ e.commit = c.commit) ∧
      t.wg? w.uid = some v ∧ (∀ b, memByte v.scr b = memByte w.scr b) ∧ ∀ b, memByte t.mem b = memByte s.mem b

/-- FETCHW and FETCHW_REPLY (R261, R291): in the mode of R291 FETCHW waits for its record; the reply withdraws the lowest
unplaced index and writes the 16 bytes of its coordinates with FLAG 1, or FLAG 2 where none is left; in another mode
FETCHW raises FETCH_MODE. -/
def Sys2Proof.Claims.WorkFetch : Prop :=
  (∀ (f : SFields) (s : State) (x : Ctx), x.act ≠ 0 →
    (Goes (.fetchw f) s x → x.eff.mode ≠ 1 → FaultsWith (.fetchw f) s x { code := .fetchMode }) ∧
    (Runs (.fetchw f) s x → x.eff.mode = 1 → s.dbg.region = none →
      (∃ l, (x.readStatus (.fetchw f)).fetchwCheck (x.leader f.a).toNat = .ok l) →
      Blocks (.fetchw f) s x (.fetchw (x.leader f.a).toNat))) ∧
  (∀ (f : SFields) (s : State) (x : Ctx), Runs (.fetchw f) s x → x.act = 0 → Passed (.fetchw f) s x x.c) ∧
  ∀ (r : CrewRef) (s : State) (c : Crew) (w : Wg) (n : NodeRun) (off : Nat) (l : List Acs),
    s.residentCrew r = some (c, w) → c.ref = r → c.st = .blocked → c.wait = .fetchw off → s.node? w.launch = some n →
    n.closed = false → c.halting = .none → c.steps = none → c.replays = [] → c.runon = none → s.dbg.region = none →
    (⟨s, { c with st := .ready, wait := .none }, w, c.after, false⟩ : Ctx).fetchwCheck off = .ok l →
    let total := n.desc.dimx * n.desc.dimy * n.desc.dimz
    let rec_ : List Nat := if n.next < total
      then [1, n.next % n.desc.dimx, n.next / n.desc.dimx % n.desc.dimy, n.next / n.desc.dimx / n.desc.dimy] else [2, 0, 0, 0]
    ∃ t d v, exec (.fetchwReply r) s = .next t ∧ t.crew? r = some d ∧ d.st = .ready ∧ d.ic = c.ic + 1 ∧ d.pc = c.after ∧
      d.v = c.v ∧ t.wg? w.uid = some v ∧ (∀ k < 4, memNat v.scr (off + 4 * k) 4 = rec_.getD k 0 % 2 ^ 32) ∧
      (∀ b, ¬ (off ≤ b ∧ b < off + 16) → memByte v.scr b = memByte w.scr b) ∧
      v.withdrawn = w.withdrawn ++ (if n.next < total then [n.next] else []) ∧
      (n.next < total → ∃ m, t.node? w.launch = some m ∧ m.next = n.next + 1)

/-- The deques (R262, R292): DQPUSH adds the pair at the owner's end of the launch's deque on its core, DQPOP takes it from
there, DQSTEAL from the far end of another core's deque that holds one; an empty take gives all ones. -/
def Sys2Proof.Claims.Deques : Prop :=
  ∀ (f : SFields) (s : State) (x : Ctx), x.act ≠ 0 → x.eff.mode = 2 → x.coreNo < s.cores.length →
    let mine := (s.deque x.coreNo x.w.launch).ents
    let got (t : State) (c : Crew) (v : DWord) : Prop := LandsPair x c f.a (fun _ => v) ∧
      SameRegs x.c c (destRegs f.a 2) ∧ SameScalars x.c c ∧ SameModes x.c c ∧ c.l = x.c.l ∧
      ∀ b, memByte t.mem b = memByte s.mem b
    (Runs (.dqpush f) s x → x.leaderPair f.a ≠ BitVec.allOnes 64 → mine.length < 1024 → ∃ t c, exec (.dqpush f) s = .next t ∧
      Counted x t c ∧ Kept (.dqpush f) x c ∧ Unwritten x.c c ∧
      (t.deque x.coreNo x.w.launch).ents.map (·.1) = x.leaderPair f.a :: mine.map (·.1) ∧
      ∀ l, l ≠ x.w.launch → t.deque x.coreNo l = s.deque x.coreNo l) ∧
    (Goes (.dqpush f) s x → x.leaderPair f.a = BitVec.allOnes 64 →
      FaultsWith (.dqpush f) s x { code := .controlInvalid, field := .a }) ∧
    (Goes (.dqpush f) s x → x.leaderPair f.a ≠ BitVec.allOnes 64 → 1024 ≤ mine.length →
      FaultsWith (.dqpush f) s x { code := .dequeFull }) ∧
    (Runs (.dqpop f) s x → ∃ t c, exec (.dqpop f) s = .next t ∧ Counted x t c ∧ Kept (.dqpop f) x c ∧
      got t c ((mine.head?.map (·.1)).getD (BitVec.allOnes 64)) ∧ (t.deque x.coreNo x.w.launch).ents = mine.tail) ∧
    (Runs (.dqsteal f) s x → ∃ t c, exec (.dqsteal f) s = .next t ∧ Counted x t c ∧ Kept (.dqsteal f) x c ∧
      ((∀ k < s.cores.length, k ≠ x.coreNo → (s.deque k x.w.launch).ents = []) → got t c (BitVec.allOnes 64) ∧ t.cores = s.cores) ∧
      ((∃ k < s.cores.length, k ≠ x.coreNo ∧ (s.deque k x.w.launch).ents ≠ []) → ∃ k e, k < s.cores.length ∧ k ≠ x.coreNo ∧
        (s.deque k x.w.launch).ents.getLast? = some e ∧ got t c e.1 ∧
        (t.deque k x.w.launch).ents = (s.deque k x.w.launch).ents.dropLast))

/-- YIELD (R293) waits for 2^imm5 cycles of its core's counter, and YIELD_WAKE counts it when they have passed or an event
of R293 has ended it. -/
def Sys2Proof.Claims.Yield : Prop :=
  (∀ (f : SFields) (s : State) (x : Ctx), Runs (.yield f) s x →
    Blocks (.yield f) s x (.yield ((s.core x.coreNo).cyc.toNat + 2 ^ f.imm.toNat))) ∧
  ∀ (r : CrewRef) (s : State) (c : Crew) (w : Wg) (n : Nat), s.residentCrew r = some (c, w) → c.ref = r → c.st = .blocked →
    c.wait = .yield n → n ≤ (s.core (w.core.getD 0)).cyc.toNat → c.halting = .none → c.steps = none → c.replays = [] →
    ∃ t d, exec (.yieldWake r) s = .next t ∧ t.crew? r = some d ∧ d.st = .ready ∧ d.wait = .none ∧ d.ic = c.ic + 1 ∧
      d.pc = c.after ∧ d.v = c.v ∧ d.s = c.s ∧ d.wake = c.wake ∧ (∀ q, q ≠ r → t.crew? q = s.crew? q) ∧ t.wgs = s.wgs ∧
      t.mem = s.mem

/-- QMAP and QRESET (R269, R270, R275): a valid mapping word installs an empty queue, QRESET empties one whatever the mask,
both as boundaries, with no ring word written; in order, a word that breaks R270 raises CONTROL_INVALID, a queue in use, or
for QMAP one that holds elements, QUEUE_BUSY; a crew running on stalls at both (R195). QUEUE_GRANT lets a waiting crew go on
with its request reserved (R273). -/
def Sys2Proof.Claims.QueueMappings : Prop :=
  (∀ (f : SFields) (s : State) (x : Ctx), f.imm.toNat % 8 < x.w.queues.length →
    let n := f.imm.toNat % 8
    let w := x.leader f.a
    let bad := MappingBreaks w (4096 * x.w.scrgran) (x.w.queues.eraseIdx n)
    let same (t : State) (c : Crew) (q : Queue) : Prop := c.commit = x.c.ic + 1 ∧ c.wake = [] ∧ ∃ v, t.wg? x.w.uid = some v ∧
      { v with queues := x.w.queues } = x.w ∧ v.queues = x.w.queues.set n q
    (Runs (.qmap f) s x → x.act ≠ 0 → ¬ bad → ¬ QueueInUse s x.w.uid n →
      (x.w.queue n).count = 0 → ∃ t c, exec (.qmap f) s = .next t ∧ Counted x t c ∧ Kept (.qmap f) x c ∧ SameRegs x.c c [] ∧
        SameScalars x.c c ∧ SameModes x.c c ∧ c.l = x.c.l ∧
        same t c ⟨w.getLsbD 31, w.toNat / 2 ^ 16 % 2 ^ 13, w.toNat % 2 ^ 13, 0, 0, []⟩) ∧
    (Goes (.qmap f) s x → x.act ≠ 0 → bad → FaultsWith (.qmap f) s x { code := .controlInvalid, field := .a }) ∧
    (Goes (.qmap f) s x → x.act ≠ 0 → ¬ bad → (QueueInUse s x.w.uid n ∨ (x.w.queue n).count ≠ 0) →
      FaultsWith (.qmap f) s x { code := .queueBusy }) ∧
    (Runs (.qreset f) s x → ¬ QueueInUse s x.w.uid n → ∃ t c, exec (.qreset f) s = .next t ∧ Counted x t c ∧
      Kept (.qreset f) x c ∧ Unwritten x.c c ∧ same t c { x.w.queue n with head := 0, count := 0, clocks := [] }) ∧
    (Goes (.qreset f) s x → QueueInUse s x.w.uid n → FaultsWith (.qreset f) s x { code := .queueBusy })) ∧
  (∀ (f : SFields) (s : State) (x : Ctx), ∀ i ∈ [Instr.qmap f, .qreset f], s.ctx = some x → x.c.expired = none →
    firstFault i x.c x.w = none → x.c.runon ≠ none → ∃ t c, exec i s = .next t ∧ t.crew? x.c.ref = some c ∧
      c = { x.c with st := .stalled, wait := .runon } ∧ SameOutside x s t) ∧
  ∀ (r : CrewRef) (s : State) (c : Crew) (w : Wg) (pops pushes : List Nat), s.residentCrew r = some (c, w) → c.ref = r →
    c.st = .blocked → c.wait = .queue pops pushes → grantable s w r c.since pops pushes = true →
    ∃ t d, exec (.queueGrant r) s = .next t ∧ t.crew? r = some d ∧
      d = { c with st := .ready, wait := .none, granted := some (pops, pushes) } ∧ (∀ q, q ≠ r → t.crew? q = s.crew? q) ∧
      t.agenda = s.agenda ∧ t.wgs = s.wgs ∧ t.mem = s.mem

/-- Queues and mailboxes as operands of the two-operand integer words (R28, R30, R272, R273, R277): a pop moves HEAD on and
takes one from COUNT; a word that reads a mailbox empties it; an unmapped queue raises QUEUE_UNMAPPED; a mailbox that is not
in the state R30 requires raises MAILBOX_STALL, or with a debugger attached to the region blocks the crew. -/
def Sys2Proof.Claims.QueueOperands : Prop :=
  ∀ e ∈ binary, ∀ (f : GFields) (s : State) (x : Ctx), f.uni = false → f.b ≠ 127 →
    (∀ n < x.w.queues.length, Runs (e.1 f) s x → x.act ≠ 0 → vecKind f.a = .q → f.a.toNat = 104 + n → vecKind f.b ≠ .q →
      vecKind f.d ≠ .q → ∃ t w, exec (e.1 f) s = .next t ∧ t.wg? x.w.uid = some w ∧
        (0 < (x.w.queue n).depth → (w.queue n).head = ((x.w.queue n).head + 1) % (x.w.queue n).depth) ∧
        (w.queue n).count = (x.w.queue n).count - 1 ∧ (∀ m, m ≠ n → w.queue m = x.w.queue m) ∧
        ∀ b, memByte w.scr b = memByte x.w.scr b) ∧
    (∀ n < 4, Runs (e.1 f) s x → x.act ≠ 0 → f.a.toNat = 116 + n → f.d.toNat ≠ 116 + n → ∃ t c, exec (e.1 f) s = .next t ∧
      Counted x t c ∧ c.mbox n = { x.c.mbox n with full := false }) ∧
    (Checked (e.1 f) s x → (∃ n, (f.d.toNat = 104 + n ∨ f.a.toNat = 104 + n ∨ f.b.toNat = 104 + n) ∧ n < 8 ∧
      (x.w.queue n).valid = false) → FaultsWith (e.1 f) s x { code := .queueUnmapped }) ∧
    (Checked (e.1 f) s x → (∀ n < 8, (x.w.queue n).valid = true) →
      (∃ n < 4, ((f.a.toNat = 116 + n ∨ f.b.toNat = 116 + n) ∧ (x.c.mbox n).full = false) ∨
        (f.d.toNat = 116 + n ∧ f.a.toNat ≠ 116 + n ∧ f.b.toNat ≠ 116 + n ∧ (x.c.mbox n).full = true)) →
      (s.attached x.w = false → FaultsWith (e.1 f) s x { code := .mailboxStall }) ∧
      (s.attached x.w = true → Blocks (e.1 f) s x .mailbox))

/-! Copies and publishing -/

/-- CPY, CPYQ and GATH (R227 to R229, R241): with no leader thread the status word 0x6000_0000 goes to the register and
nothing starts; with the checks passed and a slot free the command enters the lowest one, its status pending, and pF is 0;
with no slot free pF is 1 and nothing starts. -/
def Sys2Proof.Claims.CopyIssue : Prop :=
  ∀ (i : Instr) (kind : CopyKind) (dir : Option Nat) (trans rnd : Nat) (f : SFields) (s : State) (x : Ctx),
    ((∃ sel : BitVec 6, i = .cpy sel f ∧ kind = .cpy ∧ dir = some (sel.toNat / 16) ∧ trans = sel.toNat / 4 % 4 ∧
        rnd = sel.toNat % 4) ∨
      (∃ sel : BitVec 2, i = .cpyq sel f ∧ kind = .cpyq ∧ dir = none ∧ trans = 0 ∧ rnd = sel.toNat) ∨
      ∃ sel : BitVec 2, i = .gath sel f ∧ kind = .gath ∧ dir = some 1 ∧ trans = 0 ∧ rnd = sel.toNat) →
    Runs i s x → x.w.isShadow = false → x.w.sampled = false → ¬ ((view i).namesQM = true ∧ x.act = 0) →
    let reg := f.b.toNat + (if kind == .gath then 1 else 0)
    let frame (t : State) (c : Crew) : Prop := c.s = x.c.s ∧ c.sp = x.c.sp ∧ SameModes x.c c ∧ c.l = x.c.l ∧
      (∀ b, memByte t.mem b = memByte s.mem b) ∧ ScratchIs x t (memByte x.w.scr) ∧ ∀ r, r ≠ x.c.ref → t.crew? r = s.crew? r
    (x.act &&& x.c.pred ([0, 1, 2, 7].getD (f.imm.toNat % 4) 7) = 0 → ∃ t c, exec i s = .next t ∧ Counted x t c ∧
      PredIs x c (f.imm.toNat / 4) false ∧ SameRegs x.c c [reg] ∧ (∀ th < 32, lane (c.vreg reg).vals th =
        if x.act.getLsbD th then 0x60000000 else lane (x.c.vreg reg).vals th) ∧ c.pend = x.c.pend ∧ t.copies = s.copies ∧
      frame t c) ∧
    ∀ k, CopyStarts i kind dir trans rnd f x k →
      (∀ n, s.freeSlot x.coreNo kind = some n → ∃ t c q, exec i s = .next t ∧ Counted x t c ∧
        PredIs x c (f.imm.toNat / 4) false ∧ SameRegs x.c c [] ∧ t.copies = s.copies ++ [q] ∧
        { q with slot := k.slot, clock := k.clock, did := k.did } = k ∧ q.slot = n ∧ q.id = s.nextId ∧
        c.pend = x.c.pend ++ [⟨reg, x.act, none, s.nextId⟩] ∧ frame t c) ∧
      (s.freeSlot x.coreNo kind = none → ∃ t c, exec i s = .next t ∧ Counted x t c ∧ PredIs x c (f.imm.toNat / 4) true ∧
        SameRegs x.c c [] ∧ t.copies = s.copies ∧ c.pend = x.c.pend ∧ frame t c)

/-- COPY_WRITE, CPYQ_ELEMENT_PUSH, COPY_COMPLETE and COPY_END_EARLY (R238 to R244, R349): a unit of destination order lands,
for a scratchpad destination of 8-bit elements the byte that the source gives; an element enters the queue as its newest,
with its 32 values; a finished command leaves its slot with its status word in the register; one that cannot go on leaves
the status word with the code of what stopped it, and a record. -/
def Sys2Proof.Claims.CopyEngine : Prop :=
  ∀ (s : State) (id : Nat) (k : CopyCmd), s.copy? id = some k → k.id = id →
    (∀ w, s.wg? k.wg = some w → Plain s k w →
      (k.kind ≠ .cpyq → (k.src.inside (source k k.landed) = true) → k.dst.scratch = true → k.landed < k.total →
        ∃ t q v, exec (.copyWrite id) s = .next t ∧ t.copy? id = some q ∧ q.landed = k.landed + 1 ∧ t.wg? k.wg = some v ∧
          (∀ b, memByte v.scr b = if b = k.dstAddr k.landed then memByte w.scr (place k k.landed) else memByte w.scr b) ∧
          ∀ b, memByte t.mem b = memByte s.mem b) ∧
      (k.kind = .cpyq → k.landed < k.total → s.firstCpyq k = true → s.cpyqRoom k = true →
        (∀ n < 128, k.landed + n < k.dst.count → k.src.inside (source k (k.landed + n)) = true) →
        ∃ t q v, exec (.cpyqElementPush id) s = .next t ∧ t.copy? id = some q ∧ q.landed = k.landed + 128 ∧
          t.wg? k.wg = some v ∧ (v.queue k.queueNo).count = (w.queue k.queueNo).count + 1 ∧
          ∀ n < 128, memByte v.scr ((w.queue k.queueNo).slotAt (w.queue k.queueNo).count + n) =
            if k.landed + n < k.dst.count then memByte w.scr (place k (k.landed + n)) else 0)) ∧
    (k.kind ≠ .cpyq → k.landed ≠ k.total → s.copyLive k = true → (s.copyAdvance k).2.1.landed ≠ k.landed →
      ∃ t q, exec (.copyWrite id) s = .next t ∧ t.copy? id = some q ∧ q.landed = (s.copyAdvance k).2.1.landed ∧
        k.landed < q.landed ∧ { q with landed := k.landed, kept := k.kept, did := k.did } = k ∧
        (k.dst.scratch = true → k.dst.bits = 8 → k.block.count = false → k.desc = false →
          (∀ c ∈ s.crews, c.runon = none) → ∀ w bs, s.wg? k.wg = some w → (s.copyUnit k k.landed).2 = .ok bs →
          q.landed = k.landed + 1 ∧ ∃ v, t.wg? k.wg = some v ∧ ∀ b,
            memByte v.scr b = if b = k.dstAddr k.landed then bs.getD 0 0 else memByte w.scr b)) ∧
    (k.kind = .cpyq → k.landed ≠ k.total → s.copyLive k = true → s.firstCpyq k = true → s.cpyqRoom k = true →
      (s.cpyqPush k).2.2 = none → ∃ t q, exec (.cpyqElementPush id) s = .next t ∧ t.copy? id = some q ∧
        q.landed = k.landed + 128 ∧
        ∀ w bs, s.wg? k.wg = some w → w.uid = k.wg → (s.copyElement k (128 / k.unit) k.landed).2 = .ok bs →
          k.block.count = false → k.block.dstrec % 8 < w.queues.length → ∃ v, t.wg? k.wg = some v ∧
          let n := k.block.dstrec % 8
          (v.queue n).head = (w.queue n).head ∧ (v.queue n).count = (w.queue n).count + 1 ∧
          (∀ th < 32, lane (v.element n (w.queue n).count) th = BitVec.ofNat 32 (leNat ((bs.drop (4 * th)).take 4))) ∧
          (∀ m, m ≠ n → v.queue m = w.queue m) ∧
          ∀ b, ¬ within ((w.queue n).slotAt (w.queue n).count) 128 b → memByte v.scr b = memByte w.scr b) ∧
    ((∀ n, k.kind ≠ .bulk n) → k.landed = k.total → k.done = none → ∀ w c, s.wg? k.wg = some w → w.core.isSome = true →
      s.crew? ⟨k.wg, k.crew⟩ = some c → ∃ t, exec (.copyComplete id) s = .next t ∧ t.copy? id = none ∧
        (∀ m, c.pend = [⟨k.reg, m, none, id⟩] → k.reg < c.v.length → k.reg < 96 → ∃ d, t.crew? ⟨k.wg, k.crew⟩ = some d ∧
          d.pend = [] ∧ ∀ th < 32, lane (d.vreg k.reg).vals th = if m.getLsbD th
            then BitVec.ofNat 32 ((if k.desc then 2 ^ 27 else 0) + k.landed) else lane (c.vreg k.reg).vals th)) ∧
    ((∀ n, k.kind ≠ .bulk n) → ∀ s' q e, s.copyStop k = some (s', q, e) → ∀ w, s'.wg? k.wg = some w → w.core.isSome = true →
      w.isShadow = false → k.landed ≤ q.landed ∧ (k.landed ≤ k.total → q.landed ≤ k.total) ∧
      ∃ t, exec (.copyEndEarly id) s = .next t ∧ t.copy? id = none ∧
        (∀ c m, s'.crew? ⟨k.wg, k.crew⟩ = some c → c.pend = [⟨k.reg, m, none, id⟩] → k.reg < c.v.length → k.reg < 96 →
          (∀ d ∈ s'.crews, d.runon = none) → ∃ d, t.crew? ⟨k.wg, k.crew⟩ = some d ∧ d.pend = [] ∧
          ∀ th < 32, lane (d.vreg k.reg).vals th = if m.getLsbD th then stopped q e.code else lane (c.vreg k.reg).vals th) ∧
        ∀ r, s'.regionOf w = some r → s'.queueFull r = false → StopRecordAt t.mem r.slotAddr q e (min r.lost 255))
where
  /-- A copy of bytes from the scratchpad of its resident workgroup, with nothing in its way: no conversion, no padding to
  make, no count, no ring of kept bytes, no tag, claim or failing word, and no crew that runs on. -/
  Plain (s : State) (k : CopyCmd) (w : Wg) : Prop :=
    w.uid = k.wg ∧ w.core.isSome = true ∧ k.done = none ∧ (∀ n, k.kind ≠ .bulk n) ∧ k.trans = 0 ∧ k.src.scratch = true ∧
      k.src.bits = 8 ∧ k.dst.bits = 8 ∧ k.src.fmt = k.dst.fmt ∧ k.block.count = false ∧ k.desc = false ∧ k.kept = [] ∧
      w.stags = [] ∧ w.mtiles = [] ∧ w.scrFailing = [] ∧ s.failing = [] ∧ (k.queueNo < w.queues.length) ∧
      ∀ c ∈ s.crews, c.runon = none
  /-- The source coordinates of byte n of destination order, for elements of one byte (R234 to R236). -/
  source (k : CopyCmd) (n : Nat) : List Int :=
    ((k.sorgs.getD (n / k.dst.count) []).zip (digits k.dst.box (n % k.dst.count))).map fun p => p.1 + (p.2 : Int)
  /-- Its address (R233). -/
  place (k : CopyCmd) (n : Nat) : Nat := k.src.place (k.src.offset ((source k n).map Int.toNat))
  /-- The status word of a command that stopped with a code (R240 Table 8). -/
  stopped (k : CopyCmd) (code : Nat) : Word := BitVec.ofNat 32 (code * 2 ^ 28 + (if k.desc then 2 ^ 27 else 0) + k.landed)
  /-- The record of such a command (R244, R349 Table 1): the slot with the kind of access and LOST, SOURCE 1 with the code, the
  region, the workgroup, the node, no count, the status word with the block's offset, the faulting address, the detail. -/
  StopRecordAt (m : List Host.Cell) (a : Nat) (k : CopyCmd) (e : CopyErr) (lost : Nat) : Prop :=
    memNat m a 4 = (1 + lost * 2 ^ 16 + e.flt.access * 2 ^ 24 + k.slot * 2 ^ 26) % 2 ^ 32 ∧
      memNat m (a + 4) 4 = 1 + e.flt.code.num * 2 ^ 16 ∧ memNat m (a + 8) 4 = k.region / 512 % 2 ^ 32 ∧
      memNat m (a + 12) 4 = k.wgid.toNat ∧ memNat m (a + 16) 8 = k.node % 2 ^ 64 ∧ memNat m (a + 24) 8 = 0 ∧
      memNat m (a + 32) 8 = ((stopped k e.code).toNat + k.blockOff * 2 ^ 32) % 2 ^ 64 ∧
      memNat m (a + 40) 8 = e.flt.addr % 2 ^ 64 ∧ memNat m (a + 48) 16 = e.flt.detail % 2 ^ 128

/-- PUBL (R196, R200, R224, R225): with active threads and a leaf at the address that is valid and shadowed, and no memory that
fails its check, every valid
leaf of its shadow set has its frames exchanged; no translation of the set, and none of an exchanged leaf in any address
space, stays cached, though the mappings stay live, that of the address among them. A leaf that is valid and not shadowed raises PUBLISH_INVALID with the
address, an address at or above 2^57 ADDRESS_RANGE, one without a leaf what its translation raises; what the walk of the
check has cached stays (R200). -/
def Obligations.Publish : Prop :=
  (∀ (f : SFields) (s : State) (x : Ctx) (p : Phys), x.act ≠ 0 →
    let va := (x.leaderPair f.a).toNat
    let leaves := (s.shadowLeaves p.sset walkLevels x.eff.ptroot).eraseDups
    ∀ s', va < 2 ^ 57 → s.xlate x.eff.ptroot va .publ = (s', .ok p) →
    (Runs (.publ f) s x → p.shad = true → s.failing = [] → ∃ t c, exec (.publ f) s = .next t ∧ Counted x t c ∧
      Kept (.publ f) x c ∧ Unwritten x.c c ∧
      (∀ b, memByte t.mem b = memByte (leaves.foldl (fun m e => memWrite m e.1 (leBytes (exchanged e.2) 16)) s.mem) b) ∧
      (∀ q ∈ t.tlb, ¬ (q.root = x.eff.ptroot ∧ entryShad q.entry.toNat = true ∧ entrySet q.entry.toNat = p.sset)) ∧
      (∀ q ∈ t.tlb, ∀ e ∈ leaves, q.entry ≠ BitVec.ofNat 128 e.2) ∧ t.live = s'.live) ∧
    (Goes (.publ f) s x → p.shad = false →
      exec (.publ f) s = .next (s'.raiseFault x.c { code := .publishInvalid, addr := va, access := 2 }))) ∧
  (∀ (f : SFields) (s : State) (x : Ctx), Goes (.publ f) s x → x.act ≠ 0 → 2 ^ 57 ≤ (x.leaderPair f.a).toNat →
    FaultsWith (.publ f) s x { code := .addressRange, addr := (x.leaderPair f.a).toNat, access := 2 }) ∧
  (∀ (f : SFields) (s s' : State) (x : Ctx) (e : Code), Goes (.publ f) s x → x.act ≠ 0 → (x.leaderPair f.a).toNat < 2 ^ 57 →
    s.xlate x.eff.ptroot (x.leaderPair f.a).toNat .publ = (s', .error e) →
    exec (.publ f) s = .next (s'.raiseFault x.c { code := e, addr := (x.leaderPair f.a).toNat, access := 2 })) ∧
  ∀ (f : SFields) (s : State) (x : Ctx), Runs (.publ f) s x → x.act = 0 → Passed (.publ f) s x x.c

/-! The matrix unit and the transform pipe -/

/-- WLOAD and WLOAD.S24 (R147, R152, R153): an aligned image within the allocation, free of races and refused contents,
fills the slot with its bytes, its format and N, the table kept for CB3 alone; refused contents name what is wrong and
leave the slot. WTAB (R154) loads the table at once and its transfer waits in matrix order. -/
def Sys2Proof.Claims.WeightLoads : Prop :=
  (∀ (i : Instr) (fmt n : Nat) (s24 : Bool) (f : SFields) (s : State) (x : Ctx),
    ((∃ sel : BitVec 4, i = .wload sel f ∧ fmt = sel.toNat ∧ s24 = false ∧
        n = if 12 ≤ fmt ∧ fmt ≤ 14 then [4, 8, 16, 24].getD (f.imm.toNat / 4) 0 else 0) ∨
      ∃ sel : BitVec 3, i = .wloadS24 sel f ∧ fmt = sel.toNat ∧ s24 = true ∧ n = 0) → x.act ≠ 0 →
    let k := f.imm.toNat % 4
    let a := (x.leader f.a).toNat
    let size := imageSize fmt s24 n
    (Runs i s x → a % 16 = 0 → a + size ≤ scratch x.w → Quietly i s x [(0, a, size)] [] [256 + k] →
      imageFault fmt s24 n a (memNat x.w.scr a size) = none →
      let slot : WSlot := ⟨true, fmt, s24, n, (List.range size).map fun b => memByte x.w.scr (a + b),
        if fmt = 15 ∧ s24 = false then (x.w.slot k).table else none, []⟩
      MatrixRuns i s x { x.w with slots := x.w.slots.set k slot }) ∧
    (Goes i s x → a % 16 ≠ 0 → FaultsWith i s x { code := .alignment, addr := a, access := 1 }) ∧
    (Goes i s x → a % 16 = 0 → a + size ≤ scratch x.w → Quietly i s x [(0, a, size)] [] [256 + k] → ∀ e,
      imageFault fmt s24 n a (memNat x.w.scr a size) = some e → FaultsWith i s x e)) ∧
  ∀ (f : SFields) (s : State) (x : Ctx), x.act ≠ 0 →
    let k := f.imm.toNat % 4
    let a := (x.leader f.a).toNat
    Runs (.wtab f) s x → a % 16 = 0 → a + 1024 ≤ scratch x.w → Quietly (.wtab f) s x [(0, a, 1024)] [] [256 + k] →
      MatrixRuns (.wtab f) s x { x.w with
        slots := x.w.slots.set k { x.w.slot k with table := some ((List.range 1024).map fun b => memByte x.w.scr (a + b)) }
        mops := x.w.mops ++ [.wtab k] }

/-- Contents that a load refuses (R92 to R95, R153): a 2:4 field that is not ascending, a scale container with a bit above
its code, a bitmap with another count than N. -/
def Sys2Proof.Claims.RefusedWeights : Prop :=
  (∀ (sel : BitVec 3) (f : SFields) (s : State) (x : Ctx), Goes (.wloadS24 sel f) s x → x.act ≠ 0 →
    let a := (x.leader f.a).toNat
    let size := imageSize sel.toNat true 0
    a % 16 = 0 → a + size ≤ scratch x.w → Quietly (.wloadS24 sel f) s x [(0, a, size)] [] [256 + f.imm.toNat % 4] →
    ∀ m < (size - 8192) / 4, ∀ q < 8,
      (let w := memNat x.w.scr (a + 8192 + 4 * m) 4 / 2 ^ (4 * q) % 16; w / 4 ≤ w % 4) →
      ∃ b, FaultsWith (.wloadS24 sel f) s x { code := .sparseMetadata, addr := b, access := 1 }) ∧
  ∀ (sel : BitVec 4) (f : SFields) (s : State) (x : Ctx), Goes (.wload sel f) s x → x.act ≠ 0 →
    let a := (x.leader f.a).toNat
    let n := [4, 8, 16, 24].getD (f.imm.toNat / 4) 0
    let size (n : Nat) := imageSize sel.toNat false n
    (8 ≤ sel.toNat → sel.toNat ≤ 11 → a % 16 = 0 → a + size 0 ≤ scratch x.w →
      Quietly (.wload sel f) s x [(0, a, size 0)] [] [256 + f.imm.toNat % 4] →
      ∀ m < (size 0 - 8192) / 2, 1024 ≤ memNat x.w.scr (a + 8192 + 2 * m) 2 →
        ∃ b, FaultsWith (.wload sel f) s x { code := .blockScaleInvalid, addr := b, access := 1 }) ∧
    (12 ≤ sel.toNat → sel.toNat ≤ 14 → a % 16 = 0 → a + size n ≤ scratch x.w →
      Quietly (.wload sel f) s x [(0, a, size n)] [] [256 + f.imm.toNat % 4] →
      ∀ m < 64 * (kExtent sel.toNat false n / 32),
        (List.range 32).countP (fun b => (memNat x.w.scr (a + 4 * m) 4).testBit b) ≠ n →
        ∃ b, FaultsWith (.wload sel f) s x { code := .sparseMetadata, addr := b, access := 1 })

/-- MMA and MMA.Z (R155, R167): a loaded slot, and rows aligned, within the allocation and free of races: each active
thread's row is staged with the slot as it stands, the armed perturbation taken; an empty slot raises WEIGHT_EMPTY. -/
def Sys2Proof.Claims.Multiply : Prop :=
  ∀ (i : Instr) (sel : BitVec 3) (z : Bool) (f : SFields) (s : State) (x : Ctx),
    ((i = .mma sel f ∧ z = false) ∨ (i = .mmaZ sel f ∧ z = true)) → x.act ≠ 0 →
    let u := f.imm.toNat / 4
    let k := f.imm.toNat % 4
    let w := x.w.slot k
    let n := kExtent w.fmt w.s24 w.n * matBits sel.toNat / 8
    let at_ (th : Nat) : Nat := (lane (x.rawSrc f.a 0) th).toNat
    let empty := w.loaded = false ∨ (w.fmt = 15 ∧ w.s24 = false ∧ w.table = none)
    (Runs i s x → ¬ empty → (∀ th ∈ actives x, at_ th % 4 = 0 ∧ at_ th + n ≤ scratch x.w) →
      Quietly i s x ((actives x).map fun th => (th, at_ th, n)) [256 + k] ((actives x).map fun th => 32 * u + th) →
      MatrixRuns i s x { x.w with
        tiles := x.w.tiles.set u { x.w.tile u with perturb := none }
        mops := x.w.mops ++ [.mma u sel.toNat z w (x.w.tile u).perturb
          ((actives x).map fun th => (th, (List.range n).map fun b => memByte x.w.scr (at_ th + b)))] }) ∧
    (Goes i s x → empty → FaultsWith i s x { code := .weightEmpty }) ∧
    (Goes i s x → ¬ empty → ∀ th ∈ actives x, at_ th % 4 ≠ 0 → (∀ v ∈ actives x, v < th → at_ v % 4 = 0) →
      FaultsWith i s x { code := .alignment, addr := at_ th, access := 1 })

/-- ACCWR, ACCZ, PERTURB and WMARK (R157 to R162, R167): writes wait in matrix order, the perturbation is armed, the
watermark is read at once; a control word out of range raises CONTROL_INVALID. -/
def Sys2Proof.Claims.TileWords : Prop :=
  ∀ (f : SFields) (s : State) (x : Ctx), x.act ≠ 0 →
    let u := f.imm.toNat / 4
    let inRange := ∀ th ∈ actives x, (lane (x.rawSrc f.b 0) th).toNat < 1024
    (Runs (.accwr f) s x → inRange → Quietly (.accwr f) s x [] [] ((actives x).map fun th => 32 * u + rowOf x f.b th) →
      ∃ rows : List (Nat × List (Nat × Word)), rows.map (·.1) = (List.range 32).filter (fun r => (actives x).any fun th => rowOf x f.b th == r) ∧
        (∀ e ∈ rows, e.2 = (actives x).flatMap fun th => if rowOf x f.b th = e.1 then
          [(2 * pairAt x f.b th, lane (x.c.vreg f.a.toNat).vals th), (2 * pairAt x f.b th + 1, lane (x.c.vreg (f.a.toNat + 1)).vals th)]
          else []) ∧
        MatrixRuns (.accwr f) s x { x.w with mops := x.w.mops ++ [.accwr u rows] }) ∧
    (Goes (.accwr f) s x → ¬ inRange → FaultsWith (.accwr f) s x { code := .controlInvalid, field := .b }) ∧
    (Goes (.accrd f) s x → ¬ inRange → FaultsWith (.accrd f) s x { code := .controlInvalid, field := .b }) ∧
    (Runs (.accz f) s x → Quietly (.accz f) s x [] [] ((actives x).map fun th => 32 * u + th) →
      MatrixRuns (.accz f) s x { x.w with mops := x.w.mops ++ [.accz u (actives x)] }) ∧
    (Runs (.perturb f) s x → (x.leader f.a).toNat < 2048 →
      Quietly (.perturb f) s x [] [] ((List.range 32).map fun r => 32 * u + r) →
      MatrixRuns (.perturb f) s x { x.w with tiles := x.w.tiles.set u { x.w.tile u with
        perturb := some ((x.leader f.a).toNat % 32, (x.leader f.a).toNat / 32, x.leader f.b) } }) ∧
    (Goes (.perturb f) s x → 2048 ≤ (x.leader f.a).toNat →
      FaultsWith (.perturb f) s x { code := .controlInvalid, field := .a }) ∧
    (Runs (.wmark f) s x → ∃ t c, exec (.wmark f) s = .next t ∧ Counted x t c ∧ Kept (.wmark f) x c ∧
      Lands x t c f.a (fun _ => BitVec.ofNat 32 (((x.w.pendingRows u).foldl min 32))) ∧ SameRegs x.c c (destRegs f.a 1) ∧
      SameScalars x.c c ∧ SameModes x.c c ∧ c.l = x.c.l ∧ c.m = x.c.m ∧ SameMachine x s t)

/-- ACCRD (R159, R160): with every named row below the watermark each active thread's pair of elements goes to the
registers; otherwise the word waits in SCORE, its access noted, and ACCRD_WAIT_END reads once the rows are final; an
element that fails its check raises MEMORY_UNCORRECTABLE (R352). -/
def Sys2Proof.Claims.TileReads : Prop :=
  (∀ (f : SFields) (s : State) (x : Ctx), Runs (.accrd f) s x → x.act ≠ 0 →
    let u := f.imm.toNat / 4
    let el (odd th : Nat) : Word := ((x.w.tile u).row (rowOf x f.b th)).getD (2 * pairAt x f.b th + odd) 0
    (∀ th ∈ actives x, (lane (x.rawSrc f.b 0) th).toNat < 1024) →
    Quietly (.accrd f) s x [] ((actives x).map fun th => 32 * u + rowOf x f.b th) [] →
    let bad := ∃ th ∈ actives x, ∃ odd < 2, 64 * rowOf x f.b th + 2 * pairAt x f.b th + odd ∈ (x.w.tile u).failing
    ((∀ th ∈ actives x, rowOf x f.b th < x.w.watermark u) → bad →
      FaultsWith (.accrd f) s x { code := .memoryUncorrectable, access := 1 }) ∧
    ((∀ th ∈ actives x, rowOf x f.b th < x.w.watermark u) → ¬ bad → ∃ t c, exec (.accrd f) s = .next t ∧ Counted x t c ∧
      Kept (.accrd f) x c ∧ SameRegs x.c c (destRegs f.a 2) ∧ SameScalars x.c c ∧ SameModes x.c c ∧ c.l = x.c.l ∧ c.m = x.c.m ∧
      (∀ th < 32, ∀ odd < 2, lane (c.vreg (f.a.toNat + odd)).vals th =
        if x.act.getLsbD th then el odd th else lane (x.c.vreg (f.a.toNat + odd)).vals th) ∧
      ∀ b, memByte t.mem b = memByte s.mem b) ∧
    ((∃ th ∈ actives x, x.w.watermark u ≤ rowOf x f.b th) → ∃ t c v, exec (.accrd f) s = .next t ∧
      t.crew? x.c.ref = some c ∧ c.st = .score ∧ c.wait = .accrd ∧ c.pc = x.c.pc ∧ c.ic = x.c.ic ∧ c.v = x.c.v ∧ c.o = x.c.o ∧
      t.wg? x.w.uid = some v ∧ { v with mtags := x.w.mtags } = x.w ∧ (∀ a, memByte t.mem a = memByte s.mem a) ∧
      ∀ q, q ≠ x.c.ref → t.crew? q = s.crew? q)) ∧
  ∀ (r : CrewRef) (s : State) (c : Crew) (w : Wg) (p : Prev) (f : SFields), s.residentCrew r = some (c, w) → c.ref = r →
    c.st = .score → c.wait = .accrd → s.atHand w c = some p → p.i = .accrd f →
    c.halting = .none → c.steps = none → c.replays = [] → c.runon = none →
    let x : Ctx := ⟨s, { c with st := .ready, wait := .none }, w, c.after, false⟩
    (∀ th ∈ actives x, (lane (x.rawSrc f.b 0) th).toNat < 1024) →
    (w.tile (f.imm.toNat / 4)).failing = [] →
    (∀ th ∈ actives x, rowOf x f.b th < w.watermark (f.imm.toNat / 4)) →
    vecKind f.a = .v → f.a.toNat + 1 < c.v.length → f.a.toNat + 1 < 96 →
    ∃ t d, exec (.accrdWaitEnd r) s = .next t ∧ t.crew? r = some d ∧ d.st = .ready ∧ d.ic = c.ic + 1 ∧ d.pc = c.after ∧
      ∀ th < 32, ∀ odd < 2, lane (d.vreg (f.a.toNat + odd)).vals th = if c.active.getLsbD th
        then ((w.tile (f.imm.toNat / 4)).row (rowOf x f.b th)).getD (2 * pairAt x f.b th + odd) 0
        else lane (c.vreg (f.a.toNat + odd)).vals th

/-- MTILE and MTILE.Z (R164, R165): an aligned, valid descriptor whose words lie within the allocation, free of races and
refused scales, starts the run, and the crew waits for it uncounted; a bad descriptor raises CONTROL_INVALID. -/
def Sys2Proof.Claims.TileRuns : Prop :=
  ∀ (i : Instr) (sel : BitVec 3) (z : Bool) (f : SFields) (s : State) (x : Ctx),
    ((i = .mtile sel f ∧ z = false) ∨ (i = .mtileZ sel f ∧ z = true)) → x.act ≠ 0 → (∀ m ∈ x.w.mtiles, m.idx ≠ x.c.idx) →
    let a := (x.leader f.a).toNat
    let d := memNat x.w.scr a 32
    let bits (hi lo : Nat) : Nat := d / 2 ^ lo % 2 ^ (hi + 1 - lo)
    let wfmt := bits 131 128
    let klen := bits 127 96
    let e := matBits wfmt
    let bad := bits 255 192 ≠ 0 ∨ bits 159 132 ≠ 0 ∨ 12 ≤ wfmt ∨ klen % 32 ≠ 0 ∨ klen < 32 ∨ 16384 < klen ∨
      (wfmt < 8 ∧ bits 191 160 ≠ 0) ∨ bits 31 0 % 4 ≠ 0 ∨ bits 63 32 % 4 ≠ 0 ∨ bits 95 64 % 16 ≠ 0 ∨ bits 191 160 % 16 ≠ 0
    let ranges : List (Nat × Nat) := ((actives x).map fun th => (bits 31 0 + th * bits 63 32, klen * matBits sel.toNat / 8)) ++
      [(bits 95 64, klen * 8 * e)] ++ (if 8 ≤ wfmt then [(bits 191 160, klen * 4)] else [])
    let k := f.imm.toNat % 4
    let u := f.imm.toNat / 4
    (Runs i s x → a % 32 = 0 → a + 32 ≤ scratch x.w → ¬ bad → (∀ r ∈ ranges, r.1 + r.2 ≤ scratch x.w) →
      (8 ≤ wfmt → ∀ m < 2 * klen, let c := memNat x.w.scr (bits 191 160 + 2 * m) 2
        c < 1024 ∧ ¬ ((wfmt = 10 ∨ wfmt = 11) ∧ c / 8 = 127)) →
      Quietly i s x ((0, a, 32) :: ranges.map fun r => (0, r)) [] ((256 + k) :: []) →
      (x.readStatus i).matFault true ((actives x).map fun th => 32 * u + th) = none →
      ∃ t c w m, exec i s = .next t ∧ t.crew? x.c.ref = some c ∧ c.st = .blocked ∧ c.wait = .mtile ∧ c.pc = x.c.pc ∧
        c.ic = x.c.ic ∧ c.v = x.c.v ∧ c.s = x.c.s ∧ c.p = x.c.p ∧ (∀ b, memByte t.mem b = memByte s.mem b) ∧
        t.wg? x.w.uid = some w ∧ w.mtiles = x.w.mtiles ++ [m] ∧ m.idx = x.c.idx ∧ m.tile = u ∧ m.slot = k ∧ m.act = sel.toNat ∧ m.z = z ∧
        m.mask = x.act ∧ m.abase = bits 31 0 ∧ m.astride = bits 63 32 ∧ m.bbase = bits 95 64 ∧ m.klen = klen ∧ m.wfmt = wfmt ∧
        m.sbase = bits 191 160 ∧ m.step = 0 ∧ m.perturb = (x.w.tile u).perturb ∧ w.scr = x.w.scr ∧ w.slots = x.w.slots ∧
        w.mops = x.w.mops ∧ w.tiles = x.w.tiles.set u { x.w.tile u with perturb := none }) ∧
    (Goes i s x → a % 32 = 0 → a + 32 ≤ scratch x.w → bad → FaultsWith i s x { code := .controlInvalid, field := .a })

/-- A matrix word with no active thread counts and commits as a boundary, and has no other effect (R151). -/
def Sys2Proof.Claims.IdleMatrix : Prop :=
  ∀ (i : Instr) (s : State) (x : Ctx) (f : SFields),
    ((∃ sel, i = .wload sel f) ∨ (∃ sel, i = .wloadS24 sel f) ∨ (∃ sel, i = .mma sel f) ∨ (∃ sel, i = .mmaZ sel f) ∨
      (∃ sel, i = .mtile sel f) ∨ (∃ sel, i = .mtileZ sel f) ∨ i ∈ [Instr.wtab f, .accrd f, .accwr f, .accz f, .wmark f, .perturb f]) →
    Runs i s x → x.act = 0 → Passed i s x x.c

/-- The words of the matrix unit (R146 to R167). -/
def Obligations.MatrixWords : Prop :=
  WeightLoads ∧ RefusedWeights ∧ Multiply ∧ TileWords ∧ TileReads ∧ TileRuns ∧ IdleMatrix

/-- MATRIX_ROW_FINAL and WTAB_TRANSFER (R106, R107, R154 to R157, R161, R162): the oldest pending operation of a workgroup
is applied to its first row, element by element; no other row, and nothing outside the tiles and the pending operations,
changes. -/
def Sys2Proof.Claims.MatrixRows : Prop :=
  ∀ (u : Nat) (s : State) (w : Wg), s.wg? u = some w → w.uid = u →
    let applied (n r : Nat) (row : Nat → Word) (ops : List MatOp) : Prop :=
      n < w.tiles.length → (w.tile n).elems.length = 2048 → r < 32 → ∃ t v, exec (.matrixRowFinal u) s = .next t ∧
        t.wg? u = some v ∧ { v with tiles := w.tiles, mops := w.mops } = w ∧ v.mops = ops ∧
        (∀ j < 64, ((v.tile n).row r).getD j 0 = row j) ∧ (∀ q < 32, q ≠ r → (v.tile n).row q = (w.tile n).row q) ∧
        (v.tile n).perturb = (w.tile n).perturb ∧ (∀ k, k ≠ n → v.tile k = w.tile k) ∧ t.mem = s.mem ∧ t.crews = s.crews ∧
        ∀ k, k ≠ u → t.wg? k = s.wg? k
    (∀ n act z slot p r bytes rows rest, w.mops = .mma n act z slot p ((r, bytes) :: rows) :: rest →
      applied n r (fun j => element (intDomain act slot.fmt) (if z then 0 else ((w.tile n).row r).getD j 0)
          (kExtent slot.fmt slot.s24 slot.n / 32) (fun k => (matNum act).value (packedAt (leNat bytes) (matBits act) k))
          (fun k => weightAt slot (leNat slot.image) (leNat (slot.table.getD [])) k j)
          (p.bind fun q => if q.1 = r ∧ q.2.1 = j then some q.2.2 else none))
        (if rows = [] then rest else .mma n act z slot p rows :: rest)) ∧
    (∀ n r els rows rest, w.mops = .accwr n ((r, els) :: rows) :: rest →
      applied n r (fun j => ((els.reverse.find? (·.1 == j)).map (·.2)).getD (((w.tile n).row r).getD j 0))
        (if rows = [] then rest else .accwr n rows :: rest)) ∧
    (∀ n r rows rest, w.mops = .accz n (r :: rows) :: rest → applied n r (fun _ => 0)
        (if rows = [] then rest else .accz n rows :: rest)) ∧
    ∀ k rest, w.mops = .wtab k :: rest → ∃ t v, exec (.wtabTransfer u) s = .next t ∧ t.wg? u = some v ∧
      v = { w with mops := rest } ∧ t.mem = s.mem ∧ t.crews = s.crews

/-- MTILE_STEP (R165, R166, R167): of the workgroup's oldest run, with no earlier write pending on its rows and no save under
way, the slot holds its K-chunk, EMPTY for MMA and without a table, and the chunk is added to every row; the last step retires
MTILE. -/
def Sys2Proof.Claims.TileSteps : Prop :=
  ∀ (u : Nat) (s : State) (w : Wg) (m : MTile) (rest : List MTile) (c : Crew), s.wg? u = some w → w.uid = u →
    w.saving = false → w.mtiles = m :: rest → (∀ k ∈ rest, k.idx ≠ m.idx) →
    s.residentCrew ⟨u, m.idx⟩ = some (c, w) → c.wg = u → c.idx = m.idx → c.st = .blocked → c.wait = .mtile →
    (∀ r ∈ w.opRows m.tile, m.mask.getLsbD r = false) → m.tile < w.tiles.length → (w.tile m.tile).elems.length = 2048 →
    m.slot < w.slots.length → c.halting = .none → c.steps = none → c.replays = [] →
    let last := m.step + 1 = m.klen / 32
    let e := matBits m.wfmt
    let row (th j : Nat) : Word := element (intDomain m.act m.wfmt)
      (if m.z = true ∧ m.step = 0 then 0 else ((w.tile m.tile).row th).getD j 0) 1
      (fun k => (matNum m.act).value (packedAt (memNat w.scr (m.abase + th * m.astride + m.step * (4 * matBits m.act))
        (4 * matBits m.act)) (matBits m.act) k))
      (fun k => let v := (weightNum m.wfmt).value (packedAt (memNat w.scr (m.bbase + m.step * 256 * e) (256 * e)) e (64 * k + j))
        if isBlockFmt m.wfmt then scaled v (packedAt (memNat w.scr (m.sbase + 128 * m.step) 128) 16 j) else v)
      (m.perturb.bind fun q => if last ∧ q.1 = th ∧ q.2.1 = j then some q.2.2 else none)
    ∃ t v d, exec (.mtileStep u) s = .next t ∧ t.wg? u = some v ∧ t.crew? ⟨u, m.idx⟩ = some d ∧ v.scr = w.scr ∧ v.mops = w.mops ∧
      (∀ th < 32, ∀ j < 64, ((v.tile m.tile).row th).getD j 0 =
        if m.mask.getLsbD th then row th j else ((w.tile m.tile).row th).getD j 0) ∧ (∀ n, n ≠ m.tile → v.tile n = w.tile n) ∧
      t.mem = s.mem ∧
      (∀ n, n ≠ m.slot → v.slot n = w.slot n) ∧
      v.slot m.slot = { w.slot m.slot with loaded := false, table := none, failing := [], image := (v.slot m.slot).image } ∧
      (∀ b < 256 * e, (v.slot m.slot).image.getD b 0 = memByte w.scr (m.bbase + m.step * (256 * e) + b)) ∧
      (isBlockFmt m.wfmt = true → ∀ b < 128, (v.slot m.slot).image.getD (8192 + b) 0 = memByte w.scr (m.sbase + 128 * m.step + b)) ∧
      (m.step + 1 < m.klen / 32 → v.mtiles = { m with step := m.step + 1 } :: rest ∧ d = c) ∧
      (m.klen / 32 ≤ m.step + 1 → v.mtiles = rest ∧
        d.st = .ready ∧ d.ic = c.ic + 1 ∧ d.pc = c.after ∧ d.v = c.v ∧ d.commit = c.ic + 1)

/-- The steps of the matrix unit and of the tile sequencer (R154 to R167). -/
def Obligations.MatrixEngine : Prop := MatrixRows ∧ TileSteps

/-- TOPK and TOPK.M (R168, R170 to R172): with a valid control pair, the candidates read rank by R170 into four pending
registers; a control word out of range raises CONTROL_INVALID. -/
def Obligations.Selection : Prop :=
  ∀ (sel : BitVec 2) (f : SFields) (s : State) (x : Ctx), x.act ≠ 0 →
    let a := (x.leader f.b).toNat
    let ctl := (x.leader (f.b + 1)).toNat
    let bits := (scores sel).1
    let value := (scores sel).2
    let k := ctl / 2 ^ 16 % 128
    (let n := ctl % 4096 + 1
      let ok := ctl / 2 ^ 23 = 0 ∧ ctl / 2 ^ 12 % 16 = 0 ∧ 1 ≤ k ∧ k ≤ 64
      let code (i : Nat) : Nat := memNat x.w.scr (a + bits / 8 * i) (bits / 8)
      (Runs (.topk sel f) s x → ok → a % (bits / 8) = 0 → a + n * (bits / 8) ≤ scratch x.w →
        Quietly (.topk sel f) s x [(0, a, n * (bits / 8))] [] [] →
        Selects (.topk sel f) s x f.a n k (fun i => (value (code i), i, 0)) code) ∧
      (Goes (.topk sel f) s x → ¬ ok → FaultsWith (.topk sel f) s x { code := .controlInvalid, field := .b })) ∧
    let n1 := ctl % 128
    let n2 := ctl / 2 ^ 8 % 128
    let ok := ctl / 2 ^ 23 = 0 ∧ ctl / 2 ^ 15 % 2 = 0 ∧ ctl / 2 ^ 7 % 2 = 0 ∧ 1 ≤ k ∧ k ≤ 64 ∧ n1 ≤ 64 ∧ n2 ≤ 64 ∧ 1 ≤ n1 + n2
    let code (i : Nat) : Nat := memNat x.w.scr (a + 8 * i) 4 % 2 ^ bits
    (Runs (.topkM sel f) s x → ok → a % 8 = 0 → a + 8 * (n1 + n2) ≤ scratch x.w →
      Quietly (.topkM sel f) s x [(0, a, 8 * (n1 + n2))] [] [] →
      Selects (.topkM sel f) s x f.a (n1 + n2) k
        (fun i => (value (code i), memNat x.w.scr (a + 8 * i + 4) 4, if i < n1 then 0 else 1)) code) ∧
    (Goes (.topkM sel f) s x → ¬ ok → FaultsWith (.topkM sel f) s x { code := .controlInvalid, field := .b })

/-- The DECODE forms (R96, R173): each active thread's field of the stream, through the table or the metadata, in the
pending register. -/
def Sys2Proof.Claims.DecodeForms : Prop :=
  ∀ (f : SFields) (s : State) (x : Ctx), x.act ≠ 0 →
    let a := (x.leader f.b).toNat
    let u := (x.leader (f.b + 1)).toNat
    let c := f.imm.toNat
    (∀ (sel : BitVec 3) (i : Instr) (signed : Bool),
      ((i = .decodeWn sel f ∧ signed = false) ∨ (i = .decodeSwn sel f ∧ signed = true)) →
      let n := sel.toNat + 1
      (Runs i s x → u = 0 → a % 4 = 0 → a + 4 * n * c + 4 * n ≤ scratch x.w → Quietly i s x [(0, a + 4 * n * c, 4 * n)] [] [] →
        Pends i s x f.a [fun th => let v := stream x a (n * (32 * c + th)) n
          if signed = true ∧ 2 ^ (n - 1) ≤ v then BitVec.ofInt 32 ((v : Int) - 2 ^ n) else BitVec.ofNat 32 v]) ∧
      (Goes i s x → u ≠ 0 → FaultsWith i s x { code := .illegalInstruction, field := .b })) ∧
    (Runs (.decodeCb f) s x → a % 4 = 0 → u % 16 = 0 → a + 24 * c + 24 ≤ scratch x.w → u + 16 * (c / 2) + 16 ≤ scratch x.w →
      Quietly (.decodeCb f) s x [(0, a + 24 * c, 24), (0, u + 16 * (c / 2), 16)] [] [] →
      let tab (e : Nat) : Nat := memNat x.w.scr (u + 16 * (e / 128) + 2 * stream x a (3 * e) 3) 2
      Pends (.decodeCb f) s x f.a [fun th => BitVec.ofNat 32 (tab (64 * c + 2 * th) + 2 ^ 16 * tab (64 * c + 2 * th + 1))]) ∧
    let field (q : Nat) : Nat := memNat x.w.scr (u + 4 * (q / 8)) 4 / 2 ^ (4 * (q % 8)) % 16
    let bounds := a % 4 = 0 ∧ u % 4 = 0 ∧ a + 64 * c + 64 ≤ scratch x.w ∧ u + 8 * c + 8 ≤ scratch x.w
    (Runs (.decodeS24 f) s x → bounds → (∀ q < 16, field (16 * c + q) % 4 < field (16 * c + q) / 4) →
      Quietly (.decodeS24 f) s x [(0, a + 64 * c, 64), (0, u + 8 * c, 8)] [] [] →
      let el (e : Nat) : Nat := let q := e / 4
        if e % 4 = field q % 4 then memNat x.w.scr (a + 4 * q) 2
        else if e % 4 = field q / 4 then memNat x.w.scr (a + 4 * q + 2) 2 else 0
      Pends (.decodeS24 f) s x f.a [fun th => BitVec.ofNat 32 (el (64 * c + 2 * th) + 2 ^ 16 * el (64 * c + 2 * th + 1))]) ∧
    (Goes (.decodeS24 f) s x → bounds → (∃ q < 16, field (16 * c + q) / 4 ≤ field (16 * c + q) % 4) →
      FaultsWith (.decodeS24 f) s x { code := .sparseMetadata, field := .b })

/-- TRANSFORM_REPLY (R34, R168): the registers of the oldest instruction whose reply is pending take its values in the
threads that were active; no other register changes, and a crew that waited for a register goes on. -/
def Sys2Proof.Claims.TransformReplies : Prop :=
  ∀ (r : CrewRef) (s : State) (c : Crew) (p : Pend), s.crew? r = some c → c.pend.find? (·.vals.isSome) = some p →
    let l := c.pend.filter fun q => q.vals.isSome && q.copy == p.copy
    l.Nodup → (l.map (·.code)).Nodup → (∀ q ∈ l, q.code < 96 ∧ q.code < c.v.length ∨ 96 ≤ q.code ∧ q.code < 96 + c.o.length) →
    ∃ t d, exec (.transformReply r) s = .next t ∧ t.crew? r = some d ∧ d.pc = c.pc ∧ d.ic = c.ic ∧ d.s = c.s ∧ d.l = c.l ∧
      d.wake = c.wake ∧ t.mem = s.mem ∧ t.wgs = s.wgs ∧ (∀ q, q ≠ r → t.crew? q = s.crew? q) ∧
      d.pend = c.pend.filter (fun q => !(q.vals.isSome && q.copy == p.copy)) ∧
      (∀ q ∈ l, ∀ th < 32, lane (d.vreg q.code).vals th =
        if q.mask.getLsbD th then lane (q.vals.getD []) th else lane (c.vreg q.code).vals th) ∧
      (∀ n, n ∉ l.map (·.code) → d.vreg n = c.vreg n) ∧
      (d.st, d.wait) = if c.st = .score ∧ c.wait = .pendingReg then (.ready, .none) else (c.st, c.wait)

/-- Decoding and the pipe's replies; with no active thread a word of the pipe only counts (R168). -/
def Obligations.Decoding : Prop :=
  DecodeForms ∧ TransformReplies ∧
    ∀ (i : Instr) (s : State) (x : Ctx) (f : SFields), ((∃ sel, i = .topk sel f) ∨ (∃ sel, i = .topkM sel f) ∨
        i = .decodeCb f ∨ i = .decodeS24 f ∨ (∃ sel, i = .decodeWn sel f) ∨ ∃ sel, i = .decodeSwn sel f) →
      Runs i s x → x.act = 0 → Passed i s x x.c

/-! Windows and groups -/

/-- ST.32, ST.64 and ST.128 to the multicast-reduce window (R197, R219, R220): where every element's address names a group
of which the workgroup is a member and no open round of it has the member's contribution, each element is contributed to
the round of its offset; a contribution still open makes the crew wait. The lowest thread's address that is none of a window
raises ADDRESS_RANGE: one from 2^48 up, a handle by which the workgroup is a member of no group, bytes past the window. That
a handle is looked for in the workgroup's region and then in its ancestors, whose groups R378 admits members of descendants
to, nearest first, is the model's (log 33). -/
def Sys2Proof.Claims.WindowStores : Prop :=
  ∀ e ∈ [(Instr.st32, (4 : Nat)), (Instr.st64, 8), (Instr.st128, 16)], ∀ (f : MFields) (s : State) (x : Ctx), f.sp = 2 → x.act ≠ 0 →
    let l := requests x false f.a (f.off.toInt * e.2)
    let homes : List Nat := x.w.region :: (((s.node? x.w.launch).map fun n => n.chain.map (·.1)).getD [])
    let member (a : Nat) : Option (Group × Nat) := homes.findSome? fun r =>
      (s.groups.find? fun g => g.region == r && g.handle == a / 2 ^ 40).bind fun g =>
        (g.members.findIdx? fun m => m.dev == s.port.devnum.toNat && m.node == s.nodeAddr x.w && m.wg == x.w.index).map (g, ·)
    let named (a n : Nat) : Option (Group × Nat) := if 2 ^ 48 ≤ a then none else
      (member a).bind fun e => if a % 2 ^ 40 + n ≤ e.1.wsize then some e else none
    let fits := (∀ r ∈ l, (named r.addr.toNat e.2).isSome ∧ r.addr % e.2 = 0) ∧
      ∀ q ∈ l, ∀ r ∈ l, q.t ≠ r.t → q.addr ≠ r.addr
    let open_ := ∃ p ∈ contributions x f e.2, ∃ g k, named p.1 4 = some (g, k) ∧ k ∈ (g.rounds.filter (·.off == p.1 % 2 ^ 40)).flatMap
      fun r => r.parts.map (·.1)
    (Runs (e.1 f) s x → s.dbg.region = none → fits → ¬ open_ → (s.groups.map (·.id)).Nodup → ∃ t c, exec (e.1 f) s = .next t ∧ Counted x t c ∧
      SameRegs x.c c [] ∧ LeavesCrew (e.1 f) x c ∧ (∀ b, memByte t.mem b = memByte s.mem b) ∧ ScratchIs x t (memByte x.w.scr) ∧
      t.groups.length = s.groups.length ∧ ∀ (n : Nat) (g h : Group), s.groups[n]? = some g → t.groups[n]? = some h →
        { h with rounds := g.rounds } = g ∧ ∀ off, parts h off = parts g off ++ (contributions x f e.2).filterMap fun p =>
          match named p.1 4 with
          | some (q, k) => if q.id = g.id ∧ p.1 % 2 ^ 40 = off then some (k, p.2) else none
          | none => none) ∧
    (Runs (e.1 f) s x → s.dbg.region = none → fits → open_ → Blocks (e.1 f) s x .window) ∧
    (Goes (e.1 f) s x → ∀ r ∈ l, (∀ q ∈ l, q.t < r.t → (named q.addr.toNat e.2).isSome) →
      let a := r.addr.toNat
      let fails (b : Nat) : Prop := FaultsWith (e.1 f) s x { code := .addressRange, addr := b, access := 2 }
      (2 ^ 48 ≤ a → fails a) ∧ (a < 2 ^ 48 → member a = none → fails a) ∧
        ∀ g k, a < 2 ^ 48 → member a = some (g, k) → g.wsize < a % 2 ^ 40 + e.2 →
          fails (if a % 2 ^ 40 < g.wsize then a - a % 2 ^ 40 + g.wsize else a))

/-- MCR_ROUND_DELIVERY (R197, R379): a complete round leaves its group; the sum of the contributions in ascending member
index goes to the receive buffer of this device's member, where its page translates, and to no other byte. -/
def Sys2Proof.Claims.RoundDelivery : Prop :=
  ∀ (s : State) (id off : Nat) (g : Group) (r : Round) (m : Member) (k : Nat), s.groups.find? (·.id == id) = some g →
    g.id = id → g.rounds.find? (·.off == off) = some r → s.roundFull g r = true → s.routeUp g = true →
    g.members[k]? = some m → s.local m = true → (∀ j q, g.members[j]? = some q → j ≠ k → s.local q = false) → m.count = false →
    ∀ root p s', s.memberRoot m = some root → m.buf + off < 2 ^ 57 →
    ({ s with fresh := s.fresh + g.members.length }.setGroup { g with rounds := g.rounds.filter (·.off != off) }).xlate root
      (m.buf + off) .store = (s', .ok p) →
    let part (j : Nat) : Word := ((r.parts.find? (·.1 == j)).map (·.2)).getD (Config.remotePart (s.fresh + j))
    let sum := ((List.range (g.members.length - 1)).map (· + 1)).foldl (fun acc j => combine g.fmt acc (part j)) (part 0)
    ∃ t h, exec (.mcrRoundDelivery id off) s = .next t ∧ t.groups.find? (·.id == id) = some h ∧
      h = { g with rounds := g.rounds.filter (·.off != off) } ∧ memNat t.mem p.wr 4 = sum.toNat ∧
      (∀ b, ¬ within p.wr 4 b → memByte t.mem b = memByte s.mem b) ∧ t.wgs = s.wgs

/-- Writes of GRPINST and GRPREMOVE (R378): a valid descriptor whose handle is free installs its group with the members of
its entries, GRPSTAT 0; a handle in use gives 3, an invalid descriptor 1; a group with an open round is not removed, GRPSTAT
2, one without is. -/
def Sys2Proof.Claims.Groups : Prop :=
  ∀ (s : State) (a : DWord), s.port.ready = true → s.portUp = true →
    let d := memNat s.mem a.toNat 64
    let bits (x hi lo : Nat) : Nat := x / 2 ^ lo % 2 ^ (hi + 1 - lo)
    let n := bits d 79 72 + 1
    let entry (i : Nat) : Nat := memNat s.mem (bits d 255 192 + 32 * i) 32
    let memberOk (i : Nat) : Prop := let x := entry i
      bits x 255 208 = 0 ∧ bits x 127 117 = 0 ∧ bits x 115 96 % 16 = 0 ∧ (bits x 116 116 = 0 → bits x 115 96 = 0) ∧
        bits x 63 0 % 16 = 0 ∧ bits x 191 128 % 128 = 0 ∧ (bits x 207 192 = s.port.devnum.toNat →
          populated (bits x 191 128) 128 = true ∧ s.below (memNat s.mem (bits x 191 128 + 8) 8) (bits d 63 0) = true)
    let ok := a.toNat % 64 = 0 ∧ there s a.toNat 64 ∧ s.failing = [] ∧ bits d 511 256 = 0 ∧ bits d 191 168 = 0 ∧
      bits d 127 84 = 0 ∧ bits d 81 80 = 0 ∧ bits d 83 82 ≠ 3 ∧ bits d 167 128 % 16 = 0 ∧ 16 ≤ bits d 167 128 ∧
      bits d 167 128 ≤ 2 ^ 40 ∧ bits d 255 192 % 32 = 0 ∧ bits d 63 0 % 512 = 0 ∧
      there s (bits d 255 192) (32 * n) ∧ ∀ i < n, memberOk i
    let used := ∃ h ∈ s.groups, h.region = bits d 63 0 ∧ h.handle = bits d 71 64
    (ok → ¬ used → ∃ t g, exec (.grpinst a) s = .next t ∧ t.port.grpstat = 0 ∧ t.groups = s.groups ++ [g] ∧ g.desc = a.toNat ∧
      g.region = bits d 63 0 ∧ g.handle = bits d 71 64 ∧ g.wsize = bits d 167 128 ∧ g.fmt = bits d 83 82 ∧ g.rounds = [] ∧
      g.members.length = n ∧ (∀ i m, g.members[i]? = some m → m.dev = bits (entry i) 207 192 ∧ m.node = bits (entry i) 191 128 ∧
        m.wg = BitVec.ofNat 32 (bits (entry i) 95 64) ∧ (m.count = true ↔ bits (entry i) 116 116 = 1) ∧
        m.baroff = bits (entry i) 115 96 ∧ m.buf = bits (entry i) 63 0) ∧ t.mem = s.mem) ∧
    (ok → used → ∃ t, exec (.grpinst a) s = .next t ∧ t.port.grpstat = 3 ∧ t.groups = s.groups) ∧
    (s.failing = [] → ¬ ok → ∃ t, exec (.grpinst a) s = .next t ∧ t.port.grpstat = 1 ∧ t.groups = s.groups) ∧
    (∀ g, s.groups.find? (·.desc == a.toNat) = some g →
      (g.rounds = [] → ∃ t, exec (.grpremove a) s = .next t ∧ t.port.grpstat = 0 ∧ t.groups = s.groups.filter (·.id != g.id)) ∧
      (g.rounds ≠ [] → ∃ t, exec (.grpremove a) s = .next t ∧ t.port.grpstat = 2 ∧ t.groups = s.groups)) ∧
    (s.groups.find? (·.desc == a.toNat) = none → ∃ t, exec (.grpremove a) s = .next t ∧ t.port.grpstat = 1 ∧ t.groups = s.groups)

/-- Multicast-reduce groups (R197, R219, R220, R378, R379). -/
def Obligations.MulticastReduce : Prop := WindowStores ∧ RoundDelivery ∧ Groups

/-! The dependence graph -/

/-- NODE_START and BULK_COPY_END (R224, R255 to R258): a READY join is DONE at once and lowers each successor's PENDING; a
publish exchanges the frames of its set and is DONE; a bulk copy whose checks pass is RUNNING with its command in the hub
die's engine; a launch without ALLIN is RUNNING with its first workgroup on the lowest core that takes it, which is the
model's choice among those that do (log 12); a finished copy is DONE with its status word. -/
def Obligations.NodeSteps : Prop :=
  (∀ (a : Nat) (s : State) (n : NodeRun), s.nodes.find? (fun n => n.addr == a && !n.running && !n.closed) = some n →
    (∀ w ∈ s.wgs, w.launch ≠ n.id) →
    (n.kind = 0 → HoldsBack s n → ∃ t, exec (.nodeStart a) s = .next t ∧ Ended s t n 3 [] ∧
      t.nodes = s.nodes.filter (·.id != n.id) ∧ t.wgs = s.wgs) ∧
    (n.kind = 3 → n.nsucc = 0 → ∀ set, (s.publSet n.eff.ptroot n.arg).2 = .ok set → ∃ t, exec (.nodeStart a) s = .next t ∧
      t.nodes = s.nodes.filter (·.id != n.id) ∧ t.wgs = s.wgs ∧
      (∀ q ∈ t.tlb, ¬ (q.root = n.eff.ptroot ∧ entryShad q.entry.toNat = true ∧ entrySet q.entry.toNat = set)) ∧
      let m2 := memWrite s.mem a [marked s.mem a 2]
      let m3 := ((({ s with mem := m2 } : State).shadowLeaves set walkLevels n.eff.ptroot).eraseDups).foldl
        (fun m e => memWrite m e.1 (leBytes (exchanged e.2) 16)) m2
      ∀ b, memByte t.mem b = if b = a then marked m3 a 3 else memByte m3 b) ∧
    (n.kind = 2 → ∀ s' k, s.bulkCheck n = (s', .ok k) → (s.nodes.map (·.id)).Nodup → ∃ t q m, exec (.nodeStart a) s = .next t ∧
      t.copies = s.copies ++ [q] ∧ { q with did := k.did } = k ∧ t.node? n.id = some m ∧ m = { n with running := true } ∧
      memByte t.mem a = marked s.mem a 2 ∧ ∀ b, b ≠ a → memByte t.mem b = memByte s.mem b) ∧
    (n.kind = 1 → n.unplaced = true → s.heldByOrder n = false → n.desc.allin = false → n.eff.redun = 0 →
      (s.nodes.map (·.id)).Nodup → ∀ core < s.cores.length, s.takes n core n.desc.ask = true →
      (∀ k < core, s.takes n k n.desc.ask = false) → (s.pickSpots n.eff core n.desc.crews).length = n.desc.crews →
      ∃ t w m, exec (.nodeStart a) s = .next t ∧ t.wgs = s.wgs ++ [w] ∧ w.uid = s.nextId ∧ w.launch = n.id ∧ w.core = some core ∧
        w.index = BitVec.ofNat 32 n.next ∧ t.crews.length = s.crews.length + n.desc.crews ∧ t.node? n.id = some m ∧
        m.running = true ∧ m.next = n.next + 1 ∧
        ∀ b, memByte t.mem b = if b = n.addr then marked s.mem b 2 else memByte s.mem b)) ∧
  ∀ (a : Nat) (s : State) (n : NodeRun) (k : CopyCmd), s.bulkCmd a = some k →
    s.nodes.find? (fun n => n.addr == a && n.kind == 2 && n.running) = some n → k.landed = k.total →
    (∀ w ∈ s.wgs, w.launch ≠ n.id) → HoldsBack s n → (∀ i < n.nsucc, ¬ within (successor s n i) 128 (a + 32)) → a % 128 = 0 →
    ¬ (n.succ < a + 128 ∧ a < n.succ + 8 * n.nsucc) → ∃ t, exec (.bulkCopyEnd a) s = .next t ∧
      Ended s t n 3 [(32, (if k.desc then 2 ^ 27 else 0) + k.landed)] ∧ t.nodes = s.nodes.filter (·.id != n.id) ∧
      t.copies = s.copies.filter (·.id != k.id) ∧ t.wgs = s.wgs

/-- Doorbells (R256, R376): DBELL queues the address of its priority, at most 256 of them, and refuses without effect but a
record of the error log an address that is no multiple of 128, or a full queue; DOORBELL_SERVE takes the oldest of the
highest priority, and a WAITING node with PENDING 0 that passes its checks becomes READY. -/
def Obligations.Doorbells : Prop :=
  (∀ (s : State) (q : BitVec 4) (v : DWord), s.port.ready = true → s.portUp = true → s.port.dbells.length = 16 →
    let l := s.port.dbells.getD q.toNat []
    (v.toNat % 128 = 0 → l.length < 256 → ∃ t k, exec (.dbell q v) s = .next t ∧
      t.port.dbells.getD q.toNat [] = l ++ [(v, k)] ∧
      ∀ k, k ≠ q.toNat → t.port.dbells.getD k [] = s.port.dbells.getD k []) ∧
    (v.toNat % 128 ≠ 0 → ∃ t, exec (.dbell q v) s = .next t ∧ Logs s t .graphInvalid 2 0 v.toNat 0 ∧
      t.port.dbells = s.port.dbells ∧ t.regions = s.regions) ∧
    (v.toNat % 128 = 0 → 256 ≤ l.length → ∃ t, exec (.dbell q v) s = .next t ∧
      Logs s t .addressRange 2 2 (0xF00000000200 + 8 * q.toNat) 0 ∧ t.port.dbells = s.port.dbells ∧ t.regions = s.regions)) ∧
  ∀ (s : State) (q a : Nat) (clk : Clock) (r : Region) (l : List Region), s.port.bell = some (q, a, clk) →
    there s a 128 → s.failing = [] →
    let n := s.nodeWord a
    n.state = 0 → n.pending = 0 → n.bad = false → n.kind ≠ 1 → s.loadChain 16 n.region = .ok (r :: l) → r.eff.prio = q →
    ((s.enterChain (r :: l)).domainKilled r.rcb = false) →
    ∃ t k, exec .doorbellServe s = .next t ∧ t.port.dbells = s.port.dbells.modify q List.tail ∧ t.nodes = s.nodes ++ [k] ∧
      k.addr = a ∧ k.kind = n.kind ∧ k.running = false ∧ k.region = n.region ∧ k.arg = n.arg ∧ k.succ = n.succ ∧
      k.nsucc = n.nsucc ∧ memByte t.mem a = marked s.mem a 1 ∧ ∀ b, b ≠ a → memByte t.mem b = memByte s.mem b

/-! Workgroups -/

/-- WORKGROUP_PLACE (R41, R255, R259): the next workgroup of a launch, on a core that has what it asks within the budgets,
starts with every crew in the state of R41; the node is RUNNING from its first. -/
def Sys2Proof.Claims.Placement : Prop :=
  ∀ (a core : Nat) (spots : List Spot) (s : State) (n : NodeRun), s.launchAt a = some n → n.unplaced = true →
    s.heldByOrder n = false → s.takes n core n.desc.ask = true → s.spotsFit core n.desc.crews spots = true →
    s.sharesFit n.eff spots = true → s.shadowFits n core spots none = true → n.desc.allin = false →
    (s.nodes.map (·.id)).Nodup → (∀ w ∈ s.wgs, w.uid < s.nextId) → (∀ c ∈ s.crews, c.wg < s.nextId) →
    ∃ t w m, exec (.workgroupPlace a core spots none) s = .next t ∧ t.wg? s.nextId = some w ∧ w.launch = n.id ∧ w.node = n.addr ∧
      w.index = BitVec.ofNat 32 n.next ∧ w.core = some core ∧ w.region = n.region ∧ w.ncrew = n.desc.crews ∧ w.scr = [] ∧
      w.tiles = List.replicate n.desc.acc ⟨List.replicate 2048 0, none, []⟩ ∧ (∀ k ∈ w.slots, k.loaded = false) ∧
      (∀ j p, spots[j]? = some p → ∃ c, t.crew? ⟨s.nextId, j⟩ = some c ∧ Initial n n.next j p c) ∧
      t.node? n.id = some m ∧ m.next = n.next + 1 ∧ m.running = true ∧ (∀ u < s.nextId, t.wg? u = s.wg? u) ∧
      ∀ b, memByte t.mem b = if b = n.addr ∧ n.running = false then marked s.mem b 2 else memByte s.mem b

/-- CREW_EXITED (R260, R295, R333): a crew that waited to exit is EXITED and counted once nothing pends, its EXIT having issued
then; when every crew of a
workgroup is EXITED and no copy uses its scratchpad the workgroup ends, its index and those it withdrew counted in DONEWG. -/
def Sys2Proof.Claims.WorkgroupEnd : Prop :=
  ∀ (r : CrewRef) (s : State) (c : Crew) (w : Wg), s.residentCrew r = some (c, w) → c.ref = r → w.uid = r.wg →
    (c.st = .score → c.wait = .exit → c.pend = [] → (∃ k ∈ s.crews, k.wg = r.wg ∧ k.idx ≠ r.idx ∧ k.st ≠ .exited) →
      ∃ t d, exec (.crewExited r) s = .next t ∧ t.crew? r = some d ∧ d.st = .exited ∧ d.ic = c.ic + 1 ∧ d.mask = 0 ∧
        d.commit = c.ic + 1 ∧ d.wake = [] ∧ t.mem = s.mem ∧ (∃ v, t.wg? r.wg = some v ∧ { v with hang := w.hang } = w ∧ v.hang = 0) ∧
        ∀ u, u ≠ r.wg → t.wg? u = s.wg? u) ∧
    ((∀ k ∈ s.crews, k.wg = r.wg → k.st = .exited) → (∀ k ∈ s.copies, k.wg ≠ r.wg) → w.isShadow = false → w.sampled = false →
      ∀ n, s.node? w.launch = some n → n.closed = false → n.done + 1 + w.withdrawn.length < n.total →
      (s.nodes.map (·.id)).Nodup → ∃ t m, exec (.crewExited r) s = .next t ∧ t.wg? r.wg = none ∧
        (∀ k ∈ t.crews, k.wg ≠ r.wg) ∧ t.node? w.launch = some m ∧ m.done = n.done + 1 + w.withdrawn.length ∧
        memNat t.mem (n.addr + 36) 4 = m.done % 2 ^ 32 ∧
        ∀ b, ¬ within (n.addr + 36) 4 b → memByte t.mem b = memByte s.mem b)

/-- WORKGROUP_SAVE and WORKGROUP_RESTORE (R267, R268, R316 to R319): a workgroup that a higher priority pre-empts is marked
so that its crews stop one by one, and once they have stopped is saved where its image fits, its scratchpad byte for byte in
the image, every crew as it was with its latches invalid, a wait for a register or a pipe excepted. A restored one has the
scratchpad that its image holds where its header places it; where the image stands as it was written, its crews are in their slots as they were, parked ones to replay, with its queues, tiles and
slots. The places of the image's parts, and what a restore takes of a changed image, are the model's (log 15). -/
def Obligations.SaveAndRestore : Prop :=
  (∀ (u a : Nat) (s : State) (w : Wg), s.wg? u = some w → w.uid = u → s.preempts w = true → w.isShadow = false →
    s.saveReady w = false → (∀ n, s.node? w.launch = some n → n.desc.allin = false) → ∃ t, exec (.workgroupSave u a) s = .next t ∧
      t.wg? u = some { w with saving := true } ∧ t.mem = s.mem ∧ t.crews = s.crews) ∧
  (∀ (u a : Nat) (s : State) (w : Wg), s.wg? u = some w → w.uid = u → s.preempts w = true → w.isShadow = false →
    s.saveReady w = true → s.saveFits w a = true → (∀ n, s.node? w.launch = some n → n.desc.allin = false) →
    (s.wgs.map (·.uid)).Nodup → (∀ c ∈ s.crews, c.runon = none) → (∀ c ∈ s.crews, c.wg = u → c.pend = []) → (s.crews.map Crew.ref).Nodup →
    w.queues.length = 8 → ∃ t v, exec (.workgroupSave u a) s = .next t ∧ t.wg? u = some v ∧ v.core = none ∧ v.saveAddr = a ∧
      (∀ b, memByte v.scr b = memByte w.scr b) ∧
      (∀ k < 4096 * w.scrgran, memByte t.mem (a + 1344 + k) = memByte w.scr k) ∧
      ∀ c ∈ s.crews, c.wg = u → ∃ d, t.crew? c.ref = some d ∧ d.pc = c.pc ∧ d.ic = c.ic ∧ d.v = c.v ∧ d.o = c.o ∧ d.s = c.s ∧
        d.p = c.p ∧ d.fmode = c.fmode ∧ d.lfsr = c.lfsr ∧ d.mask = c.mask ∧ d.wake = c.wake ∧ (c.st ≠ .score → d.st = c.st) ∧
        ∀ l ∈ d.l, l.valid = false) ∧
  ∀ (u core : Nat) (spots : List Spot) (s : State) (w : Wg), s.wg? u = some w → w.uid = u → s.restoreRoom w core = true →
    s.spotsFit core w.ncrew spots = true → s.failing = [] → w.held = [] → (∀ k ∈ s.copies, k.wg ≠ u) →
    (s.crews.map Crew.ref).Nodup → (∀ c ∈ s.crews, c.wg = u → c.idx < w.ncrew) → w.queues.length = 8 →
    let image := w.image (s.crewsOf u) [] w.saveSeq
    ∃ t v, exec (.workgroupRestore u core spots) s = .next t ∧ t.wg? u = some v ∧ v.core = some core ∧ v.hang = 0 ∧
      v.slots = w.slots ∧ t.mem = s.mem ∧
      (∀ k < 4096 * w.scrgran, memByte v.scr k = memByte s.mem (w.saveAddr + memNat s.mem (w.saveAddr + 56) 8 + k)) ∧
      (memRead s.mem w.saveAddr image.length = image → v.scr = w.scr ∧ v.queues = w.queues ∧ v.tiles = w.tiles ∧
      ∀ c ∈ s.crews, c.wg = u → ∃ d p, t.crew? c.ref = some d ∧ spots[c.idx]? = some p ∧ d.sched = p.sched ∧ d.slot = p.slot ∧
        d.waitcnt = 0 ∧ d.pc = c.pc ∧ d.ic = c.ic ∧ d.v = c.v ∧ d.s = c.s ∧ d.wake = c.wake ∧ d.reason = c.reason ∧
        d.st = if c.st = .parked ∧ c.recWait = false then .ready else c.st)

/-! Reversal -/

/-- REVERSE_STEP (R112, R323, R336, R343, R344): the instruction before is undone: the registers of its one record are
restored and the record popped; an update form IADD or IADDI subtracts; IC and PC are the undone instruction's; at its
target a REWIND ends with the latches invalid. -/
def Obligations.ReverseSteps : Prop :=
  ∀ (r : CrewRef) (s : State) (c : Crew) (w : Wg) (k : Walk), Stands s r c w → c.walk = some k → c.st = .ready →
    c.halting = .none →
    (c.ic ≤ k.target → k.why = .rewind → ∃ t d, exec (.reverseStep r) s = .next t ∧ t.crew? r = some d ∧ d.walk = none ∧
      d.pc = c.pc ∧ d.ic = c.ic ∧ d.v = c.v ∧ d.s = c.s ∧ d.wake = c.wake ∧ d.st = .ready ∧ (∀ l ∈ d.l, l.valid = false) ∧
      t.mem = s.mem ∧ t.wgs = s.wgs) ∧
    ∀ s' p, k.why = .rewind → k.target < c.ic → s.prevInstr w c.cursor = (s', .ok p) → c.backReads k p.i = [] →
      let undone (t : State) (d : Crew) : Prop := exec (.reverseStep r) s = .next t ∧ t.crew? r = some d ∧ d.ic = c.ic - 1 ∧
        d.pc = p.at_ ∧ d.s = c.s ∧ d.p = c.p ∧ d.fmode = c.fmode ∧ d.lfsr = c.lfsr ∧ d.mask = c.mask ∧ d.st = .ready ∧
        t.mem = s.mem ∧ (∀ q, q ≠ r → t.crew? q = s.crew? q) ∧ (d.walk = none ↔ c.ic - 1 ≤ k.target)
      (∀ code regs rest m, undoOf p.i = .record → (∀ f, p.i ≠ .merge f) → steppedGen p.i c = false → s'.failing = [] →
        c.wake = ⟨m, c.ic - 1, .reg code regs, false⟩ :: rest → (∀ q ∈ rest, q.ic ≠ c.ic - 1) →
        (code + regs.length ≤ c.v.length ∧ code + regs.length ≤ 96) → ∃ t d, undone t d ∧ d.wake = rest ∧
          (∀ j v, regs[j]? = some v → d.vreg (code + j) = v) ∧
          ∀ n, (n < code ∨ code + regs.length ≤ n) → d.vreg n = c.vreg n) ∧
      ((∀ q ∈ c.wake, q.ic ≠ c.ic - 1) → ∀ d0 : BitVec 7, d0.toNat < 96 → d0.toNat < c.v.length →
        let act : Mask := c.mask &&& c.guardMask p.pfx
        let less (by_ : Nat → Word) : Prop := ∃ t d, undone t d ∧ d.wake = c.wake ∧ (∀ n, n ≠ d0.toNat → d.vreg n = c.vreg n) ∧
          ∀ th < 32, lane (d.vreg d0.toNat).vals th =
            if act.getLsbD th then lane (c.vreg d0.toNat).vals th - by_ th else lane (c.vreg d0.toNat).vals th
        (∀ f, p.i = .iaddi f → f.d = d0 → less fun _ => f.imm.signExtend 32) ∧
        (∀ f, p.i = .iadd f → f.d = d0 → undoOf (.iadd f) = .inverse → f.uni = false → f.a.toNat < 96 → p.pfx = none →
          less fun th => lane (c.vreg f.a.toNat).vals th))

/-- The reverse step of an instruction reads a register of a set, other than as the destination it updates; that of a plain
XCHG, which writes memory, its destination too (R351). -/
def Sys2Proof.Claims.StepReads (i : Instr) (p : List Nat) : Prop := undoOf i = .inverse ∧ ∃ r ∈ invReads i, r ∈ p

/-- The reverse step of the instruction before a place restores a register from a record, or sets it to zero (R336, R351). -/
def Sys2Proof.Claims.StepRestores (k : Cursor) (i : Instr) (r : Nat) : Prop :=
  if undoOf i = .fresh then r ∈ (view i).vecDests
  else ∃ e ∈ k.wake, e.ic = k.ic - 1 ∧ ∃ code regs, e.body = .reg code regs ∧ code ≤ r ∧ r < code + regs.length

/-- Plan of R351 from a place of the backward walk: the set P looked through one instruction after another, as the machine
fetches them; the count it ends at, or none for FAIL. -/
inductive Sys2Proof.Claims.Plans (w : Wg) (commit : DWord) : State → Cursor → List Nat → State → Option DWord → Prop where
  /-- P is empty: the count reached. -/
  | found (s : State) (k : Cursor) : Plans w commit s k [] s (some k.ic)
  /-- the commit count is reached with P not empty -/
  | atCommit (s : State) (k : Cursor) (p : List Nat) : p ≠ [] → k.ic = commit → Plans w commit s k p s none
  /-- a reverse step that writes memory, a plain XCHG, reads a register of P -/
  | writes (s s' : State) (k : Cursor) (p : List Nat) (q : Prev) (f : MFields) : p ≠ [] → k.ic ≠ commit →
      s.prevInstr w k = (s', .ok q) → q.i = .xchg f → StepReads q.i p → Plans w commit s k p s' none
  /-- another instruction: what its reverse step writes joins P where it reads a register of P, and what the step restores
  from a record or sets to zero leaves P -/
  | back (s s' s'' : State) (k : Cursor) (p p' : List Nat) (q : Prev) (out : Option DWord) : p ≠ [] → k.ic ≠ commit →
      s.prevInstr w k = (s', .ok q) →
      ((∃ f, q.i = .xchg f) → ¬ StepReads q.i p) →
      (∀ r, r ∈ p' ↔ (r ∈ p ∨ (StepReads q.i p ∧ r ∈ (view q.i).vecDests)) ∧ ¬ StepRestores k q.i r) →
      Plans w commit s' (k.back q) p' s'' out → Plans w commit s k p s'' out

/-- LATCH_LOSS_REPLAY and REGISTER_ERROR_RECOVERY (R27, R348, R351): a word that would read an invalid latch lN does not
issue; the crew begins the walk back over N + 1 latch-shifting words. Failing words of a register are remembered until it is
read; a word that reads one does not issue, and the crew begins the walk to the count that Plan gives, or, where Plan fails,
the word raises REGISTER_UNCORRECTABLE with the code point and the threads in DETAIL; what looking through the code has cached
stays (R200). -/
def Obligations.Recovery : Prop :=
  (∀ (r : CrewRef) (s s' : State) (x : Ctx) (d : Crew) (word : Word) (n : Nat), ({ s with cur := some r } : State).ctx = some x →
    s.fetchNext x.w x.c = (s', d, .ok word) → firstFault (instrOf word) d x.w = none →
    (x.c.runon.isSome = true → stallsRunOn (instrOf word) = false) →
    (∀ m ∈ (view (instrOf word)).vecRegs, m ∉ x.c.pendingRegs) → (∀ q ∈ x.c.replays, ¬ (q.lost = true ∧ q.home = x.c.ic)) →
    x.c.failing (readRegs (instrOf word)) = [] → lostLatch (instrOf word) d = some n → x.c.pend = [] →
    ∃ t c k, exec (.latchLossReplay r) s = .next t ∧ t.crew? r = some c ∧ c.walk = some k ∧ k.why = .latch ∧ k.left = n + 1 ∧
      k.home = x.c.ic ∧ c.st = .ready ∧ c.pc = x.c.pc ∧ c.ic = x.c.ic ∧ c.v = x.c.v ∧ c.wake = x.c.wake ∧
      (∀ l ∈ c.l, l.valid = false) ∧ t.mem = s.mem ∧ (∀ u, t.wg? u = s.wg? u) ∧ ∀ q, q ≠ r → t.crew? q = s.crew? q) ∧
  (∀ (r : CrewRef) (code : BitVec 7) (bad : Mask) (s : State) (c : Crew) (w : Wg), Stands s r c w → bad ≠ 0 →
    (vecKind code = .v ∧ code.toNat < 96 ∧ code.toNat < c.v.length ∨ vecKind code = .o ∧ 96 ≤ code.toNat) → c.st ≠ .exited →
    ∃ t d, exec (.registerErrorRecovery r code bad) s = .next t ∧ t.crew? r = some d ∧ d = { c with badRegs := d.badRegs } ∧
      (∃ m, (code.toNat, m) ∈ d.badRegs ∧ bad &&& m = bad) ∧ (∀ q, q ≠ r → t.crew? q = s.crew? q) ∧ t.mem = s.mem ∧ t.wgs = s.wgs) ∧
  ∀ (i : Instr) (s s' : State) (x : Ctx) (r : Nat) (rs : List Nat) (m : Mask) (out : Option DWord), Judged i s x →
    firstFault i x.c x.w = none → (isPrivileged i = true → s.systemWg x.w = true) → x.c.runon = none → x.c.pend = [] →
    x.c.replays = [] → x.c.failing (readRegs i) = r :: rs → x.c.badRegs.find? (·.1 == r) = some (r, m) → s.failing = [] →
    Plans x.w x.c.commit s x.c.cursor (r :: rs) s' out → (x.c.commit ≤ x.c.ic) →
    match out with
    | some target => ∃ t c k, exec i s = .next t ∧ t.crew? x.c.ref = some c ∧ c.walk = some k ∧ k.why = .recover ∧
        k.target = target ∧ k.home = x.c.ic ∧ c.st = .ready ∧ c.pc = x.c.pc ∧ c.ic = x.c.ic ∧ c.v = x.c.v ∧ c.o = x.c.o ∧
        c.wake = x.c.wake ∧ (∀ l ∈ c.l, l.valid = false) ∧ SameOutside x s t
    | none => exec i s = .next (s'.raiseFault x.c { code := .registerUncorrectable, detail := r + m.toNat * 2 ^ 32 })

/-! The reliability unit -/

/-- WATCHDOG_EXPIRED (R295, R350): at its limit, WDOG not 0, every crew that is READY or PARKED raises the fault at its next
instruction, with the stall reason that it has now; a BLOCKED one of a region that is no system region is HALTED at its
instruction with REASON 2; an EXITED one and crews of other workgroups stay; the counter starts again. -/
def Sys2Proof.Claims.Watchdog : Prop :=
  ∀ (u : Nat) (s : State) (w : Wg) (e : Eff), s.wg? u = some w → w.uid = u → w.core.isSome = true → w.isShadow = false →
    (∀ c ∈ s.crews, c.wg = u → c.st ≠ .halted) → s.effOf w = some e → e.wdog ≠ 0 → 2 ^ (19 + e.wdog) ≤ w.hang →
    (∀ c ∈ s.crews, c.runon = none) → (∀ v ∈ s.wgs, v.shadowOf = none) → (s.crews.map Crew.ref).Nodup → (s.wgs.map (·.uid)).Nodup →
    ∃ t v, exec (.watchdogExpired u) s = .next t ∧ t.wg? u = some v ∧ v.hang = 0 ∧ ∀ c ∈ s.crews, ∃ d, t.crew? c.ref = some d ∧
      (c.wg ≠ u ∨ c.st = .exited → d = c) ∧
      (c.wg = u → c.st = .parked → d = { c with expired := some 14 }) ∧
      (c.wg = u → c.st = .ready → ∃ n, d = { c with expired := some n } ∧
        (∀ k, c.walk = some k → n = if k.why = .latch then 20 else 19) ∧ (c.walk = none → c.replays = [] → n = 16)) ∧
      (c.wg = u → c.st = .blocked → e.system = false → d.st = .halted ∧ d.reason = .fault ∧ d.pc = c.pc ∧ d.ic = c.ic)

/-- SCRUB_ERROR_REPORT, TIMING_REPLAY, CORE_REMOVAL, FAULT_QUEUE_RECHECK, DVFS_ADJUST and PC_SAMPLE (R266, R349, R352, R355,
R360): a failing unit is logged with its address; a replay counts; a core without workgroups leaves placement, one that
saves its workgroup too, and one whose workgroup has yet to stop takes no other; a record that waited goes to the freed slot
and its crew is free; clock moves from the core of a launch whose crews wait most on barriers to the one whose crews wait
least, by a number of MHz that the model makes an argument (log 28); a sample names the crew. -/
def Sys2Proof.Claims.ReliabilityUnit : Prop :=
  (∀ (a : Nat) (s : State), populated a 1 = true → ∃ t, exec (.scrubErrorReport a) s = .next t ∧
    Logs s t .memoryUncorrectable 3 0 (8 * (a / 8)) 0 ∧ (s.port.errBase = 0 → a / 8 ∈ t.failing)) ∧
  (∀ (n : Nat) (s : State), n < s.cores.length → (s.core n).removed = false →
    (∃ t, exec (.timingReplay n) s = .next t ∧ SameWork s t ∧ t.cores.length = s.cores.length ∧
      t.core n = { s.core n with timreplay := (s.core n).timreplay + 1 } ∧ ∀ k, k ≠ n → t.core k = s.core k) ∧
    (∀ saves, s.onCore n = [] → ∃ t, exec (.coreRemoval n saves) s = .next t ∧ (t.core n).removed = true ∧
      (s.port.errBase ≠ 0 → s.port.errLen ≠ 0 → t.port.errCnt = s.port.errCnt + 1) ∧
      (∀ k, k ≠ n → t.core k = s.core k) ∧ ∀ ask, t.coreRoom n ask = false) ∧
    (∀ saves w a, s.onCore n = [w] → w.isShadow = false → s.saveReady w = true → (s.savePlace w).isSome = true →
      mapGet saves w.uid = some a → s.saveFits w a = true → s.wg? w.uid = some w → (∀ c ∈ s.crews, c.runon = none) →
      ∃ t v, exec (.coreRemoval n saves) s = .next t ∧ (t.core n).removed = true ∧ t.wg? w.uid = some v ∧ v.core = none ∧
        v.saveAddr = a) ∧
    (∀ saves w, s.onCore n = [w] → w.isShadow = false → s.saveReady w = false → (s.savePlace w).isSome = true →
      (s.core n).leaving = false → s.wg? w.uid = some w → ∃ t, exec (.coreRemoval n saves) s = .next t ∧
        (t.core n).removed = false ∧ t.wg? w.uid = some { w with saving := true } ∧ t.mem = s.mem ∧
        ∀ ask, t.coreRoom n ask = false)) ∧
  (∀ (rcb : Nat) (s : State) (r : Region) (bs : List Byte) (q : CrewRef) (c : Crew) (w : Wg) (e : Eff), s.region? rcb = some r →
    r.rcb = rcb → r.waiting = [(bs, q)] → bs.length = 64 → s.crew? q = some c → c.ref = q → s.wg? q.wg = some w → w.region = rcb →
    s.effOf w = some e → s.slotFull { r with eff := e } = false → (∀ k ∈ s.crews, k.runon = none) →
    let slot := Region.slotAddr { r with eff := e }
    ∃ t d v, exec (.faultQueueRecheck rcb) s = .next t ∧ t.region? rcb = some v ∧
      v = { r with put := r.put + 1, lost := 0, waiting := [] } ∧ t.crew? q = some d ∧ d = { c with recWait := false, clock := d.clock } ∧
      ∀ b, memByte t.mem b = if slot ≤ b ∧ b < slot + 64 then
        (if b = slot + 2 then BitVec.ofNat 8 (min r.lost 255) else bs.getD (b - slot) 0) else memByte s.mem b) ∧
  (∀ (p q mhz : Nat) (s : State) (l : NodeRun), p < s.cores.length → q < s.cores.length → 2400 + mhz ≤ (s.core p).mhz →
    (s.core q).mhz + mhz ≤ 4200 → l ∈ s.nodes → p ∈ s.coresOf l.id → q ∈ s.coresOf l.id →
    let waits (k : Nat) : Nat := (mapGet (s.core k).waits l.id).getD 0
    waits q < waits p → (∀ k ∈ s.coresOf l.id, waits k ≤ waits p ∧ waits q ≤ waits k) →
    ∃ t, exec (.dvfsAdjust p q mhz) s = .next t ∧ SameWork s t ∧
      t.core p = { s.core p with mhz := (s.core p).mhz - mhz, waits := [] } ∧
      t.core q = { s.core q with mhz := (s.core q).mhz + mhz, waits := [] } ∧
      ∀ k, k ≠ p → k ≠ q → t.core k = s.core k) ∧
  ∀ (core n : Nat) (s : State) (q : Sched) (c : Crew) (w : Wg) (ch : Chan), core < s.cores.length →
    (s.core core).scheds[n]? = some q → 8 ≤ s.port.profrate.toNat % 32 → s.port.profrate.toNat % 32 ≤ 20 →
    s.nextSampled core n q.sampled = some c → s.wg? c.wg = some w → c.st = .blocked →
    s.port.chans.filter (fun k => k.ctl.getLsbD 0 && k.ctl.toNat / 2 ^ 32 == w.region / 512) = [ch] →
    let size := 2 ^ (ch.ctl.toNat / 2 ^ 16 % 32)
    let at_ := ch.base.toNat + ch.next % size
    ch.next % size + 16 ≤ size → c.idx < 32 → ∃ t q', exec (.pcSample core n) s = .next t ∧ (t.core core).scheds[n]? = some q' ∧
      q' = { q with sampled := c.slot } ∧ holdsNat t at_ 4 w.index.toNat ∧
      holdsNat t (at_ + 4) 4 (c.idx * 2 ^ 17 + s.stallReason w c false * 2 ^ 23) ∧ holdsNat t (at_ + 8) 8 c.pc.toNat ∧
      MemBut s t at_ 16 ∧ t.wgs = s.wgs

/-- Nothing of a workgroup is left: itself, its crews, its copy commands. -/
def Sys2Proof.Claims.Gone (t : State) (u : Nat) : Prop :=
  t.wg? u = none ∧ (∀ c ∈ t.crews, c.wg ≠ u) ∧ ∀ k ∈ t.copies, k.wg ≠ u

/-- STATE_ERROR_KILL in crew state, CTLOP_KILL_WORKGROUP, CTLOP_KILL_FAULT_DOMAIN and a die-to-die link that goes down (R245,
R298, R308, R352, R354, R356, R377): the workgroups are gone with their crews and copies; no other workgroup is. That the link
fails every node at the moment it goes down is the model's reading of R356 (log 19). An error in a latch makes it invalid, one in a word of the scratchpad makes the word fail, and neither kills (R27, R352). -/
def Obligations.Kills : Prop :=
  (∀ (u : Nat) (s : State) (w : Wg), s.wg? u = some w → w.isShadow = false → (∀ v ∈ s.wgs, v.shadowOf ≠ some u) →
    ∃ t, exec (.stateErrorKill ⟨u, .crewState⟩) s = .next t ∧ Gone t u ∧ ∀ v, v ≠ u → (t.wg? v).isSome = (s.wg? v).isSome) ∧
  (∀ (u k n : Nat) (s : State) (w : Wg) (c : Crew), s.wg? u = some w → w.uid = u → s.crew? ⟨u, k⟩ = some c → c.ref = ⟨u, k⟩ →
    (n < 4 → ∃ t d, exec (.stateErrorKill ⟨u, .latch k n⟩) s = .next t ∧ t.crew? ⟨u, k⟩ = some d ∧ d = { c with l := d.l } ∧
      (d.latch n).valid = false ∧ (∀ m, m ≠ n → d.latch m = c.latch m) ∧ t.mem = s.mem ∧ t.wgs = s.wgs) ∧
    (w.core.isSome = true → n < 256 * w.scrgran → ∃ t v, exec (.stateErrorKill ⟨u, .scratch n⟩) s = .next t ∧
      t.wg? u = some v ∧ v = { w with scrFailing := v.scrFailing } ∧ n ∈ v.scrFailing ∧ t.mem = s.mem ∧ t.crews = s.crews)) ∧
  (∀ (v : DWord) (s : State) (c : Crew) (w : Wg), s.port.ready = true → s.portUp = true → v.toNat / 2 ^ 16 = 3 →
    v.toNat / 2 ^ 14 % 4 = 0 → s.target (v.setWidth 32) = some (c, w) → s.wg? w.uid = some w →
    (∀ q ∈ s.wgs, q.shadowOf ≠ some w.uid) →
    ∃ t, exec (.ctlopKillWorkgroup v) s = .next t ∧ t.port.ctlstat = 0 ∧ Gone t w.uid ∧
      ∀ k, k ≠ w.uid → (t.wg? k).isSome = (s.wg? k).isSome) ∧
  (∀ (v : DWord) (s : State) (c : Crew) (w : Wg), s.port.ready = true → s.portUp = true → v.toNat / 2 ^ 16 = 4 →
    v.toNat / 2 ^ 14 % 4 = 0 → s.target (v.setWidth 32) = some (c, w) → (∀ q ∈ s.wgs, q.shadowOf = none) →
    ∃ t, exec (.ctlopKillFaultDomain v) s = .next t ∧ t.port.ctlstat = 0 ∧
      ∀ q ∈ s.wgs, (s.wgs.any (fun k => k.uid == q.uid && s.domainFor k == s.domainFor w) = true → Gone t q.uid) ∧
        (s.wgs.any (fun k => k.uid == q.uid && s.domainFor k == s.domainFor w) = false → (t.wg? q.uid).isSome = true)) ∧
  ∀ (n : Nat) (s : State), n < 7 → n < s.links.length → (s.link n).training = some 2 → (∀ q ∈ s.wgs, q.shadowOf = none) →
    ∃ t, exec (.linkRetrainDone n false) s = .next t ∧ (t.link n).up = false ∧ t.wgs = [] ∧ ∀ q ∈ s.wgs, Gone t q.uid

/-! Links and power -/

/-- The links (R356): a flit that fails its check is replayed and counted; more than 16 replays retrain one step down, a
quiet link one step up; a finished retrain takes the step, logged where it is another; one that fails tries the next step,
and at step 2 takes the link down. A remote access reads nothing away and writes its bytes to populated memory. Whether
earlier replays still count is a free choice (log 5); the steps of a retrain, and remote accesses as steps, are the model's
(logs 19 and 24). -/
def Sys2Proof.Claims.Links : Prop :=
  (∀ (n : Nat) (s : State), linkNumber n → n < s.links.length →
    let k := s.link n
    let sets (i : Instr) (q : Link) : Prop := ∃ t, exec i s = .next t ∧ t.link n = q ∧ SameWork s t ∧
      ∀ m, m ≠ n → t.link m = s.link m
    (k.up = true → k.training = none → exec (.flitReceive n true) s = .next s ∧
      (sets (.flitReceive n false) { k with replays := k.replays + 1 } ∨ sets (.flitReceive n false) { k with replays := 1 }) ∧
      (16 < k.replays → sets (.linkRetrainDown n) { k with training := some (if k.rate = 0 then 1 else 2) }) ∧
      (k.replays ≤ 16 → k.rate ≠ 0 → sets (.linkRetrainUp n) { k with training := some (k.rate - 1) })) ∧
    (∀ r, k.training = some r →
      (r = k.rate → sets (.linkRetrainDone n true) { k with training := none, replays := 0 }) ∧
      (r ≠ k.rate → ∃ t, exec (.linkRetrainDone n true) s = .next t ∧
        t.link n = { k with rate := r, training := none, replays := 0 } ∧ Logs s t .linkDegraded 3 0 0 (n + r * 2 ^ 8)) ∧
      (r < 2 → sets (.linkRetrainDone n false) { k with training := some (r + 1) }) ∧
      (2 ≤ r → 8 ≤ n → ∃ t, exec (.linkRetrainDone n false) s = .next t ∧
        t.link n = { k with rate := 15, up := false, training := none, replays := 0 } ∧ t.wgs = s.wgs ∧
        (s.groups = [] → Logs s t .linkDegraded 3 0 0 (n + 15 * 2 ^ 8))))) ∧
  ∀ (a len : Nat) (bytes : List Byte) (s : State), exec (.remoteAccess a (.read len)) s = .next s ∧
    (populated a bytes.length = false → exec (.remoteAccess a (.write bytes)) s = .next s) ∧
    (populated a bytes.length = true → ∃ t, exec (.remoteAccess a (.write bytes)) s = .next t ∧ t.wgs = s.wgs ∧ t.nodes = s.nodes ∧
      ∀ b, memByte t.mem b = if a ≤ b ∧ b < a + bytes.length then bytes.getD (b - a) 0 else memByte s.mem b)

/-- Resets and power (R372, R373, R382): power-good and a cold reset zero memory and leave no work, with the port READY or in
RECOVERY with its code, one of R372; after a shutdown by temperature a boot that succeeds shows BOOTERR 0x20; a warm reset
ends all work, keeps memory and puts the registers with a stated reset value back to it; the thermal shutdown loses all work
and HBM4 and keeps DDR-5, and is no reset, so that the count of the error log and the doorbells stay (logs 22 and 23 say what
R373 and R382 leave to the model, log 4 what the rest of the state is after a boot); a reading past a limit raises the alarm,
one well below clears it, and where the alarm is not raised a reading within the limits is an ordinary one. -/
def Sys2Proof.Claims.Power : Prop :=
  (∀ (boot : BootResult) (s : State), (∀ code, boot = .stopped code → code ∈ [(1 : Byte), 2, 3, 0x10, 0x11]) →
    ∀ i ∈ [Instr.powerOnReset boot, .coldReset boot], ∃ t, exec i s = .next t ∧ t.mem = [] ∧
    t.tags = [] ∧ t.tlb = [] ∧ t.live = [] ∧ t.walker = [] ∧ t.crews = [] ∧ t.wgs = [] ∧ t.nodes = [] ∧ t.regions = [] ∧
    t.copies = [] ∧ t.groups = [] ∧
    t.powered = true ∧ t.alarm = false ∧ t.cores = State.reset.cores ∧ t.links = State.reset.links ∧
    (match boot with
      | .ready => t.port.ready = true ∧ t.port.recovery = false ∧
          t.port.booterr = if s.powered then 0 else 0x20
      | .stopped code => t.port.ready = false ∧ t.port.recovery = true ∧ t.port.booterr = code) ∧
    t.port.devnum = 0 ∧ t.port.errBase = 0 ∧ t.port.pwrlim = 2400 ∧ t.port.templim = 95 ∧ t.port.profrate = 0) ∧
  (∀ (s : State), ∃ t, exec .warmReset s = .next t ∧ t.mem = s.mem ∧ t.tags = [] ∧ t.tlb = [] ∧ t.crews = [] ∧ t.wgs = [] ∧
    t.nodes = [] ∧ t.regions = [] ∧ t.copies = [] ∧ t.groups = [] ∧ t.port.errCnt = 0 ∧ (∀ l ∈ t.port.dbells, l = []) ∧
    t.port.devnum = 0 ∧ t.port.errBase = 0 ∧ t.port.pwrlim = 2400 ∧ t.port.templim = 95 ∧ t.port.force = false ∧
    (∀ c ∈ t.port.chans, c.ctl = 0) ∧ (∀ k ∈ t.cores, k.scrstall = 0) ∧
    t.port.temp = s.port.temp ∧ t.port.nonce = s.port.nonce ∧ t.powered = s.powered) ∧
  (∀ (s : State), memWf s.mem = true → ∃ t, exec .thermalShutdown s = .next t ∧ t.powered = false ∧ t.crews = [] ∧ t.wgs = [] ∧
    t.nodes = [] ∧ 110 ≤ t.port.temp ∧ t.port.errCnt = s.port.errCnt ∧ t.port.pwrlim = s.port.pwrlim ∧
    t.port.dbells = s.port.dbells ∧ t.links = s.links ∧
    ∀ b, memByte t.mem b = if b < 768 * 2 ^ 30 then 0 else memByte s.mem b) ∧
  ∀ (watts celsius : Nat) (s : State),
    let readings (t : State) : Prop := SameWork s t ∧ t.port.watts = watts ∧ t.port.temp = celsius
    let past := s.port.pwrlim.toNat < watts ∨ s.port.templim.toNat < celsius ∨ s.port.force = true
    let below := watts * 100 < 95 * s.port.pwrlim.toNat ∧ celsius + 5 ≤ s.port.templim.toNat ∧ s.port.force = false
    celsius < 110 →
    (past ∨ (s.alarm = true ∧ ¬ below) → ∃ t,
      exec (.powerAlarmRaise watts celsius) s = .next t ∧ t.alarm = true ∧ readings t) ∧
    ((s.alarm = true ∧ below) ∨ (s.alarm = false ∧ ¬ past) → ∃ t,
      exec (.powerAlarmClear watts celsius) s = .next t ∧ t.alarm = false ∧ readings t)

/-! The control-node port -/

/-- Transactions of the control node while its link carries them (R9, R356, R374, Table 3): a read of populated memory gives
its bytes and changes nothing else; a write changes those bytes alone; what the port refuses writes an error-log record and
has no other effect; PWRLIM takes a value of its range, and what a write outside it does, or one of bits 11:0 of ERRLOGBASE,
is the model's (log 17); a register that a read clears answers with its value and is 0. -/
def Obligations.PortTransactions : Prop :=
  (∀ (a n : Nat) (s : State), s.port.ready = true → s.portUp = true → populated a n = true → 1 ≤ n → a % 256 + n ≤ 256 → a + n ≤ 0xF00000000000 →
    (∃ t, exec (.controlNodeRead a n) s = .next t ∧ t.port.reply = (List.range n).map (fun k => memByte s.mem (a + k)) ∧
      { t with port := { t.port with reply := s.port.reply, clock := s.port.clock } } = s) ∧
    ∀ bytes : List Byte, bytes.length = n → ∃ t, exec (.controlNodeWrite a bytes) s = .next t ∧ t.wgs = s.wgs ∧
      t.nodes = s.nodes ∧ t.port = s.port ∧
      ∀ b, memByte t.mem b = if a ≤ b ∧ b < a + n then bytes.getD (b - a) 0 else memByte s.mem b) ∧
  (∀ (a n : Nat) (bytes : List Byte) (s : State), s.portUp = true → bytes.length = n → a < 0xF00000000000 →
    (s.port.ready = false ∨ populated a n = false ∨ n = 0 ∨ 256 < a % 256 + n) →
    (∃ t, exec (.controlNodeRead a n) s = .next t ∧ Logs s t .addressRange 2 1 a 0 ∧ t.port.reply = s.port.reply) ∧
    ∃ t, exec (.controlNodeWrite a bytes) s = .next t ∧ Logs s t .addressRange 2 2 a 0) ∧
  (∀ (off size : Nat) (v : DWord) (s : State), s.port.ready = true → s.portUp = true → off < 0x10000 →
    ((size ≠ 4 ∧ size ≠ 8) ∨ off % size ≠ 0 → ∃ t, exec (.mgmtRegisterWrite off size v) s = .next t ∧
      Logs s t .addressRange 2 2 (0xF00000000000 + off) 0) ∧
    (∃ t, exec (.mgmtRegisterWrite 0x500 4 v) s = .next t ∧ SameWork s t ∧ t.port.pwrlim =
      if 600 ≤ v.toNat % 2 ^ 32 ∧ v.toNat % 2 ^ 32 ≤ 2400 then v.setWidth 32 else s.port.pwrlim) ∧
    (∃ t, exec (.mgmtRegisterWrite 0 4 v) s = .next t ∧ SameWork s t ∧ t.port.devnum.toNat = v.toNat % 2 ^ 16) ∧
    (∃ t, exec (.mgmtRegisterWrite 0x100 8 v) s = .next t ∧ SameWork s t ∧
      t.port.errBase.toNat = v.toNat / 4096 * 4096)) ∧
  ∀ (s : State), s.port.ready = true → s.portUp = true → ∀ e ∈ [(Instr.grpstatRead, fun p : Port => p.grpstat), (.ctlstatRead, fun p => p.ctlstat),
      (.attstatRead, fun p => p.attstat), (.errlostRead, fun p => p.errLost)],
    ∃ t, exec e.1 s = .next t ∧ t.port.reply = numBytes (e.2 s.port).toNat 4 ∧ e.2 t.port = 0 ∧ SameWork s t

/-- Control operations (R306, R308, R309, R377): CTLOP acts on the crew in the slot it names without an ownership check, and
CTLSTAT reports 0, TARGET_ABSENT, or CONTROL_INVALID for a reserved bit. -/
def Obligations.ControlOperations : Prop :=
  ∀ (v : DWord) (s : State), s.port.ready = true → s.portUp = true →
    let ops := [Instr.ctlopResume v, .ctlopHaltCrew v, .ctlopHaltWorkgroup v, .ctlopKillWorkgroup v, .ctlopKillFaultDomain v]
    let op := v.toNat / 2 ^ 16 % 16
    (∀ i, ops[op]? = some i → (v.toNat / 2 ^ 20 ≠ 0 ∨ v.toNat / 2 ^ 14 % 4 ≠ 0) → ∃ t, exec i s = .next t ∧
      t.port.ctlstat = BitVec.ofNat 32 Code.controlInvalid.num ∧ SameWork s t) ∧
    (v.toNat / 2 ^ 20 = 0 → v.toNat / 2 ^ 14 % 4 = 0 →
      (∀ i, ops[op]? = some i → s.target (v.setWidth 32) = none → ∃ t, exec i s = .next t ∧
        t.port.ctlstat = BitVec.ofNat 32 Code.targetAbsent.num ∧ SameWork s t) ∧
      ∀ c w, s.target (v.setWidth 32) = some (c, w) → OnlyCrew s c → (s.crews.map Crew.ref).Nodup → c.wg = w.uid →
        (op = 0 → ∃ t d, exec (.ctlopResume v) s = .next t ∧ t.port.ctlstat = 0 ∧ t.crew? c.ref = some d ∧ ResumedAs c d ∧
          t.mem = s.mem ∧ ∀ q, q ≠ c.ref → t.crew? q = s.crew? q) ∧
        (op = 1 → ∃ t d, exec (.ctlopHaltCrew v) s = .next t ∧ t.port.ctlstat = 0 ∧ t.crew? c.ref = some d ∧ HaltedAs .halt c d ∧
          t.mem = s.mem ∧ ∀ q, q ≠ c.ref → t.crew? q = s.crew? q) ∧
        (op = 2 → ∃ t, exec (.ctlopHaltWorkgroup v) s = .next t ∧ t.port.ctlstat = 0 ∧ t.mem = s.mem ∧
          ∀ k ∈ s.crews, ∃ d, t.crew? k.ref = some d ∧ (k.wg ≠ w.uid → d = k) ∧ (k.wg = w.uid → HaltedAs .halt k d)))

/-- Attestation (R381): ATTREQ starts a report at a populated aligned address unless one is in progress, HBM4 that has no power
counting as not populated, which is the model's (log 22); each report that was
started is written, holds the nonce of its start and the fields of Table 6, and changes no other byte of memory. The byte
order of the CORECFG values that COREHASH is taken of is the model's reading (log 18). -/
def Obligations.Attestation : Prop :=
  (∀ (a : DWord) (s : State), s.port.ready = true → s.portUp = true →
    let ok := a.toNat % 64 = 0 ∧ there s a.toNat 256
    (s.port.attstat = 1 → exec (.attreq a) s = .next s) ∧
    (s.port.attstat ≠ 1 → ok → ∃ t, exec (.attreq a) s = .next t ∧ t.port.attstat = 1 ∧ t.port.att = s.port.att ++ [(a.toNat, s.port.nonce)] ∧
      SameWork s t) ∧
    (s.port.attstat ≠ 1 → ¬ ok → ∃ t, exec (.attreq a) s = .next t ∧ t.port.attstat = 3 ∧ t.port.att = s.port.att ∧ SameWork s t)) ∧
  ∀ (a : Nat) (nonce : BitVec 256) (rest : List (Nat × BitVec 256)) (s : State), s.port.att = (a, nonce) :: rest → ∃ t,
    exec .attestationReportWritten s = .next t ∧ t.port.attstat = 2 ∧ t.port.att = rest ∧ holdsNat t a 32 nonce.toNat ∧
    holdsNat t (a + 32) 32 Config.fwHash.toNat ∧ holdsNat t (a + 64) 8 Config.fwVersion.toNat ∧
    holdsNat t (a + 72) 8 Config.floor.toNat ∧ holdsNat t (a + 80) 16 Config.serial.toNat ∧
    memRead t.mem (a + 96) 32 = sha256 ((List.range 4).flatMap fun d => numBytes (Config.coreCfg d).toNat 16) ∧
    holdsNat t (a + 128) 64 Config.pubKey.toNat ∧ MemBut s t a 256 ∧ t.wgs = s.wgs

/-! The debug interface -/

/-- The operations on crews (R277, R305, R323, R347, R357, R358): outside the attached subtree TARGET_DENIED (the model's
choice, log 30), where no crew is, or a shadow's, TARGET_ABSENT, on a crew that is not HALTED TARGET_STATE; otherwise as HALT
and RESUME with REASON 5, a count of instructions, a walk back, and reads and writes of a HALTED crew's state. A value of 32
bits is written from the low word of the operand, which is the model's (log 25). -/
def Sys2Proof.Claims.DebugCrews : Prop :=
  (∀ (r : CrewRef) (i : Instr) (s : State), onOneCrew r i → s.port.ready = true → s.portUp = true →
    (s.wg? r.wg = none → RefusedWith i s .targetAbsent) ∧
    ∀ c w, Stands s r c w →
      (w.isShadow = true → RefusedWith i s .targetAbsent) ∧
      (w.isShadow = false → s.attached w = false → RefusedWith i s .targetDenied) ∧
      (w.isShadow = false → s.attached w = true → c.st ≠ .halted → i ≠ .debugHaltCrew r → i ≠ .debugResume r → i ≠ .debugReadWake r →
        RefusedWith i s .targetState)) ∧
  (∀ (r : CrewRef) (s : State) (c : Crew) (w : Wg), Stands s r c w → s.port.ready = true → s.portUp = true → w.isShadow = false →
    s.attached w = true → c.runon = none →
    let does (i : Instr) (d : Crew) : Prop := ∃ t, exec i s = .next t ∧ Told t none [] ∧ t.crew? r = some d ∧ t.mem = s.mem ∧
      ∀ q, q ≠ r → t.crew? q = s.crew? q
    (∃ d, does (.debugHaltCrew r) d ∧ HaltedAs .debug c d) ∧
    (∃ d, does (.debugResume r) d ∧ ResumedAs c d) ∧
    (∃ t, exec (.debugReadWake r) s = .next t ∧ Told t none (c.wake.reverse.flatMap WakeRec.bytes) ∧ { t with dbg := s.dbg } = s) ∧
    (c.st = .halted →
      (∀ n, 1 ≤ n → n ≤ 2 ^ 32 → c.walk = none → c.recWait = false →
        does (.debugStep r n) { c with st := .ready, reason := .none, parkpend := false, steps := some n }) ∧
      (∀ t : DWord, (c.ic < t → RefusedWith (.debugBack r t) s .controlInvalid) ∧
        (t ≤ c.ic → t < c.commit → RefusedWith (.debugBack r t) s .rewindPastCommit) ∧
        (t < c.ic → c.commit ≤ t → ∃ d, does (.debugBack r t) d ∧ d.walk = some ⟨t, .debug, 0, t, [], [], []⟩ ∧ d.st = .halted ∧
          d.pc = c.pc ∧ d.ic = c.ic ∧ d.v = c.v ∧ ∀ l ∈ d.l, l.valid = false)) ∧
      (∀ m bytes, (m, bytes) ∈ [(DebugItem.fmode, numBytes c.fmode.toNat 4), (.pc, numBytes c.pc.toNat 8),
          (.sreg 3, numBytes (c.sreg 3).toNat 4), (.pred 2, numBytes (c.pred 2).toNat 4),
          (.mailbox 1, numBytes (c.mbox 1).val.toNat 4), (.dir, numBytes (if c.walk.isSome then 1 else 0) 4),
          (.target, numBytes ((c.walk.map (·.target.toNat)).getD 0) 8)] →
        ∃ t, exec (.debugReadState r m) s = .next t ∧ Told t none bytes ∧ { t with dbg := s.dbg } = s) ∧
      (∀ (code : BitVec 7) (th : BitVec 5), vecKind code = .v → code.toNat < 96 → code.toNat < c.v.length →
        (∃ t, exec (.debugReadState r (.reg code th)) s = .next t ∧
          Told t none (numBytes (lane (c.vreg code.toNat).vals th.toNat).toNat 4) ∧ { t with dbg := s.dbg } = s) ∧
        ∀ v : DWord, ∃ d, does (.debugWriteState r (.reg code th) v) d ∧ (∀ n, n ≠ code.toNat → d.vreg n = c.vreg n) ∧
          (∀ u < 32, lane (d.vreg code.toNat).vals u = if u = th.toNat then v.setWidth 32 else lane (c.vreg code.toNat).vals u) ∧
          d.pc = c.pc ∧ d.ic = c.ic ∧ d.s = c.s) ∧
      ∀ v : DWord, (∃ d, does (.debugWriteState r .pc v) d ∧ d.pc = v ∧ d.commit = c.ic ∧ d.wake = [] ∧ d.ic = c.ic ∧ d.v = c.v) ∧
        ∀ n : BitVec 5, does (.debugWriteState r (.sreg n) v) { c with s := c.s.set n.toNat (v.setWidth 32) })) ∧
  (∀ (u : Nat) (s : State) (w : Wg), s.wg? u = some w → s.port.ready = true → s.portUp = true → w.core.isSome = true →
    w.isShadow = false → s.attached w = true → (∀ c ∈ s.crews, c.runon = none) → (s.crews.map Crew.ref).Nodup → ∃ t, exec (.debugHaltWorkgroup u) s = .next t ∧ Told t none [] ∧
      t.mem = s.mem ∧ ∀ k ∈ s.crews, ∃ d, t.crew? k.ref = some d ∧ (k.wg ≠ u → d = k) ∧ (k.wg = u → HaltedAs .debug k d)) ∧
  ∀ (r : CrewRef) (s : State) (c : Crew) (w : Wg) (n : Nat), Stands s r c w → c.steps = some n → c.st = .blocked →
    ∃ t d, exec (.debugStepEnd r) s = .next t ∧ t.crew? r = some d ∧ d.st = .halted ∧ d.reason = .debug ∧ d.steps = none ∧
      d.pc = c.pc ∧ d.ic = c.ic ∧ t.mem = s.mem ∧ ∀ q, q ≠ r → t.crew? q = s.crew? q

/-- Attachment, breakpoints and watchpoints (R334, R358, R359): to one region at a time; a breakpoint number is enabled or
not, and a watchpoint set or cleared, for the attached subtree. That an attachment begins with none set, that none can be set
while nothing is attached, and that crews of the subtree which run on are rolled back as one is set, is the model's (log 26). -/
def Sys2Proof.Claims.DebugPoints : Prop :=
  ∀ (s : State), s.port.ready = true → s.portUp = true →
    let sets (i : Instr) (p : Debug → Prop) : Prop := ∃ t, exec i s = .next t ∧ p t.dbg ∧ { t with dbg := s.dbg } = s
    (∀ region, sets (.debugAttach region) fun d => d.region = some region ∧ d.breaks = 0 ∧ d.watch = [none, none, none, none]) ∧
    sets .debugDetach (fun d => d.region = none) ∧
    (s.dbg.region.isSome = true →
      (∀ n : BitVec 5, sets (.debugBreakpointOn n) (fun d => d.region = s.dbg.region ∧ d.watch = s.dbg.watch ∧
          ∀ k < 32, d.breaks.getLsbD k = (s.dbg.breaks.getLsbD k || k == n.toNat)) ∧
        sets (.debugBreakpointOff n) fun d => d.region = s.dbg.region ∧ d.watch = s.dbg.watch ∧
          ∀ k < 32, d.breaks.getLsbD k = (s.dbg.breaks.getLsbD k && k != n.toNat)) ∧
      ∀ n : BitVec 2, (∀ p : Watchpoint, (∃ k, 2 ≤ k ∧ k ≤ 12 ∧ p.size = 2 ^ k) → p.base % p.size = 0 → p.space < 3 →
          let set_ (d : Debug) : Prop := d.region = s.dbg.region ∧ d.breaks = s.dbg.breaks ∧
            d.watch = s.dbg.watch.set n.toNat (some p)
          ((∀ c ∈ s.crews, c.runon = none) → sets (.debugWatchpointSet n p) set_) ∧
          ∃ t, exec (.debugWatchpointSet n p) s = .next t ∧ set_ t.dbg ∧ t.mem = s.mem ∧ t.wgs = s.wgs ∧
            ∀ c w, s.crew? c.ref = some c → s.wg? c.wg = some w → s.attached w = false → t.crew? c.ref = some c) ∧
        sets (.debugWatchpointClear n) fun d => d.region = s.dbg.region ∧ d.breaks = s.dbg.breaks ∧
          d.watch = s.dbg.watch.set n.toNat none)

/-! Encodings -/

/-- Each word that the spec writes out decodes to the instruction it stands for. -/
def Obligations.DecodeSpecWords : Prop :=
  ∀ e ∈ specWords, decodeWord e.1 = .ok e.2 ∧ decodeTableWord 32 e.1.toNat = some e.2

/-- Every instruction that is a word, its selector bits assigned, has an encoding that decodes to it with every operand at
every value, at the head of any bytes (R46, R52, R66 to R69). -/
def Sys2Proof.Claims.EncodeThenDecode : Prop :=
  ∀ i : Instr, selOk i = true → view i ≠ .event → ∃ w, encode i = some w ∧ decodeWord w = .ok i ∧
    ∀ rest, decodeBytes (bytesOfWord w ++ rest) = some (.ok i, rest)

/-- Every word that decodes encodes again to itself: no bit of it is dropped, and no two words are one instruction (R52,
R66 to R70). -/
def Sys2Proof.Claims.DecodeThenEncode : Prop :=
  ∀ (w : Word) (i : Instr), decodeWord w = .ok i → encode i = some w ∧ selOk i = true

/-! The step -/

/-- A step of a crew's turn fetches the word at its place, or takes it from the packet fetched before (R46), and where it
decodes to an instruction runs exactly that instruction, for its crew, a word that is no encoding as ILLEGAL_ENCODING (R70);
then its scheduler's turn goes on or ends (R264; the order of steps is the model's, log 2). -/
def Obligations.StepRunsTheWord : Prop :=
  ∀ (s s0 s1 : State) (r : CrewRef) (c d : Crew) (w : Wg) (word : Word) (i : Instr), TurnOf s s0 r →
    Stands s0 r c w → c.st = .ready → c.walk = none → c.expired = none → s0.fetchNext w c = (s1, d, .ok word) →
    (decodeWord word = .ok i ∨ (i = .illegalEncoding word ∧ ∃ e, decodeWord word = .error e)) →
    (∀ t, exec i { s1 with cur := some r } = .next t → step s =
      .next (t.afterWord (w.core.getD 0) c word (lostRead i ⟨s1, d, w, d.after, false⟩)).settle) ∧
    (∀ f, exec i { s1 with cur := some r } = .fault f → step s = .fault f) ∧
    ∀ f, exec i { s1 with cur := some r } = .refused f → step s = .refused f

/-- A step of a READY crew's turn that is no word: a step of its walk (R344), WATCHDOG_EXPIRED (R295), or a fetch fault
taken as an exception before any word of its packet runs (R46, R50, R303, R314); an event at the head of the agenda is that
event. While the compute dies have no power, power-good and a cold reset boot the device again, with memory zero; what needs
none of them goes on, doorbells and a report in progress among it, and where there is nothing of it the device stands as it is; a step that
needs them answers noPower, the model's fault for it (logs 2, 11 and 22). -/
def Obligations.StepWithoutAWord : Prop :=
  (∀ (s s0 : State) (r : CrewRef) (c : Crew) (w : Wg), TurnOf s s0 r → Stands s0 r c w → c.st = .ready →
    let ends (t : State) : Prop := step s = .next (t.endTurn (w.core.getD 0) c.sched).settle
    (∀ k, c.walk = some k → ∃ t, exec (.reverseStep r) s0 = .next t ∧ ends (t.rested r)) ∧
    (∀ n, c.walk = none → c.expired = some n → c.runon = none →
      ends (s0.deliver { c with expired := none } { code := .watchdogExpired, detail := n } c.pc c.ic)) ∧
    (c.walk = none → c.expired = none → ∀ s1 d f, s0.fetchNext w c = (s1, d, .error f) → ends (s1.raiseFault c f))) ∧
  (∀ (s t : State) (i : Instr) (rest : List Turn), (s.powered = true ∨ s.needsPower i = false) → s.agenda = .event i :: rest →
    exec i { s with agenda := rest, cur := none } = .next t → step s = .next t.settle) ∧
  ∀ (s : State), s.powered = false →
    (∀ boot i rest, i = .powerOnReset boot ∨ i = .coldReset boot → (∀ code, boot = .stopped code → code ∈ [(1 : Byte), 2, 3, 0x10, 0x11]) →
      s.agenda = .event i :: rest → ∃ t, step s = .next t ∧ t.powered = true ∧ t.mem = []) ∧
    (∀ i rest, s.agenda = .event i :: rest → s.needsPower i = true → step s = .fault .noPower) ∧
    (∀ r rest, s.agenda = .crew r :: rest → step s = .fault .noPower) ∧
    (s.agenda = [] → s.nodes = [] → (∀ k ∈ s.copies, k.isBulk = false) → (∀ r ∈ s.regions, r.waiting = []) →
      (∀ l ∈ s.port.dbells, l = []) →
      (s.port.att = [] → step s = .next s) ∧
      (s.port.att ≠ [] → ∃ t, exec .attestationReportWritten s = .next t ∧ step s = .next t.settle)) ∧
    (s.agenda = [] → s.nodes = [] → (∀ k ∈ s.copies, k.isBulk = false) → ∀ t, exec .doorbellServe s = .next t →
      step s = .next t.settle)

/-- A scheduler's turn after a word of the crew it selected (R27, R47, R264). A word that issued: the crew's WAITCNT is 0 and
its latches stay, the other crews of its scheduler lose theirs, a word with C=1 that goes on to the next word leaves its
chain under way, and otherwise the turn passes to the next scheduler. A word that waits at a register, a queue, a mailbox,
a round of the window or the end of a run-on, or that what it would read keeps from issuing (R348, R351), has not issued: no
crew changes. One that waits having issued, at a phase, a claim, a reply, an event or the watermark, leaves the rest of its
chain under way and the turn to the next scheduler; that an ACCRD has issued then is the model's (log 7). At the
end of a cycle CYC goes on by one and the WAITCNT of every READY crew of the core that issued nothing, and a crew that waited
for the transform pipe is READY (R51, R263). What a cycle of a core is made of is the model's (log 7). -/
def Sys2Proof.Claims.CycleEnds : Prop :=
  (∀ (t : State) (core : Nat) (c d : Crew) (word : Word) (lost : Bool), (t.crews.map Crew.ref).Nodup → core < t.cores.length →
    t.crew? c.ref = some d → d.ref = c.ref →
    let u := t.afterWord core c word lost
    let goes := word.getLsbD 0 = true ∧ d.wordAddr = c.wordAddr + 4
    let waits : Prop := d.st = .blocked ∧ (d.wait = .mailbox ∨ d.wait = .window ∨ ∃ l m, d.wait = .queue l m)
    u.mem = t.mem ∧ (u.core core).cyc = (t.core core).cyc ∧ (∀ k, k ≠ core → u.core k = t.core k) ∧
    (lost = false → d.st = .ready → d.walk = none → (c.pfx = none → d.pfx = none) →
      c.ref ∈ (u.core core).issued ∧ (goes → (u.core core).turn = (t.core core).turn) ∧
      (¬ goes → (u.core core).turn = c.sched + 1) ∧
      ∀ k ∈ t.crews, ∃ e, u.crew? k.ref = some e ∧ { e with l := k.l, waitcnt := k.waitcnt, chain := k.chain } = k ∧
        let mate := k.ref ≠ c.ref ∧ k.sched = c.sched ∧ ∃ w ∈ t.wgs, w.uid = k.wg ∧ w.core = some core
        (k.ref = c.ref → e.l = k.l ∧ e.waitcnt = 0 ∧ (e.chain = true ↔ goes)) ∧
        (mate → e.waitcnt = k.waitcnt ∧ e.chain = k.chain ∧ (k.replays = [] → ∀ x ∈ e.l, x.valid = false)) ∧
        (k.ref ≠ c.ref → ¬ mate → e = k)) ∧
    ((c.pfx = none → d.pfx = none) →
      ((lost = true ∨ (d.st = .score ∧ d.wait ≠ .accrd) ∨ d.st = .stalled ∨ waits →
        u.crews = t.crews ∧ u.wgs = t.wgs ∧ (u.core core).turn = c.sched + 1) ∧
      (lost = false → d.walk = none → d.ic = c.ic → d.wordAddr = c.wordAddr →
        (d.st = .blocked ∧ ¬ waits) ∨ (d.st = .score ∧ d.wait = .accrd) →
        c.ref ∈ (u.core core).issued ∧ (u.core core).turn = c.sched + 1 ∧ ∃ e, u.crew? c.ref = some e ∧
          { e with waitcnt := d.waitcnt, chain := d.chain } = d ∧ e.waitcnt = 0 ∧ (e.chain = true ↔ word.getLsbD 0 = true))))) ∧
  ∀ (t : State) (core : Nat), (t.crews.map Crew.ref).Nodup → core < t.cores.length →
    let u := t.tickCore core
    u.mem = t.mem ∧ (u.core core).cyc = (t.core core).cyc + 1 ∧ (u.core core).turn = 0 ∧ (u.core core).issued = [] ∧
      (∀ k, k ≠ core → u.core k = t.core k) ∧
      ∀ k ∈ t.crews, u.crew? k.ref = some (if (∃ w ∈ t.wgs, w.uid = k.wg ∧ w.core = some core) ∧ k.st = .ready ∧
        k.ref ∉ (t.core core).issued then { k with waitcnt := k.waitcnt + 1 }
        else if (∃ w ∈ t.wgs, w.uid = k.wg ∧ w.core = some core) ∧ k.st = .score ∧ k.wait = .pipe
        then { k with st := .ready, wait := .none } else k)

/-- The scheduler's selection (R264): it keeps CUR while its chain is partly issued; else the longest wait of 16 cycles or
more comes first; else CUR within a packet or below 8 packets; else the longest wait. -/
def Sys2Proof.Claims.CrewSelection : Prop :=
  ∀ (q : Sched) (l : List Crew),
    let cur (c : Crew) : Prop := ∃ r, q.cur = some r ∧ l.find? (fun d => d.ref == r) = some c
    (q.select l = none ↔ l = []) ∧
    ∀ c, (cur c → MidChain c → q.select l = some (c, q.run)) ∧
      ((∀ d, cur d → ¬ MidChain d) → (∃ d ∈ l, 16 ≤ d.waitcnt) → ∃ d, q.select l = some (d, 0) ∧ LongestOf l d) ∧
      ((∀ d ∈ l, d.waitcnt < 16) → cur c → (MidPacket c ∨ q.run < 8) → q.select l = some (c, q.run)) ∧
      (l ≠ [] → (∀ d ∈ l, d.waitcnt < 16) → (∀ d, cur d → ¬ MidPacket d ∧ 8 ≤ q.run ∧ ¬ MidChain d) →
        ∃ d, q.select l = some (d, 0) ∧ LongestOf l d)

/-! Reset and the invariant -/

/-- What reset leaves (R372, R374 Table 3): all memory zero, no translation, no race tag, no work; the registers of the port
at the values given. That the boot has reached READY, and every core's CYC at 0, are the model's (log 4). -/
def Obligations.ResetValues : Prop :=
  let s := State.reset
  (∀ a, memByte s.mem a = 0) ∧ s.tlb = [] ∧ s.tags = [] ∧ s.crews = [] ∧ s.wgs = [] ∧ s.copies = [] ∧ s.nodes = [] ∧
    s.groups = [] ∧ s.port.ready = true ∧ s.port.recovery = false ∧ s.port.booterr = 0 ∧ s.port.devnum = 0 ∧
    s.port.errBase = 0 ∧ s.port.errCnt = 0 ∧ s.port.pwrlim = 2400 ∧ s.port.templim = 95 ∧ s.port.force = false ∧
    s.cores.length = 256 ∧ ∀ k ∈ s.cores, k.cyc = 0

/-- The state after reset has the form that every step keeps. -/
def Obligations.ResetInv : Prop := State.reset.Inv

/-- Every step keeps the form of the state: memory in its canonical form, the register files of every crew at the sizes of
R20, R24, R25, R29 to R32. -/
def Obligations.StepKeepsInv : Prop := ∀ s t : State, s.Inv → step s = .next t → t.Inv

/-! Statements that bring several together -/

/-- Two-operand integer words, on both sides (R53, R114, R116, R117, R122). -/
def Obligations.IntegerWords : Prop :=
  Sys2Proof.Claims.IntegerBinary ∧ Sys2Proof.Claims.IntegerBinaryScalar

/-- One-operand, accumulating and immediate integer words (R113 to R118, R121). -/
def Obligations.IntegerUpdates : Prop :=
  Sys2Proof.Claims.IntegerUnary ∧ Sys2Proof.Claims.IntegerAccumulate ∧ Sys2Proof.Claims.Immediates

/-- Words on pairs, and SWAP (R119, R120). -/
def Obligations.PairWords : Prop :=
  Sys2Proof.Claims.PairSums ∧ Sys2Proof.Claims.Swap

/-- Integer compares and words on predicates (R123, R124). -/
def Obligations.PredicateResults : Prop :=
  Sys2Proof.Claims.IntegerCompares ∧ Sys2Proof.Claims.PredicateWords

/-- What words on registers, compares, loads and exchanges leave for reversal, in the latches and as shape tags (R25, R26, R36,
R111, R112, R337, R339). -/
def Obligations.HistoryOfWords : Prop :=
  Sys2Proof.Claims.WakeRecords ∧ Sys2Proof.Claims.WakeOfAccesses ∧ Sys2Proof.Claims.LatchHistory ∧ Sys2Proof.Claims.ShapeTags

/-- Sums, products and fused products, single and packed (R125, R126, R132). -/
def Obligations.FloatArithmeticWords : Prop :=
  Sys2Proof.Claims.FloatArithmetic ∧ Sys2Proof.Claims.FusedMultiplyAdd

/-- Float compares, minimum, maximum and sign words (R127 to R129). -/
def Obligations.FloatChoices : Prop :=
  Sys2Proof.Claims.FloatCompares ∧ Sys2Proof.Claims.FloatSelect

/-- The transcendental words (R130). -/
def Obligations.TranscendentalWords : Prop :=
  Sys2Proof.Claims.Transcendentals ∧ Sys2Proof.Claims.TranscendentalSpecialCases

/-- RoundTo and the conversion to integers (R100, R101). -/
def Obligations.Rounding : Prop :=
  Sys2Proof.Claims.RoundingKeepsValues ∧ Sys2Proof.Claims.DirectedRounding ∧ Sys2Proof.Claims.IntegerConversionRoundTrip

/-- Conversions, scaling, dot products, packing, and the faults of their control words (R105, R131 to R137). -/
def Obligations.Conversions : Prop :=
  Sys2Proof.Claims.ConversionsAndDots ∧ Sys2Proof.Claims.PackedConversions ∧ Sys2Proof.Claims.ControlWordFaults

/-- Lane words, RAND and the generator (R103, R104, R138 to R140). -/
def Obligations.LaneWordResults : Prop :=
  Sys2Proof.Claims.LaneWords ∧ Sys2Proof.Claims.LaneSumsAndRandom ∧ Sys2Proof.Claims.GeneratorStepsBack

/-- Special registers, FMODE and SEED (R33, R141 to R144). -/
def Obligations.SpecialRegisters : Prop :=
  Sys2Proof.Claims.SpecialRegisterReads ∧ Sys2Proof.Claims.ModeAndSeed

/-- XCHG and the atomics (R210 to R215). -/
def Obligations.ExchangeAndAtomics : Prop :=
  Sys2Proof.Claims.Exchange ∧ Sys2Proof.Claims.Atomics

/-- Memory words that do nothing, and those that fault, check by check (R110, R187 to R189, R203 to R205). -/
def Obligations.AccessLimits : Prop :=
  Sys2Proof.Claims.IdleAccesses ∧ Sys2Proof.Claims.PlaceFaults ∧ Sys2Proof.Claims.PageFaults ∧ Sys2Proof.Claims.RaceFaults ∧
    Sys2Proof.Claims.DataFaults

/-- NOP, fences, ARRIVE, BKPT and the prefix (R61, R222, R334, R335). -/
def Obligations.QuietControl : Prop :=
  Sys2Proof.Claims.QuietWords ∧ Sys2Proof.Claims.Arrive ∧ Sys2Proof.Claims.Breakpoint ∧ Sys2Proof.Claims.Prefix

/-- COMMIT and REWIND (R323, R342, R343). -/
def Obligations.CommitAndRewind : Prop :=
  Sys2Proof.Claims.Commit ∧ Sys2Proof.Claims.Rewind

/-- The first faults of a word, unassigned encodings, and privilege (R19, R50, R64, R70, R72, R302). -/
def Obligations.FaultOrder : Prop :=
  Sys2Proof.Claims.FirstFaults ∧ Sys2Proof.Claims.PacketFaults ∧ Sys2Proof.Claims.OperandFaults ∧
    Sys2Proof.Claims.PrefixFaults ∧ Sys2Proof.Claims.MatrixFaults ∧ Sys2Proof.Claims.UnassignedEncodings ∧
    Sys2Proof.Claims.Privilege

/-- TAKING AN EXCEPTION: in a handler, without one, parked for replay; and TRAP (R303, R314, R349). -/
def Obligations.Exceptions : Prop :=
  Sys2Proof.Claims.ExceptionEntry ∧ Sys2Proof.Claims.FaultRecord ∧ Sys2Proof.Claims.ReplayableFaults ∧ Sys2Proof.Claims.Trap

/-- HALT and RESUME, and the checks of targets (R306, R308, R309). -/
def Obligations.HaltResume : Prop :=
  Sys2Proof.Claims.HaltAndResume ∧ Sys2Proof.Claims.TargetChecks

/-- MFSR and MTSR (R305). -/
def Obligations.SystemRegisters : Prop :=
  Sys2Proof.Claims.SystemRegisterReads ∧ Sys2Proof.Claims.SystemRegisterWrites

/-- GIVE, TAKE and YIELD (R278 to R280, R293). -/
def Obligations.ClaimsAndYield : Prop :=
  Sys2Proof.Claims.RegisterClaims ∧ Sys2Proof.Claims.Yield

/-- BARR, BWAIT and BWAIT.S (R282 to R286). -/
def Obligations.Barriers : Prop :=
  Sys2Proof.Claims.BarrierArrival ∧ Sys2Proof.Claims.BarrierWait

/-- FETCHW and the deques (R261, R262, R291, R292). -/
def Obligations.Work : Prop :=
  Sys2Proof.Claims.WorkFetch ∧ Sys2Proof.Claims.Deques

/-- Queues: mapping, resetting, granting; queues and mailboxes as operands (R28, R30, R269 to R277). -/
def Obligations.QueueMapping : Prop :=
  Sys2Proof.Claims.QueueMappings ∧ Sys2Proof.Claims.QueueOperands

/-- Copy commands and the copy engine (R227 to R246). -/
def Obligations.Copies : Prop :=
  Sys2Proof.Claims.CopyIssue ∧ Sys2Proof.Claims.CopyEngine

/-- Placement and the end of a workgroup (R41, R255, R259, R260). -/
def Obligations.WorkgroupLife : Prop :=
  Sys2Proof.Claims.Placement ∧ Sys2Proof.Claims.WorkgroupEnd

/-- The hang watchdog and the reliability unit (R266, R295, R349, R352, R355, R360). -/
def Obligations.Reliability : Prop :=
  Sys2Proof.Claims.Watchdog ∧ Sys2Proof.Claims.ReliabilityUnit

/-- Links, resets and power (R356, R372, R373, R382). -/
def Obligations.LinksAndPower : Prop :=
  Sys2Proof.Claims.Links ∧ Sys2Proof.Claims.Power

/-- The debug interface (R358, R359). -/
def Obligations.Debugging : Prop :=
  Sys2Proof.Claims.DebugCrews ∧ Sys2Proof.Claims.DebugPoints

/-- Decode and encode agree, both ways (R46, R52, R66 to R70). -/
def Obligations.Encodings : Prop :=
  Sys2Proof.Claims.EncodeThenDecode ∧ Sys2Proof.Claims.DecodeThenEncode

/-- The scheduler's selection and the end of a cycle (R27, R264). -/
def Obligations.Scheduling : Prop :=
  Sys2Proof.Claims.CycleEnds ∧ Sys2Proof.Claims.CrewSelection
end

