-- ==== Sys2Proof/Laws/Mem.lean ====
section
/-! SUPPORT. The laws of memory: what a byte reads as after a write, that a write keeps the canonical form, and that bytes
give back the number they were made of. -/

namespace Sys2Proof.Machine

theorem memByte_nil (a : Nat) : memByte [] a = unlisted := rfl

theorem memByte_cons (c : Host.Cell) (m : List Host.Cell) (a : Nat) :
    memByte (c :: m) a = if c.1 = a then c.2 else memByte m a := by
  unfold memByte
  rw [List.find?_cons]
  by_cases h : c.1 = a
  · simp [h]
  · simp only [beq_false_of_ne h, if_neg h]

/-- Cells none of which has the address read as nothing listed. -/
theorem memByte_none {m : List Host.Cell} {a : Nat} (h : ∀ c ∈ m, c.1 ≠ a) : memByte m a = unlisted := by
  unfold memByte
  rw [List.find?_eq_none.mpr (by simpa using h)]
  rfl

theorem memByte_append (m n : List Host.Cell) (a : Nat) :
    memByte (m ++ n) a = if (m.find? (·.1 == a)).isSome then memByte m a else memByte n a := by
  unfold memByte
  rw [List.find?_append]
  cases m.find? (·.1 == a) <;> simp

theorem memByte_filter (m : List Host.Cell) (p : Nat → Bool) (a : Nat) :
    memByte (m.filter fun c => p c.1) a = if p a then memByte m a else unlisted := by
  induction m with
  | nil => simp [memByte_nil]
  | cons c m ih =>
    rw [List.filter_cons]
    by_cases hc : p c.1
    · simp only [hc, if_true, memByte_cons, ih]
      by_cases h : c.1 = a
      · subst h; simp [hc]
      · simp [h]
    · simp only [hc, Bool.false_eq_true, if_false, ih, memByte_cons]
      by_cases h : c.1 = a
      · subst h; simp [hc]
      · simp [h]

theorem runCells_addr (bs : List Byte) : ∀ (a : Nat) (c : Host.Cell), c ∈ runCells a bs → a ≤ c.1 ∧ c.1 < a + bs.length := by
  induction bs with
  | nil => intro a c h; simp [runCells] at h
  | cons b bs ih =>
    intro a c h
    unfold runCells at h
    split at h
    · have := ih _ _ h; simp only [List.length_cons]; omega
    · rcases List.mem_cons.mp h with h | h
      · subst h; simp only [List.length_cons]; omega
      · have := ih _ _ h; simp only [List.length_cons]; omega

theorem memByte_runCells (bs : List Byte) : ∀ (a b : Nat), a ≤ b → b < a + bs.length →
    memByte (runCells a bs) b = bs.getD (b - a) 0 := by
  induction bs with
  | nil => intro a b h k; simp at k; omega
  | cons x bs ih =>
    intro a b h k
    simp only [List.length_cons] at k
    have hn : b = a → memByte (runCells (a + 1) bs) b = unlisted := fun e =>
      memByte_none fun c hc => by have := runCells_addr bs _ _ hc; omega
    have hs : b ≠ a → (x :: bs).getD (b - a) 0 = bs.getD (b - (a + 1)) 0 := fun e => by
      rw [show b - a = (b - (a + 1)) + 1 by omega]; rfl
    unfold runCells
    split
    · next e =>
      by_cases hb : b = a
      · rw [hn hb]; subst hb; simp only [Nat.sub_self, List.getD_cons_zero]; exact (by simpa using e : x = unlisted).symm
      · rw [ih (a + 1) b (by omega) (by omega), hs hb]
    · rw [memByte_cons]
      by_cases hb : a = b
      · subst hb; simp
      · rw [if_neg hb, ih (a + 1) b (by omega) (by omega), hs (Ne.symm hb)]

/-- A byte read after a write: the byte written there, or what it was. -/
theorem memByte_memWrite (m : List Host.Cell) (a : Nat) (bs : List Byte) (b : Nat) :
    memByte (memWrite m a bs) b = if a ≤ b ∧ b < a + bs.length then bs.getD (b - a) 0 else memByte m b := by
  unfold memWrite
  have h1 := memByte_filter m (fun x => decide (x < a)) b
  have h3 := memByte_filter m (fun x => decide (a + bs.length ≤ x)) b
  have hf : ∀ p : Nat → Bool, p b = false → ((m.filter fun c => p c.1).find? (·.1 == b)).isSome = false := by
    intro p hp
    rw [Option.isSome_eq_false_iff, Option.isNone_iff_eq_none, List.find?_eq_none]
    intro c hc e
    simp only [beq_iff_eq] at e
    have := (List.mem_filter.mp hc).2
    rw [e, hp] at this
    cases this
  have hr : ¬ (a ≤ b ∧ b < a + bs.length) → ((runCells a bs).find? (·.1 == b)).isSome = false := by
    intro hn
    rw [Option.isSome_eq_false_iff, Option.isNone_iff_eq_none, List.find?_eq_none]
    intro c hc e
    simp only [beq_iff_eq] at e
    have := runCells_addr bs _ _ hc
    omega
  rw [memByte_append, memByte_append]
  by_cases h : a ≤ b ∧ b < a + bs.length
  · rw [if_pos h]
    have e1 := hf (fun x => decide (x < a)) (by simp; omega)
    have e3 := hf (fun x => decide (a + bs.length ≤ x)) (by simp; omega)
    rw [List.find?_append, e1]
    have : ((m.filter fun c => decide (c.1 < a)).find? (·.1 == b)) = none := by
      simpa using e1
    rw [this]
    simp only [Bool.false_eq_true, if_false, Option.none_or]
    split
    · exact memByte_runCells bs a b h.1 h.2
    · next hi =>
      rw [h3]
      simp only [show decide (a + bs.length ≤ b) = false by simp; omega, Bool.false_eq_true, if_false]
      rw [← memByte_runCells bs a b h.1 h.2]
      unfold memByte
      simp only [Bool.not_eq_true, Option.isSome_eq_false_iff, Option.isNone_iff_eq_none] at hi
      rw [hi]; rfl
  · rw [if_neg h, List.find?_append]
    have e2 := hr h
    simp only [Option.isSome_eq_false_iff, Option.isNone_iff_eq_none] at e2
    rw [e2, Option.or_none]
    by_cases hb : b < a
    · rw [h1]
      simp only [hb, decide_true, if_true]
      split
      · rfl
      · next hi =>
        rw [h3]
        simp only [show decide (a + bs.length ≤ b) = false by simp; omega, Bool.false_eq_true, if_false]
        unfold memByte
        have : m.find? (·.1 == b) = none := by
          rw [List.find?_eq_none]
          intro c hc e
          simp only [beq_iff_eq] at e
          rw [Bool.not_eq_true, Option.isSome_eq_false_iff, Option.isNone_iff_eq_none, List.find?_eq_none] at hi
          exact hi c (List.mem_filter.mpr ⟨hc, by simp [e, hb]⟩) (by simp [e])
        rw [this]; rfl
    · have e1 := hf (fun x => decide (x < a)) (by simp; omega)
      rw [e1]
      simp only [Bool.false_eq_true, if_false, h3, show decide (a + bs.length ≤ b) = true by simp; omega, if_true]

/-! The canonical form -/

/-- The canonical form in two parts: rising addresses, no cell equal to an unlisted byte. -/
theorem memWf_iff (m : List Host.Cell) :
    memWf m = true ↔ m.Pairwise (fun c d => c.1 < d.1) ∧ ∀ c ∈ m, c.2 ≠ unlisted := by
  induction m with
  | nil => simp [memWf]
  | cons c m ih =>
    cases m with
    | nil => simp [memWf]
    | cons d m =>
      rw [show memWf (c :: d :: m) = (c.2 != unlisted && c.1 < d.1 && memWf (d :: m)) from rfl]
      simp only [Bool.and_eq_true, bne_iff_ne, decide_eq_true_eq, ih]
      constructor
      · rintro ⟨⟨h1, h2⟩, h3, h4⟩
        refine ⟨List.pairwise_cons.mpr ⟨fun e he => ?_, h3⟩, fun e he => ?_⟩
        · rcases List.mem_cons.mp he with rfl | he
          · exact h2
          · exact Nat.lt_trans h2 ((List.pairwise_cons.mp h3).1 e he)
        · rcases List.mem_cons.mp he with rfl | he
          · exact h1
          · exact h4 e he
      · rintro ⟨h1, h2⟩
        obtain ⟨h3, h4⟩ := List.pairwise_cons.mp h1
        exact ⟨⟨h2 c (by simp), h3 d (by simp)⟩, h4, fun e he => h2 e (by simp [List.mem_cons.mp he])⟩

theorem runCells_wf (bs : List Byte) : ∀ a, (runCells a bs).Pairwise (fun c d => c.1 < d.1) ∧
    ∀ c ∈ runCells a bs, c.2 ≠ unlisted := by
  induction bs with
  | nil => intro a; simp [runCells]
  | cons b bs ih =>
    intro a
    unfold runCells
    split
    · exact ih (a + 1)
    · next h =>
      obtain ⟨h1, h2⟩ := ih (a + 1)
      refine ⟨List.pairwise_cons.mpr ⟨fun c hc => ?_, h1⟩, fun c hc => ?_⟩
      · have := runCells_addr bs _ _ hc; simp only; omega
      · rcases List.mem_cons.mp hc with rfl | hc
        · simpa using h
        · exact h2 c hc

/-- A write keeps the canonical form. -/
theorem memWf_memWrite {m : List Host.Cell} (h : memWf m = true) (a : Nat) (bs : List Byte) :
    memWf (memWrite m a bs) = true := by
  rw [memWf_iff] at *
  obtain ⟨h1, h2⟩ := h
  obtain ⟨r1, r2⟩ := runCells_wf bs a
  unfold memWrite
  have lo : ∀ c ∈ m.filter (fun c => decide (c.1 < a)), c.1 < a := fun c hc => by simpa using (List.mem_filter.mp hc).2
  have hi : ∀ c ∈ m.filter (fun c => decide (a + bs.length ≤ c.1)), a + bs.length ≤ c.1 := fun c hc => by
    simpa using (List.mem_filter.mp hc).2
  refine ⟨List.pairwise_append.mpr ⟨List.pairwise_append.mpr ⟨h1.sublist List.filter_sublist, r1, fun c hc d hd => ?_⟩,
    h1.sublist List.filter_sublist, fun c hc d hd => ?_⟩, fun c hc => ?_⟩
  · have := lo c hc; have := runCells_addr bs _ _ hd; omega
  · have := hi d hd
    rcases List.mem_append.mp hc with hc | hc
    · have := lo c hc; omega
    · have := runCells_addr bs _ _ hc; omega
  · rcases List.mem_append.mp hc with hc | hc
    · rcases List.mem_append.mp hc with hc | hc
      · exact h2 c (List.mem_filter.mp hc).1
      · exact r2 c hc
    · exact h2 c (List.mem_filter.mp hc).1

/-! Numbers and bytes -/

theorem leBytes_length (n k : Nat) : (leBytes n k).length = k := by
  induction k generalizing n with
  | zero => rfl
  | succ k ih => simp [leBytes, ih]

/-- The number whose bytes are those of a number. -/
theorem leNat_leBytes (n k : Nat) : leNat (leBytes n k) = n % 256 ^ k := by
  induction k generalizing n with
  | zero => simp [leBytes, leNat, Nat.mod_one]
  | succ k ih =>
    simp only [leBytes, leNat, ih, BitVec.toNat_ofNat]
    rw [show 256 ^ (k + 1) = 256 * 256 ^ k by ring, Nat.mod_mul]

theorem memRead_length (m : List Host.Cell) (a n : Nat) : (memRead m a n).length = n := by
  induction n generalizing a with
  | zero => rfl
  | succ n ih => simp [memRead, ih]

/-- A run of bytes read where it was written. -/
theorem memRead_memWrite (m : List Host.Cell) (a : Nat) (bs : List Byte) : memRead (memWrite m a bs) a bs.length = bs := by
  have : ∀ (n b : Nat), a ≤ b → b + n = a + bs.length → memRead (memWrite m a bs) b n = bs.drop (b - a) := by
    intro n
    induction n with
    | zero => intro b h k; rw [List.drop_eq_nil_of_le (by omega)]; rfl
    | succ n ih =>
      intro b h k
      have hl : b - a < bs.length := by omega
      rw [memRead, memByte_memWrite, if_pos ⟨h, by omega⟩, ih (b + 1) (by omega) (by omega),
        List.drop_eq_getElem_cons hl, show b + 1 - a = b - a + 1 by omega]
      simp [List.getD_eq_getElem?_getD, hl]
  simpa using this bs.length a (Nat.le_refl _) rfl

/-- A run of bytes read apart from where another was written. -/
theorem memRead_memWrite_ne (m : List Host.Cell) (a : Nat) (bs : List Byte) (b n : Nat)
    (h : b + n ≤ a ∨ a + bs.length ≤ b) : memRead (memWrite m a bs) b n = memRead m b n := by
  induction n generalizing b with
  | zero => rfl
  | succ n ih =>
    rw [memRead, memRead, memByte_memWrite, if_neg (by omega), ih (b + 1) (by omega)]

/-- A part of a run of bytes read where it was written. -/
theorem memRead_part (m : List Host.Cell) (a k n : Nat) (bs : List Byte) (h : k + n ≤ bs.length) :
    memRead (memWrite m a bs) (a + k) n = (bs.drop k).take n := by
  induction n generalizing k with
  | zero => rfl
  | succ n ih =>
    rw [memRead, memByte_memWrite, if_pos (by omega), Nat.add_sub_cancel_left, show a + k + 1 = a + (k + 1) by omega,
      ih (k + 1) (by omega), List.drop_eq_getElem_cons (show k < bs.length by omega), List.take_succ_cons,
      List.getD_eq_getElem?_getD, List.getElem?_eq_getElem (show k < bs.length by omega)]
    rfl

/-- A word of a list of words read where they were written. -/
theorem memNat_words (m : List Host.Cell) (a t : Nat) (l : List Word) (h : t < l.length) :
    memNat (memWrite m a (l.flatMap fun v => leBytes v.toNat 4)) (a + 4 * t) 4 = (l.getD t 0).toNat := by
  have hl : ∀ l : List Word, (l.flatMap fun v => leBytes v.toNat 4).length = 4 * l.length := by
    intro l
    induction l with
    | nil => rfl
    | cons v l ih => rw [List.flatMap_cons, List.length_append, leBytes_length, ih, List.length_cons]; omega
  have hd : ∀ (t : Nat) (l : List Word), t < l.length →
      ((l.flatMap fun v => leBytes v.toNat 4).drop (4 * t)).take 4 = leBytes (l.getD t 0).toNat 4 := by
    intro t
    induction t with
    | zero =>
      intro l h
      cases l with
      | nil => simp at h
      | cons v l => simp [List.flatMap_cons, leBytes_length]
    | succ t ih =>
      intro l h
      cases l with
      | nil => simp at h
      | cons v l =>
        simp only [List.length_cons] at h
        rw [List.flatMap_cons, List.drop_append, leBytes_length, List.drop_eq_nil_of_le (by rw [leBytes_length]; omega),
          List.nil_append, show 4 * (t + 1) - 4 = 4 * t by omega, ih l (by omega)]
        rfl
  unfold memNat
  rw [memRead_part _ _ _ _ _ (by rw [hl]; omega), hd t l h, leNat_leBytes]
  exact Nat.mod_eq_of_lt (by have := (l.getD t 0).isLt; omega)

end Sys2Proof.Machine
end

