-- ==== Sys2Proof/Laws/PerInstr.lean ====
section
/-! SUPPORT. Facts made once per instruction. -/

namespace Sys2Proof.Laws

/-- An instruction has a word exactly where it is no step of the device (R52). -/
def IsWord.Statement (i : Instr) : Prop :=
  (encode i).isSome = match Machine.view i with | .event => false | _ => true

theorem IsWord.iadd (f : GFields) : IsWord.Statement (.iadd f) := rfl
theorem IsWord.isub (f : GFields) : IsWord.Statement (.isub f) := rfl
theorem IsWord.imul (f : GFields) : IsWord.Statement (.imul f) := rfl
theorem IsWord.imulh (f : GFields) : IsWord.Statement (.imulh f) := rfl
theorem IsWord.imulhu (f : GFields) : IsWord.Statement (.imulhu f) := rfl
theorem IsWord.imad (f : GFields) : IsWord.Statement (.imad f) := rfl
theorem IsWord.imin (f : GFields) : IsWord.Statement (.imin f) := rfl
theorem IsWord.imax (f : GFields) : IsWord.Statement (.imax f) := rfl
theorem IsWord.umin (f : GFields) : IsWord.Statement (.umin f) := rfl
theorem IsWord.umax (f : GFields) : IsWord.Statement (.umax f) := rfl
theorem IsWord.iabs (f : GFields) : IsWord.Statement (.iabs f) := rfl
theorem IsWord.ineg (f : GFields) : IsWord.Statement (.ineg f) := rfl
theorem IsWord.and (f : GFields) : IsWord.Statement (.and f) := rfl
theorem IsWord.or (f : GFields) : IsWord.Statement (.or f) := rfl
theorem IsWord.xor (f : GFields) : IsWord.Statement (.xor f) := rfl
theorem IsWord.andn (f : GFields) : IsWord.Statement (.andn f) := rfl
theorem IsWord.shl (f : GFields) : IsWord.Statement (.shl f) := rfl
theorem IsWord.shr (f : GFields) : IsWord.Statement (.shr f) := rfl
theorem IsWord.sar (f : GFields) : IsWord.Statement (.sar f) := rfl
theorem IsWord.rot (f : GFields) : IsWord.Statement (.rot f) := rfl
theorem IsWord.bfe (f : GFields) : IsWord.Statement (.bfe f) := rfl
theorem IsWord.bfi (f : GFields) : IsWord.Statement (.bfi f) := rfl
theorem IsWord.popc (f : GFields) : IsWord.Statement (.popc f) := rfl
theorem IsWord.clz (f : GFields) : IsWord.Statement (.clz f) := rfl
theorem IsWord.brev (f : GFields) : IsWord.Statement (.brev f) := rfl
theorem IsWord.mov (f : GFields) : IsWord.Statement (.mov f) := rfl
theorem IsWord.lea (f : GFields) : IsWord.Statement (.lea f) := rfl
theorem IsWord.leau (f : GFields) : IsWord.Statement (.leau f) := rfl
theorem IsWord.swap (f : GFields) : IsWord.Statement (.swap f) := rfl
theorem IsWord.not (f : GFields) : IsWord.Statement (.not f) := rfl
theorem IsWord.add64 (f : GFields) : IsWord.Statement (.add64 f) := rfl
theorem IsWord.icmpEq (f : GFields) : IsWord.Statement (.icmpEq f) := rfl
theorem IsWord.icmpNe (f : GFields) : IsWord.Statement (.icmpNe f) := rfl
theorem IsWord.icmpLt (f : GFields) : IsWord.Statement (.icmpLt f) := rfl
theorem IsWord.icmpLe (f : GFields) : IsWord.Statement (.icmpLe f) := rfl
theorem IsWord.icmpUlt (f : GFields) : IsWord.Statement (.icmpUlt f) := rfl
theorem IsWord.icmpUle (f : GFields) : IsWord.Statement (.icmpUle f) := rfl
theorem IsWord.itest (f : GFields) : IsWord.Statement (.itest f) := rfl
theorem IsWord.pand (f : GFields) : IsWord.Statement (.pand f) := rfl
theorem IsWord.por (f : GFields) : IsWord.Statement (.por f) := rfl
theorem IsWord.pxor (f : GFields) : IsWord.Statement (.pxor f) := rfl
theorem IsWord.pnot (f : GFields) : IsWord.Statement (.pnot f) := rfl
theorem IsWord.fcmpEq (f : GFields) : IsWord.Statement (.fcmpEq f) := rfl
theorem IsWord.fcmpLt (f : GFields) : IsWord.Statement (.fcmpLt f) := rfl
theorem IsWord.fcmpLe (f : GFields) : IsWord.Statement (.fcmpLe f) := rfl
theorem IsWord.fcmpUn (f : GFields) : IsWord.Statement (.fcmpUn f) := rfl
theorem IsWord.fadd (f : FFields) : IsWord.Statement (.fadd f) := rfl
theorem IsWord.fsub (f : FFields) : IsWord.Statement (.fsub f) := rfl
theorem IsWord.fmul (f : FFields) : IsWord.Statement (.fmul f) := rfl
theorem IsWord.ffma (f : FFields) : IsWord.Statement (.ffma f) := rfl
theorem IsWord.fmin (f : GFields) : IsWord.Statement (.fmin f) := rfl
theorem IsWord.fmax (f : GFields) : IsWord.Statement (.fmax f) := rfl
theorem IsWord.fabs (f : GFields) : IsWord.Statement (.fabs f) := rfl
theorem IsWord.fneg (f : GFields) : IsWord.Statement (.fneg f) := rfl
theorem IsWord.hadd2 (f : FFields) : IsWord.Statement (.hadd2 f) := rfl
theorem IsWord.hfma2 (f : FFields) : IsWord.Statement (.hfma2 f) := rfl
theorem IsWord.badd2 (f : FFields) : IsWord.Statement (.badd2 f) := rfl
theorem IsWord.bfma2 (f : FFields) : IsWord.Statement (.bfma2 f) := rfl
theorem IsWord.rcp (f : GFields) : IsWord.Statement (.rcp f) := rfl
theorem IsWord.rsq (f : GFields) : IsWord.Statement (.rsq f) := rfl
theorem IsWord.sqrt (f : GFields) : IsWord.Statement (.sqrt f) := rfl
theorem IsWord.ex2 (f : GFields) : IsWord.Statement (.ex2 f) := rfl
theorem IsWord.lg2 (f : GFields) : IsWord.Statement (.lg2 f) := rfl
theorem IsWord.sin (f : GFields) : IsWord.Statement (.sin f) := rfl
theorem IsWord.cos (f : GFields) : IsWord.Statement (.cos f) := rfl
theorem IsWord.tanh (f : GFields) : IsWord.Statement (.tanh f) := rfl
theorem IsWord.cvt (f : FFields) : IsWord.Statement (.cvt f) := rfl
theorem IsWord.pack (f : GFields) : IsWord.Statement (.pack f) := rfl
theorem IsWord.unpk (f : GFields) : IsWord.Statement (.unpk f) := rfl
theorem IsWord.scal (f : GFields) : IsWord.Statement (.scal f) := rfl
theorem IsWord.dot2 (f : GFields) : IsWord.Statement (.dot2 f) := rfl
theorem IsWord.dot4 (f : GFields) : IsWord.Statement (.dot4 f) := rfl
theorem IsWord.dot8 (f : GFields) : IsWord.Statement (.dot8 f) := rfl
theorem IsWord.dot4f (f : GFields) : IsWord.Statement (.dot4f f) := rfl
theorem IsWord.shfl (f : GFields) : IsWord.Statement (.shfl f) := rfl
theorem IsWord.vote (f : GFields) : IsWord.Statement (.vote f) := rfl
theorem IsWord.matchAny (f : GFields) : IsWord.Statement (.matchAny f) := rfl
theorem IsWord.rand (f : GFields) : IsWord.Statement (.rand f) := rfl
theorem IsWord.redlAdd (f : GFields) : IsWord.Statement (.redlAdd f) := rfl
theorem IsWord.redlFadd (f : GFields) : IsWord.Statement (.redlFadd f) := rfl
theorem IsWord.scanlAdd (f : GFields) : IsWord.Statement (.scanlAdd f) := rfl
theorem IsWord.scanlFadd (f : GFields) : IsWord.Statement (.scanlFadd f) := rfl
theorem IsWord.redlMin (f : GFields) : IsWord.Statement (.redlMin f) := rfl
theorem IsWord.redlMax (f : GFields) : IsWord.Statement (.redlMax f) := rfl
theorem IsWord.scanlMin (f : GFields) : IsWord.Statement (.scanlMin f) := rfl
theorem IsWord.scanlMax (f : GFields) : IsWord.Statement (.scanlMax f) := rfl
theorem IsWord.iaddi (f : IFields) : IsWord.Statement (.iaddi f) := rfl
theorem IsWord.imuli (f : IFields) : IsWord.Statement (.imuli f) := rfl
theorem IsWord.movil (f : IFields) : IsWord.Statement (.movil f) := rfl
theorem IsWord.movih (f : IFields) : IsWord.Statement (.movih f) := rfl
theorem IsWord.andi (f : IFields) : IsWord.Statement (.andi f) := rfl
theorem IsWord.ori (f : IFields) : IsWord.Statement (.ori f) := rfl
theorem IsWord.xori (f : IFields) : IsWord.Statement (.xori f) := rfl
theorem IsWord.roti (f : IFields) : IsWord.Statement (.roti f) := rfl
theorem IsWord.loop (f : IFields) : IsWord.Statement (.loop f) := rfl
theorem IsWord.smovil (f : IFields) : IsWord.Statement (.smovil f) := rfl
theorem IsWord.smovih (f : IFields) : IsWord.Statement (.smovih f) := rfl
theorem IsWord.saddi (f : IFields) : IsWord.Statement (.saddi f) := rfl
theorem IsWord.ld8 (f : MFields) : IsWord.Statement (.ld8 f) := rfl
theorem IsWord.ld16 (f : MFields) : IsWord.Statement (.ld16 f) := rfl
theorem IsWord.ld32 (f : MFields) : IsWord.Statement (.ld32 f) := rfl
theorem IsWord.ld64 (f : MFields) : IsWord.Statement (.ld64 f) := rfl
theorem IsWord.ld128 (f : MFields) : IsWord.Statement (.ld128 f) := rfl
theorem IsWord.st8 (f : MFields) : IsWord.Statement (.st8 f) := rfl
theorem IsWord.st16 (f : MFields) : IsWord.Statement (.st16 f) := rfl
theorem IsWord.st32 (f : MFields) : IsWord.Statement (.st32 f) := rfl
theorem IsWord.st64 (f : MFields) : IsWord.Statement (.st64 f) := rfl
theorem IsWord.st128 (f : MFields) : IsWord.Statement (.st128 f) := rfl
theorem IsWord.xchg (f : MFields) : IsWord.Statement (.xchg f) := rfl
theorem IsWord.atomAdd (f : AFields) : IsWord.Statement (.atomAdd f) := rfl
theorem IsWord.atomFadd (f : AFields) : IsWord.Statement (.atomFadd f) := rfl
theorem IsWord.atomAnd (f : AFields) : IsWord.Statement (.atomAnd f) := rfl
theorem IsWord.atomOr (f : AFields) : IsWord.Statement (.atomOr f) := rfl
theorem IsWord.atomXor (f : AFields) : IsWord.Statement (.atomXor f) := rfl
theorem IsWord.atomImin (f : AFields) : IsWord.Statement (.atomImin f) := rfl
theorem IsWord.atomImax (f : AFields) : IsWord.Statement (.atomImax f) := rfl
theorem IsWord.atomExch (f : AFields) : IsWord.Statement (.atomExch f) := rfl
theorem IsWord.atomUmin (f : AFields) : IsWord.Statement (.atomUmin f) := rfl
theorem IsWord.atomUmax (f : AFields) : IsWord.Statement (.atomUmax f) := rfl
theorem IsWord.atomCas (f : AFields) : IsWord.Statement (.atomCas f) := rfl
theorem IsWord.atomAddScr (f : AFields) : IsWord.Statement (.atomAddScr f) := rfl
theorem IsWord.atomFaddScr (f : AFields) : IsWord.Statement (.atomFaddScr f) := rfl
theorem IsWord.atomAndScr (f : AFields) : IsWord.Statement (.atomAndScr f) := rfl
theorem IsWord.atomOrScr (f : AFields) : IsWord.Statement (.atomOrScr f) := rfl
theorem IsWord.atomXorScr (f : AFields) : IsWord.Statement (.atomXorScr f) := rfl
theorem IsWord.atomIminScr (f : AFields) : IsWord.Statement (.atomIminScr f) := rfl
theorem IsWord.atomImaxScr (f : AFields) : IsWord.Statement (.atomImaxScr f) := rfl
theorem IsWord.atomExchScr (f : AFields) : IsWord.Statement (.atomExchScr f) := rfl
theorem IsWord.atomUminScr (f : AFields) : IsWord.Statement (.atomUminScr f) := rfl
theorem IsWord.atomUmaxScr (f : AFields) : IsWord.Statement (.atomUmaxScr f) := rfl
theorem IsWord.atomCasScr (f : AFields) : IsWord.Statement (.atomCasScr f) := rfl
theorem IsWord.bra (f : BFields) : IsWord.Statement (.bra f) := rfl
theorem IsWord.braAny (f : BFields) : IsWord.Statement (.braAny f) := rfl
theorem IsWord.brp (f : BFields) : IsWord.Statement (.brp f) := rfl
theorem IsWord.call (f : BFields) : IsWord.Statement (.call f) := rfl
theorem IsWord.divr (f : BFields) : IsWord.Statement (.divr f) := rfl
theorem IsWord.flip (f : BFields) : IsWord.Statement (.flip f) := rfl
theorem IsWord.trap (f : SFields) : IsWord.Statement (.trap f) := rfl
theorem IsWord.rft (f : SFields) : IsWord.Statement (.rft f) := rfl
theorem IsWord.halt (f : SFields) : IsWord.Statement (.halt f) := rfl
theorem IsWord.resume (f : SFields) : IsWord.Statement (.resume f) := rfl
theorem IsWord.mfsr (f : SFields) : IsWord.Statement (.mfsr f) := rfl
theorem IsWord.mtsr (f : SFields) : IsWord.Statement (.mtsr f) := rfl
theorem IsWord.tlbiPage (f : SFields) : IsWord.Statement (.tlbiPage f) := rfl
theorem IsWord.tlbiSize (f : SFields) : IsWord.Statement (.tlbiSize f) := rfl
theorem IsWord.tlbiRegion (f : SFields) : IsWord.Statement (.tlbiRegion f) := rfl
theorem IsWord.tlbiAll (f : SFields) : IsWord.Statement (.tlbiAll f) := rfl
theorem IsWord.mfs (f : SFields) : IsWord.Statement (.mfs f) := rfl
theorem IsWord.mts (f : SFields) : IsWord.Statement (.mts f) := rfl
theorem IsWord.seed (f : SFields) : IsWord.Statement (.seed f) := rfl
theorem IsWord.fenceAcq (sel : BitVec 3) (f : SFields) : IsWord.Statement (.fenceAcq sel f) := rfl
theorem IsWord.fenceRel (sel : BitVec 3) (f : SFields) : IsWord.Statement (.fenceRel sel f) := rfl
theorem IsWord.fence (sel : BitVec 3) (f : SFields) : IsWord.Statement (.fence sel f) := rfl
theorem IsWord.publ (f : SFields) : IsWord.Statement (.publ f) := rfl
theorem IsWord.cpyq (sel : BitVec 2) (f : SFields) : IsWord.Statement (.cpyq sel f) := rfl
theorem IsWord.gath (sel : BitVec 2) (f : SFields) : IsWord.Statement (.gath sel f) := rfl
theorem IsWord.mma (sel : BitVec 3) (f : SFields) : IsWord.Statement (.mma sel f) := rfl
theorem IsWord.mmaZ (sel : BitVec 3) (f : SFields) : IsWord.Statement (.mmaZ sel f) := rfl
theorem IsWord.mtile (sel : BitVec 3) (f : SFields) : IsWord.Statement (.mtile sel f) := rfl
theorem IsWord.mtileZ (sel : BitVec 3) (f : SFields) : IsWord.Statement (.mtileZ sel f) := rfl
theorem IsWord.wload (sel : BitVec 4) (f : SFields) : IsWord.Statement (.wload sel f) := rfl
theorem IsWord.wloadS24 (sel : BitVec 3) (f : SFields) : IsWord.Statement (.wloadS24 sel f) := rfl
theorem IsWord.accrd (f : SFields) : IsWord.Statement (.accrd f) := rfl
theorem IsWord.accwr (f : SFields) : IsWord.Statement (.accwr f) := rfl
theorem IsWord.accz (f : SFields) : IsWord.Statement (.accz f) := rfl
theorem IsWord.wmark (f : SFields) : IsWord.Statement (.wmark f) := rfl
theorem IsWord.perturb (f : SFields) : IsWord.Statement (.perturb f) := rfl
theorem IsWord.wtab (f : SFields) : IsWord.Statement (.wtab f) := rfl
theorem IsWord.topk (sel : BitVec 2) (f : SFields) : IsWord.Statement (.topk sel f) := rfl
theorem IsWord.topkM (sel : BitVec 2) (f : SFields) : IsWord.Statement (.topkM sel f) := rfl
theorem IsWord.decodeCb (f : SFields) : IsWord.Statement (.decodeCb f) := rfl
theorem IsWord.decodeS24 (f : SFields) : IsWord.Statement (.decodeS24 f) := rfl
theorem IsWord.decodeWn (sel : BitVec 3) (f : SFields) : IsWord.Statement (.decodeWn sel f) := rfl
theorem IsWord.decodeSwn (sel : BitVec 3) (f : SFields) : IsWord.Statement (.decodeSwn sel f) := rfl
theorem IsWord.cpy (sel : BitVec 6) (f : SFields) : IsWord.Statement (.cpy sel f) := rfl
theorem IsWord.give (f : SFields) : IsWord.Statement (.give f) := rfl
theorem IsWord.take (f : SFields) : IsWord.Statement (.take f) := rfl
theorem IsWord.barr (f : SFields) : IsWord.Statement (.barr f) := rfl
theorem IsWord.bwait (f : SFields) : IsWord.Statement (.bwait f) := rfl
theorem IsWord.bwaitS (f : SFields) : IsWord.Statement (.bwaitS f) := rfl
theorem IsWord.fetchw (f : SFields) : IsWord.Statement (.fetchw f) := rfl
theorem IsWord.dqpush (f : SFields) : IsWord.Statement (.dqpush f) := rfl
theorem IsWord.dqpop (f : SFields) : IsWord.Statement (.dqpop f) := rfl
theorem IsWord.dqsteal (f : SFields) : IsWord.Statement (.dqsteal f) := rfl
theorem IsWord.yield (f : SFields) : IsWord.Statement (.yield f) := rfl
theorem IsWord.qmap (f : SFields) : IsWord.Statement (.qmap f) := rfl
theorem IsWord.qreset (f : SFields) : IsWord.Statement (.qreset f) := rfl
theorem IsWord.arrive (f : SFields) : IsWord.Statement (.arrive f) := rfl
theorem IsWord.merge (f : SFields) : IsWord.Statement (.merge f) := rfl
theorem IsWord.ret (f : SFields) : IsWord.Statement (.ret f) := rfl
theorem IsWord.exit (f : SFields) : IsWord.Statement (.exit f) := rfl
theorem IsWord.nop (f : SFields) : IsWord.Statement (.nop f) := rfl
theorem IsWord.bkpt (f : SFields) : IsWord.Statement (.bkpt f) := rfl
theorem IsWord.rewind (f : SFields) : IsWord.Statement (.rewind f) := rfl
theorem IsWord.commit (f : SFields) : IsWord.Statement (.commit f) := rfl
theorem IsWord.pfx (f : XFields) : IsWord.Statement (.pfx f) := rfl
theorem IsWord.illegalEncoding (w : Word) : IsWord.Statement (.illegalEncoding w) := rfl
theorem IsWord.queueGrant (c : CrewRef) : IsWord.Statement (.queueGrant c) := rfl
theorem IsWord.bwaitReturn (c : CrewRef) : IsWord.Statement (.bwaitReturn c) := rfl
theorem IsWord.takeGrant (c : CrewRef) : IsWord.Statement (.takeGrant c) := rfl
theorem IsWord.fetchwReply (c : CrewRef) : IsWord.Statement (.fetchwReply c) := rfl
theorem IsWord.yieldWake (c : CrewRef) : IsWord.Statement (.yieldWake c) := rfl
theorem IsWord.transformReply (c : CrewRef) : IsWord.Statement (.transformReply c) := rfl
theorem IsWord.wtabTransfer (wg : Nat) : IsWord.Statement (.wtabTransfer wg) := rfl
theorem IsWord.matrixRowFinal (wg : Nat) : IsWord.Statement (.matrixRowFinal wg) := rfl
theorem IsWord.accrdWaitEnd (c : CrewRef) : IsWord.Statement (.accrdWaitEnd c) := rfl
theorem IsWord.mtileStep (wg : Nat) : IsWord.Statement (.mtileStep wg) := rfl
theorem IsWord.copyWrite (id : Nat) : IsWord.Statement (.copyWrite id) := rfl
theorem IsWord.cpyqElementPush (id : Nat) : IsWord.Statement (.cpyqElementPush id) := rfl
theorem IsWord.copyComplete (id : Nat) : IsWord.Statement (.copyComplete id) := rfl
theorem IsWord.copyEndEarly (id : Nat) : IsWord.Statement (.copyEndEarly id) := rfl
theorem IsWord.crewExited (c : CrewRef) : IsWord.Statement (.crewExited c) := rfl
theorem IsWord.nodeStart (node : Nat) : IsWord.Statement (.nodeStart node) := rfl
theorem IsWord.bulkCopyEnd (node : Nat) : IsWord.Statement (.bulkCopyEnd node) := rfl
theorem IsWord.workgroupPlace (node core : Nat) (spots : List Spot) (shadow : Option (Nat × List Spot)) : IsWord.Statement (.workgroupPlace node core spots shadow) := rfl
theorem IsWord.workgroupSave (wg addr : Nat) : IsWord.Statement (.workgroupSave wg addr) := rfl
theorem IsWord.workgroupRestore (wg core : Nat) (spots : List Spot) : IsWord.Statement (.workgroupRestore wg core spots) := rfl
theorem IsWord.reverseStep (c : CrewRef) : IsWord.Statement (.reverseStep c) := rfl
theorem IsWord.latchLossReplay (c : CrewRef) : IsWord.Statement (.latchLossReplay c) := rfl
theorem IsWord.registerErrorRecovery (c : CrewRef) (code : BitVec 7) (bad : Mask) : IsWord.Statement (.registerErrorRecovery c code bad) := rfl
theorem IsWord.stateErrorKill (wg : UpsetAt) : IsWord.Statement (.stateErrorKill wg) := rfl
theorem IsWord.scrubErrorReport (addr : Nat) : IsWord.Statement (.scrubErrorReport addr) := rfl
theorem IsWord.timingReplay (core : Nat) : IsWord.Statement (.timingReplay core) := rfl
theorem IsWord.coreRemoval (core : Nat) (saves : List (Nat × Nat)) : IsWord.Statement (.coreRemoval core saves) := rfl
theorem IsWord.watchdogExpired (wg : Nat) : IsWord.Statement (.watchdogExpired wg) := rfl
theorem IsWord.faultQueueRecheck (region : Nat) : IsWord.Statement (.faultQueueRecheck region) := rfl
theorem IsWord.pcSample (core sched : Nat) : IsWord.Statement (.pcSample core sched) := rfl
theorem IsWord.dvfsAdjust (src dst mhz : Nat) : IsWord.Statement (.dvfsAdjust src dst mhz) := rfl
theorem IsWord.mcrRoundDelivery (group off : Nat) : IsWord.Statement (.mcrRoundDelivery group off) := rfl
theorem IsWord.doorbellServe : IsWord.Statement .doorbellServe := rfl
theorem IsWord.attestationReportWritten : IsWord.Statement .attestationReportWritten := rfl
theorem IsWord.flitReceive (link : Nat) (good : Bool) : IsWord.Statement (.flitReceive link good) := rfl
theorem IsWord.linkRetrainDown (link : Nat) : IsWord.Statement (.linkRetrainDown link) := rfl
theorem IsWord.linkRetrainUp (link : Nat) : IsWord.Statement (.linkRetrainUp link) := rfl
theorem IsWord.linkRetrainDone (link : Nat) (ok : Bool) : IsWord.Statement (.linkRetrainDone link ok) := rfl
theorem IsWord.remoteAccess (addr : Nat) (a : RemoteOp) : IsWord.Statement (.remoteAccess addr a) := rfl
theorem IsWord.powerOnReset (boot : BootResult) : IsWord.Statement (.powerOnReset boot) := rfl
theorem IsWord.warmReset : IsWord.Statement .warmReset := rfl
theorem IsWord.coldReset (boot : BootResult) : IsWord.Statement (.coldReset boot) := rfl
theorem IsWord.thermalShutdown : IsWord.Statement .thermalShutdown := rfl
theorem IsWord.powerAlarmRaise (watts celsius : Nat) : IsWord.Statement (.powerAlarmRaise watts celsius) := rfl
theorem IsWord.powerAlarmClear (watts celsius : Nat) : IsWord.Statement (.powerAlarmClear watts celsius) := rfl
theorem IsWord.controlNodeRead (addr len : Nat) : IsWord.Statement (.controlNodeRead addr len) := rfl
theorem IsWord.controlNodeWrite (addr : Nat) (bytes : List Byte) : IsWord.Statement (.controlNodeWrite addr bytes) := rfl
theorem IsWord.mgmtRegisterWrite (off size : Nat) (val : DWord) : IsWord.Statement (.mgmtRegisterWrite off size val) := rfl
theorem IsWord.dbell (prio : BitVec 4) (val : DWord) : IsWord.Statement (.dbell prio val) := rfl
theorem IsWord.grpinst (addr : DWord) : IsWord.Statement (.grpinst addr) := rfl
theorem IsWord.grpremove (addr : DWord) : IsWord.Statement (.grpremove addr) := rfl
theorem IsWord.grpstatRead : IsWord.Statement .grpstatRead := rfl
theorem IsWord.ctlstatRead : IsWord.Statement .ctlstatRead := rfl
theorem IsWord.attstatRead : IsWord.Statement .attstatRead := rfl
theorem IsWord.errlostRead : IsWord.Statement .errlostRead := rfl
theorem IsWord.ctlopResume (val : DWord) : IsWord.Statement (.ctlopResume val) := rfl
theorem IsWord.ctlopHaltCrew (val : DWord) : IsWord.Statement (.ctlopHaltCrew val) := rfl
theorem IsWord.ctlopHaltWorkgroup (val : DWord) : IsWord.Statement (.ctlopHaltWorkgroup val) := rfl
theorem IsWord.ctlopKillWorkgroup (val : DWord) : IsWord.Statement (.ctlopKillWorkgroup val) := rfl
theorem IsWord.ctlopKillFaultDomain (val : DWord) : IsWord.Statement (.ctlopKillFaultDomain val) := rfl
theorem IsWord.attreq (addr : DWord) : IsWord.Statement (.attreq addr) := rfl
theorem IsWord.debugHaltCrew (c : CrewRef) : IsWord.Statement (.debugHaltCrew c) := rfl
theorem IsWord.debugHaltWorkgroup (wg : Nat) : IsWord.Statement (.debugHaltWorkgroup wg) := rfl
theorem IsWord.debugResume (c : CrewRef) : IsWord.Statement (.debugResume c) := rfl
theorem IsWord.debugStep (c : CrewRef) (n : Nat) : IsWord.Statement (.debugStep c n) := rfl
theorem IsWord.debugStepEnd (c : CrewRef) : IsWord.Statement (.debugStepEnd c) := rfl
theorem IsWord.debugBack (c : CrewRef) (target : DWord) : IsWord.Statement (.debugBack c target) := rfl
theorem IsWord.debugReadState (c : CrewRef) (item : DebugItem) : IsWord.Statement (.debugReadState c item) := rfl
theorem IsWord.debugWriteState (c : CrewRef) (item : DebugItem) (val : DWord) : IsWord.Statement (.debugWriteState c item val) := rfl
theorem IsWord.debugReadWake (c : CrewRef) : IsWord.Statement (.debugReadWake c) := rfl
theorem IsWord.debugBreakpointOn (n : BitVec 5) : IsWord.Statement (.debugBreakpointOn n) := rfl
theorem IsWord.debugBreakpointOff (n : BitVec 5) : IsWord.Statement (.debugBreakpointOff n) := rfl
theorem IsWord.debugWatchpointSet (w : BitVec 2) (p : Watchpoint) : IsWord.Statement (.debugWatchpointSet w p) := rfl
theorem IsWord.debugWatchpointClear (w : BitVec 2) : IsWord.Statement (.debugWatchpointClear w) := rfl
theorem IsWord.debugAttach (region : Nat) : IsWord.Statement (.debugAttach region) := rfl
theorem IsWord.debugDetach : IsWord.Statement .debugDetach := rfl

end Sys2Proof.Laws
end

