-- ==== Sys2Proof/Laws/Reset.lean ====
section
/-! SUPPORT. What the resets and the power alarm leave as it was and what they write, field by field (R373, R382). -/

namespace Sys2Proof.Machine

/-! State.settleAlarm writes the alarm and leaves the other fields (R382) -/

@[simp] theorem State.settleAlarm_mem (s : State) : s.settleAlarm.mem = s.mem := rfl
@[simp] theorem State.settleAlarm_tags (s : State) : s.settleAlarm.tags = s.tags := rfl
@[simp] theorem State.settleAlarm_failing (s : State) : s.settleAlarm.failing = s.failing := rfl
@[simp] theorem State.settleAlarm_tlb (s : State) : s.settleAlarm.tlb = s.tlb := rfl
@[simp] theorem State.settleAlarm_live (s : State) : s.settleAlarm.live = s.live := rfl
@[simp] theorem State.settleAlarm_walker (s : State) : s.settleAlarm.walker = s.walker := rfl
@[simp] theorem State.settleAlarm_unsettled (s : State) : s.settleAlarm.unsettled = s.unsettled := rfl
@[simp] theorem State.settleAlarm_crews (s : State) : s.settleAlarm.crews = s.crews := rfl
@[simp] theorem State.settleAlarm_snaps (s : State) : s.settleAlarm.snaps = s.snaps := rfl
@[simp] theorem State.settleAlarm_wgs (s : State) : s.settleAlarm.wgs = s.wgs := rfl
@[simp] theorem State.settleAlarm_copies (s : State) : s.settleAlarm.copies = s.copies := rfl
@[simp] theorem State.settleAlarm_cores (s : State) : s.settleAlarm.cores = s.cores := rfl
@[simp] theorem State.settleAlarm_nodes (s : State) : s.settleAlarm.nodes = s.nodes := rfl
@[simp] theorem State.settleAlarm_regions (s : State) : s.settleAlarm.regions = s.regions := rfl
@[simp] theorem State.settleAlarm_groups (s : State) : s.settleAlarm.groups = s.groups := rfl
@[simp] theorem State.settleAlarm_pubs (s : State) : s.settleAlarm.pubs = s.pubs := rfl
@[simp] theorem State.settleAlarm_edges (s : State) : s.settleAlarm.edges = s.edges := rfl
@[simp] theorem State.settleAlarm_port (s : State) : s.settleAlarm.port = s.port := rfl
@[simp] theorem State.settleAlarm_links (s : State) : s.settleAlarm.links = s.links := rfl
@[simp] theorem State.settleAlarm_dbg (s : State) : s.settleAlarm.dbg = s.dbg := rfl
@[simp] theorem State.settleAlarm_powered (s : State) : s.settleAlarm.powered = s.powered := rfl
@[simp] theorem State.settleAlarm_agenda (s : State) : s.settleAlarm.agenda = s.agenda := rfl
@[simp] theorem State.settleAlarm_turn (s : State) : s.settleAlarm.turn = s.turn := rfl
@[simp] theorem State.settleAlarm_cur (s : State) : s.settleAlarm.cur = s.cur := rfl
@[simp] theorem State.settleAlarm_fresh (s : State) : s.settleAlarm.fresh = s.fresh := rfl
@[simp] theorem State.settleAlarm_nextId (s : State) : s.settleAlarm.nextId = s.nextId := rfl

/-! State.dropWork: all work is gone; memory, the hub die's state and the model's own counters stay (R373, R382) -/

@[simp] theorem State.dropWork_mem (s : State) : s.dropWork.mem = s.mem := rfl
@[simp] theorem State.dropWork_failing (s : State) : s.dropWork.failing = s.failing := rfl
@[simp] theorem State.dropWork_groups (s : State) : s.dropWork.groups = s.groups := rfl
@[simp] theorem State.dropWork_port (s : State) : s.dropWork.port = s.port := rfl
@[simp] theorem State.dropWork_links (s : State) : s.dropWork.links = s.links := rfl
@[simp] theorem State.dropWork_dbg (s : State) : s.dropWork.dbg = s.dbg := rfl
@[simp] theorem State.dropWork_alarm (s : State) : s.dropWork.alarm = s.alarm := rfl
@[simp] theorem State.dropWork_powered (s : State) : s.dropWork.powered = s.powered := rfl
@[simp] theorem State.dropWork_turn (s : State) : s.dropWork.turn = s.turn := rfl
@[simp] theorem State.dropWork_fresh (s : State) : s.dropWork.fresh = s.fresh := rfl
@[simp] theorem State.dropWork_nextId (s : State) : s.dropWork.nextId = s.nextId := rfl
@[simp] theorem State.dropWork_tags (s : State) : s.dropWork.tags = [] := rfl
@[simp] theorem State.dropWork_tlb (s : State) : s.dropWork.tlb = [] := rfl
@[simp] theorem State.dropWork_live (s : State) : s.dropWork.live = [] := rfl
@[simp] theorem State.dropWork_walker (s : State) : s.dropWork.walker = [] := rfl
@[simp] theorem State.dropWork_unsettled (s : State) : s.dropWork.unsettled = [] := rfl
@[simp] theorem State.dropWork_crews (s : State) : s.dropWork.crews = [] := rfl
@[simp] theorem State.dropWork_snaps (s : State) : s.dropWork.snaps = [] := rfl
@[simp] theorem State.dropWork_wgs (s : State) : s.dropWork.wgs = [] := rfl
@[simp] theorem State.dropWork_copies (s : State) : s.dropWork.copies = [] := rfl
@[simp] theorem State.dropWork_nodes (s : State) : s.dropWork.nodes = [] := rfl
@[simp] theorem State.dropWork_regions (s : State) : s.dropWork.regions = [] := rfl
@[simp] theorem State.dropWork_pubs (s : State) : s.dropWork.pubs = [] := rfl
@[simp] theorem State.dropWork_edges (s : State) : s.dropWork.edges = [] := rfl
@[simp] theorem State.dropWork_cur (s : State) : s.dropWork.cur = none := rfl

/-! State.warm: work and groups gone, the port as Port.warm leaves it (R373, log 23) -/

@[simp] theorem State.warm_mem (s : State) : s.warm.mem = s.mem := rfl
@[simp] theorem State.warm_failing (s : State) : s.warm.failing = s.failing := rfl
@[simp] theorem State.warm_links (s : State) : s.warm.links = s.links := rfl
@[simp] theorem State.warm_dbg (s : State) : s.warm.dbg = s.dbg := rfl
@[simp] theorem State.warm_powered (s : State) : s.warm.powered = s.powered := rfl
@[simp] theorem State.warm_turn (s : State) : s.warm.turn = s.turn := rfl
@[simp] theorem State.warm_fresh (s : State) : s.warm.fresh = s.fresh := rfl
@[simp] theorem State.warm_nextId (s : State) : s.warm.nextId = s.nextId := rfl
@[simp] theorem State.warm_tags (s : State) : s.warm.tags = [] := rfl
@[simp] theorem State.warm_tlb (s : State) : s.warm.tlb = [] := rfl
@[simp] theorem State.warm_live (s : State) : s.warm.live = [] := rfl
@[simp] theorem State.warm_walker (s : State) : s.warm.walker = [] := rfl
@[simp] theorem State.warm_unsettled (s : State) : s.warm.unsettled = [] := rfl
@[simp] theorem State.warm_crews (s : State) : s.warm.crews = [] := rfl
@[simp] theorem State.warm_snaps (s : State) : s.warm.snaps = [] := rfl
@[simp] theorem State.warm_wgs (s : State) : s.warm.wgs = [] := rfl
@[simp] theorem State.warm_copies (s : State) : s.warm.copies = [] := rfl
@[simp] theorem State.warm_nodes (s : State) : s.warm.nodes = [] := rfl
@[simp] theorem State.warm_regions (s : State) : s.warm.regions = [] := rfl
@[simp] theorem State.warm_pubs (s : State) : s.warm.pubs = [] := rfl
@[simp] theorem State.warm_edges (s : State) : s.warm.edges = [] := rfl
@[simp] theorem State.warm_groups (s : State) : s.warm.groups = [] := rfl
@[simp] theorem State.warm_cur (s : State) : s.warm.cur = none := rfl
@[simp] theorem State.warm_port (s : State) : s.warm.port = s.port.warm := rfl

end Sys2Proof.Machine
end

