-- ==== Sys2Proof/Laws/State.lean ====
section
/-! SUPPORT. Lemmas of record updates of the state: what each named update of the machine or of a crew leaves as it was,
field by field, and what it writes. -/

namespace Sys2Proof.Machine

/-! State.setCrew writes crews and leaves the other fields -/

@[simp] theorem State.setCrew_mem (s : State) (c : Crew) : (s.setCrew c).mem = s.mem := rfl
@[simp] theorem State.setCrew_tags (s : State) (c : Crew) : (s.setCrew c).tags = s.tags := rfl
@[simp] theorem State.setCrew_failing (s : State) (c : Crew) : (s.setCrew c).failing = s.failing := rfl
@[simp] theorem State.setCrew_tlb (s : State) (c : Crew) : (s.setCrew c).tlb = s.tlb := rfl
@[simp] theorem State.setCrew_live (s : State) (c : Crew) : (s.setCrew c).live = s.live := rfl
@[simp] theorem State.setCrew_walker (s : State) (c : Crew) : (s.setCrew c).walker = s.walker := rfl
@[simp] theorem State.setCrew_unsettled (s : State) (c : Crew) : (s.setCrew c).unsettled = s.unsettled := rfl
@[simp] theorem State.setCrew_snaps (s : State) (c : Crew) : (s.setCrew c).snaps = s.snaps := rfl
@[simp] theorem State.setCrew_wgs (s : State) (c : Crew) : (s.setCrew c).wgs = s.wgs := rfl
@[simp] theorem State.setCrew_copies (s : State) (c : Crew) : (s.setCrew c).copies = s.copies := rfl
@[simp] theorem State.setCrew_cores (s : State) (c : Crew) : (s.setCrew c).cores = s.cores := rfl
@[simp] theorem State.setCrew_nodes (s : State) (c : Crew) : (s.setCrew c).nodes = s.nodes := rfl
@[simp] theorem State.setCrew_regions (s : State) (c : Crew) : (s.setCrew c).regions = s.regions := rfl
@[simp] theorem State.setCrew_groups (s : State) (c : Crew) : (s.setCrew c).groups = s.groups := rfl
@[simp] theorem State.setCrew_pubs (s : State) (c : Crew) : (s.setCrew c).pubs = s.pubs := rfl
@[simp] theorem State.setCrew_edges (s : State) (c : Crew) : (s.setCrew c).edges = s.edges := rfl
@[simp] theorem State.setCrew_port (s : State) (c : Crew) : (s.setCrew c).port = s.port := rfl
@[simp] theorem State.setCrew_links (s : State) (c : Crew) : (s.setCrew c).links = s.links := rfl
@[simp] theorem State.setCrew_dbg (s : State) (c : Crew) : (s.setCrew c).dbg = s.dbg := rfl
@[simp] theorem State.setCrew_alarm (s : State) (c : Crew) : (s.setCrew c).alarm = s.alarm := rfl
@[simp] theorem State.setCrew_powered (s : State) (c : Crew) : (s.setCrew c).powered = s.powered := rfl
@[simp] theorem State.setCrew_agenda (s : State) (c : Crew) : (s.setCrew c).agenda = s.agenda := rfl
@[simp] theorem State.setCrew_turn (s : State) (c : Crew) : (s.setCrew c).turn = s.turn := rfl
@[simp] theorem State.setCrew_cur (s : State) (c : Crew) : (s.setCrew c).cur = s.cur := rfl
@[simp] theorem State.setCrew_fresh (s : State) (c : Crew) : (s.setCrew c).fresh = s.fresh := rfl
@[simp] theorem State.setCrew_nextId (s : State) (c : Crew) : (s.setCrew c).nextId = s.nextId := rfl

/-! State.setWg writes wgs and leaves the other fields -/

@[simp] theorem State.setWg_mem (s : State) (w : Wg) : (s.setWg w).mem = s.mem := rfl
@[simp] theorem State.setWg_tags (s : State) (w : Wg) : (s.setWg w).tags = s.tags := rfl
@[simp] theorem State.setWg_failing (s : State) (w : Wg) : (s.setWg w).failing = s.failing := rfl
@[simp] theorem State.setWg_tlb (s : State) (w : Wg) : (s.setWg w).tlb = s.tlb := rfl
@[simp] theorem State.setWg_live (s : State) (w : Wg) : (s.setWg w).live = s.live := rfl
@[simp] theorem State.setWg_walker (s : State) (w : Wg) : (s.setWg w).walker = s.walker := rfl
@[simp] theorem State.setWg_unsettled (s : State) (w : Wg) : (s.setWg w).unsettled = s.unsettled := rfl
@[simp] theorem State.setWg_crews (s : State) (w : Wg) : (s.setWg w).crews = s.crews := rfl
@[simp] theorem State.setWg_snaps (s : State) (w : Wg) : (s.setWg w).snaps = s.snaps := rfl
@[simp] theorem State.setWg_copies (s : State) (w : Wg) : (s.setWg w).copies = s.copies := rfl
@[simp] theorem State.setWg_cores (s : State) (w : Wg) : (s.setWg w).cores = s.cores := rfl
@[simp] theorem State.setWg_nodes (s : State) (w : Wg) : (s.setWg w).nodes = s.nodes := rfl
@[simp] theorem State.setWg_regions (s : State) (w : Wg) : (s.setWg w).regions = s.regions := rfl
@[simp] theorem State.setWg_groups (s : State) (w : Wg) : (s.setWg w).groups = s.groups := rfl
@[simp] theorem State.setWg_pubs (s : State) (w : Wg) : (s.setWg w).pubs = s.pubs := rfl
@[simp] theorem State.setWg_edges (s : State) (w : Wg) : (s.setWg w).edges = s.edges := rfl
@[simp] theorem State.setWg_port (s : State) (w : Wg) : (s.setWg w).port = s.port := rfl
@[simp] theorem State.setWg_links (s : State) (w : Wg) : (s.setWg w).links = s.links := rfl
@[simp] theorem State.setWg_dbg (s : State) (w : Wg) : (s.setWg w).dbg = s.dbg := rfl
@[simp] theorem State.setWg_alarm (s : State) (w : Wg) : (s.setWg w).alarm = s.alarm := rfl
@[simp] theorem State.setWg_powered (s : State) (w : Wg) : (s.setWg w).powered = s.powered := rfl
@[simp] theorem State.setWg_agenda (s : State) (w : Wg) : (s.setWg w).agenda = s.agenda := rfl
@[simp] theorem State.setWg_turn (s : State) (w : Wg) : (s.setWg w).turn = s.turn := rfl
@[simp] theorem State.setWg_cur (s : State) (w : Wg) : (s.setWg w).cur = s.cur := rfl
@[simp] theorem State.setWg_fresh (s : State) (w : Wg) : (s.setWg w).fresh = s.fresh := rfl
@[simp] theorem State.setWg_nextId (s : State) (w : Wg) : (s.setWg w).nextId = s.nextId := rfl

/-! State.setNode writes nodes and leaves the other fields -/

@[simp] theorem State.setNode_mem (s : State) (n : NodeRun) : (s.setNode n).mem = s.mem := rfl
@[simp] theorem State.setNode_tags (s : State) (n : NodeRun) : (s.setNode n).tags = s.tags := rfl
@[simp] theorem State.setNode_failing (s : State) (n : NodeRun) : (s.setNode n).failing = s.failing := rfl
@[simp] theorem State.setNode_tlb (s : State) (n : NodeRun) : (s.setNode n).tlb = s.tlb := rfl
@[simp] theorem State.setNode_live (s : State) (n : NodeRun) : (s.setNode n).live = s.live := rfl
@[simp] theorem State.setNode_walker (s : State) (n : NodeRun) : (s.setNode n).walker = s.walker := rfl
@[simp] theorem State.setNode_unsettled (s : State) (n : NodeRun) : (s.setNode n).unsettled = s.unsettled := rfl
@[simp] theorem State.setNode_crews (s : State) (n : NodeRun) : (s.setNode n).crews = s.crews := rfl
@[simp] theorem State.setNode_snaps (s : State) (n : NodeRun) : (s.setNode n).snaps = s.snaps := rfl
@[simp] theorem State.setNode_wgs (s : State) (n : NodeRun) : (s.setNode n).wgs = s.wgs := rfl
@[simp] theorem State.setNode_copies (s : State) (n : NodeRun) : (s.setNode n).copies = s.copies := rfl
@[simp] theorem State.setNode_cores (s : State) (n : NodeRun) : (s.setNode n).cores = s.cores := rfl
@[simp] theorem State.setNode_regions (s : State) (n : NodeRun) : (s.setNode n).regions = s.regions := rfl
@[simp] theorem State.setNode_groups (s : State) (n : NodeRun) : (s.setNode n).groups = s.groups := rfl
@[simp] theorem State.setNode_pubs (s : State) (n : NodeRun) : (s.setNode n).pubs = s.pubs := rfl
@[simp] theorem State.setNode_edges (s : State) (n : NodeRun) : (s.setNode n).edges = s.edges := rfl
@[simp] theorem State.setNode_port (s : State) (n : NodeRun) : (s.setNode n).port = s.port := rfl
@[simp] theorem State.setNode_links (s : State) (n : NodeRun) : (s.setNode n).links = s.links := rfl
@[simp] theorem State.setNode_dbg (s : State) (n : NodeRun) : (s.setNode n).dbg = s.dbg := rfl
@[simp] theorem State.setNode_alarm (s : State) (n : NodeRun) : (s.setNode n).alarm = s.alarm := rfl
@[simp] theorem State.setNode_powered (s : State) (n : NodeRun) : (s.setNode n).powered = s.powered := rfl
@[simp] theorem State.setNode_agenda (s : State) (n : NodeRun) : (s.setNode n).agenda = s.agenda := rfl
@[simp] theorem State.setNode_turn (s : State) (n : NodeRun) : (s.setNode n).turn = s.turn := rfl
@[simp] theorem State.setNode_cur (s : State) (n : NodeRun) : (s.setNode n).cur = s.cur := rfl
@[simp] theorem State.setNode_fresh (s : State) (n : NodeRun) : (s.setNode n).fresh = s.fresh := rfl
@[simp] theorem State.setNode_nextId (s : State) (n : NodeRun) : (s.setNode n).nextId = s.nextId := rfl

/-! State.setRegion writes regions and leaves the other fields -/

@[simp] theorem State.setRegion_mem (s : State) (r : Region) : (s.setRegion r).mem = s.mem := rfl
@[simp] theorem State.setRegion_tags (s : State) (r : Region) : (s.setRegion r).tags = s.tags := rfl
@[simp] theorem State.setRegion_failing (s : State) (r : Region) : (s.setRegion r).failing = s.failing := rfl
@[simp] theorem State.setRegion_tlb (s : State) (r : Region) : (s.setRegion r).tlb = s.tlb := rfl
@[simp] theorem State.setRegion_live (s : State) (r : Region) : (s.setRegion r).live = s.live := rfl
@[simp] theorem State.setRegion_walker (s : State) (r : Region) : (s.setRegion r).walker = s.walker := rfl
@[simp] theorem State.setRegion_unsettled (s : State) (r : Region) : (s.setRegion r).unsettled = s.unsettled := rfl
@[simp] theorem State.setRegion_crews (s : State) (r : Region) : (s.setRegion r).crews = s.crews := rfl
@[simp] theorem State.setRegion_snaps (s : State) (r : Region) : (s.setRegion r).snaps = s.snaps := rfl
@[simp] theorem State.setRegion_wgs (s : State) (r : Region) : (s.setRegion r).wgs = s.wgs := rfl
@[simp] theorem State.setRegion_copies (s : State) (r : Region) : (s.setRegion r).copies = s.copies := rfl
@[simp] theorem State.setRegion_cores (s : State) (r : Region) : (s.setRegion r).cores = s.cores := rfl
@[simp] theorem State.setRegion_nodes (s : State) (r : Region) : (s.setRegion r).nodes = s.nodes := rfl
@[simp] theorem State.setRegion_groups (s : State) (r : Region) : (s.setRegion r).groups = s.groups := rfl
@[simp] theorem State.setRegion_pubs (s : State) (r : Region) : (s.setRegion r).pubs = s.pubs := rfl
@[simp] theorem State.setRegion_edges (s : State) (r : Region) : (s.setRegion r).edges = s.edges := rfl
@[simp] theorem State.setRegion_port (s : State) (r : Region) : (s.setRegion r).port = s.port := rfl
@[simp] theorem State.setRegion_links (s : State) (r : Region) : (s.setRegion r).links = s.links := rfl
@[simp] theorem State.setRegion_dbg (s : State) (r : Region) : (s.setRegion r).dbg = s.dbg := rfl
@[simp] theorem State.setRegion_alarm (s : State) (r : Region) : (s.setRegion r).alarm = s.alarm := rfl
@[simp] theorem State.setRegion_powered (s : State) (r : Region) : (s.setRegion r).powered = s.powered := rfl
@[simp] theorem State.setRegion_agenda (s : State) (r : Region) : (s.setRegion r).agenda = s.agenda := rfl
@[simp] theorem State.setRegion_turn (s : State) (r : Region) : (s.setRegion r).turn = s.turn := rfl
@[simp] theorem State.setRegion_cur (s : State) (r : Region) : (s.setRegion r).cur = s.cur := rfl
@[simp] theorem State.setRegion_fresh (s : State) (r : Region) : (s.setRegion r).fresh = s.fresh := rfl
@[simp] theorem State.setRegion_nextId (s : State) (r : Region) : (s.setRegion r).nextId = s.nextId := rfl

/-! State.setCopy writes copies and leaves the other fields -/

@[simp] theorem State.setCopy_mem (s : State) (k : CopyCmd) : (s.setCopy k).mem = s.mem := rfl
@[simp] theorem State.setCopy_tags (s : State) (k : CopyCmd) : (s.setCopy k).tags = s.tags := rfl
@[simp] theorem State.setCopy_failing (s : State) (k : CopyCmd) : (s.setCopy k).failing = s.failing := rfl
@[simp] theorem State.setCopy_tlb (s : State) (k : CopyCmd) : (s.setCopy k).tlb = s.tlb := rfl
@[simp] theorem State.setCopy_live (s : State) (k : CopyCmd) : (s.setCopy k).live = s.live := rfl
@[simp] theorem State.setCopy_walker (s : State) (k : CopyCmd) : (s.setCopy k).walker = s.walker := rfl
@[simp] theorem State.setCopy_unsettled (s : State) (k : CopyCmd) : (s.setCopy k).unsettled = s.unsettled := rfl
@[simp] theorem State.setCopy_crews (s : State) (k : CopyCmd) : (s.setCopy k).crews = s.crews := rfl
@[simp] theorem State.setCopy_snaps (s : State) (k : CopyCmd) : (s.setCopy k).snaps = s.snaps := rfl
@[simp] theorem State.setCopy_wgs (s : State) (k : CopyCmd) : (s.setCopy k).wgs = s.wgs := rfl
@[simp] theorem State.setCopy_cores (s : State) (k : CopyCmd) : (s.setCopy k).cores = s.cores := rfl
@[simp] theorem State.setCopy_nodes (s : State) (k : CopyCmd) : (s.setCopy k).nodes = s.nodes := rfl
@[simp] theorem State.setCopy_regions (s : State) (k : CopyCmd) : (s.setCopy k).regions = s.regions := rfl
@[simp] theorem State.setCopy_groups (s : State) (k : CopyCmd) : (s.setCopy k).groups = s.groups := rfl
@[simp] theorem State.setCopy_pubs (s : State) (k : CopyCmd) : (s.setCopy k).pubs = s.pubs := rfl
@[simp] theorem State.setCopy_edges (s : State) (k : CopyCmd) : (s.setCopy k).edges = s.edges := rfl
@[simp] theorem State.setCopy_port (s : State) (k : CopyCmd) : (s.setCopy k).port = s.port := rfl
@[simp] theorem State.setCopy_links (s : State) (k : CopyCmd) : (s.setCopy k).links = s.links := rfl
@[simp] theorem State.setCopy_dbg (s : State) (k : CopyCmd) : (s.setCopy k).dbg = s.dbg := rfl
@[simp] theorem State.setCopy_alarm (s : State) (k : CopyCmd) : (s.setCopy k).alarm = s.alarm := rfl
@[simp] theorem State.setCopy_powered (s : State) (k : CopyCmd) : (s.setCopy k).powered = s.powered := rfl
@[simp] theorem State.setCopy_agenda (s : State) (k : CopyCmd) : (s.setCopy k).agenda = s.agenda := rfl
@[simp] theorem State.setCopy_turn (s : State) (k : CopyCmd) : (s.setCopy k).turn = s.turn := rfl
@[simp] theorem State.setCopy_cur (s : State) (k : CopyCmd) : (s.setCopy k).cur = s.cur := rfl
@[simp] theorem State.setCopy_fresh (s : State) (k : CopyCmd) : (s.setCopy k).fresh = s.fresh := rfl
@[simp] theorem State.setCopy_nextId (s : State) (k : CopyCmd) : (s.setCopy k).nextId = s.nextId := rfl

/-! State.modCore writes cores and leaves the other fields -/

@[simp] theorem State.modCore_mem (s : State) (n : Nat) (f : Core → Core) : (s.modCore n f).mem = s.mem := rfl
@[simp] theorem State.modCore_tags (s : State) (n : Nat) (f : Core → Core) : (s.modCore n f).tags = s.tags := rfl
@[simp] theorem State.modCore_failing (s : State) (n : Nat) (f : Core → Core) : (s.modCore n f).failing = s.failing := rfl
@[simp] theorem State.modCore_tlb (s : State) (n : Nat) (f : Core → Core) : (s.modCore n f).tlb = s.tlb := rfl
@[simp] theorem State.modCore_live (s : State) (n : Nat) (f : Core → Core) : (s.modCore n f).live = s.live := rfl
@[simp] theorem State.modCore_walker (s : State) (n : Nat) (f : Core → Core) : (s.modCore n f).walker = s.walker := rfl
@[simp] theorem State.modCore_unsettled (s : State) (n : Nat) (f : Core → Core) : (s.modCore n f).unsettled = s.unsettled := rfl
@[simp] theorem State.modCore_crews (s : State) (n : Nat) (f : Core → Core) : (s.modCore n f).crews = s.crews := rfl
@[simp] theorem State.modCore_snaps (s : State) (n : Nat) (f : Core → Core) : (s.modCore n f).snaps = s.snaps := rfl
@[simp] theorem State.modCore_wgs (s : State) (n : Nat) (f : Core → Core) : (s.modCore n f).wgs = s.wgs := rfl
@[simp] theorem State.modCore_copies (s : State) (n : Nat) (f : Core → Core) : (s.modCore n f).copies = s.copies := rfl
@[simp] theorem State.modCore_nodes (s : State) (n : Nat) (f : Core → Core) : (s.modCore n f).nodes = s.nodes := rfl
@[simp] theorem State.modCore_regions (s : State) (n : Nat) (f : Core → Core) : (s.modCore n f).regions = s.regions := rfl
@[simp] theorem State.modCore_groups (s : State) (n : Nat) (f : Core → Core) : (s.modCore n f).groups = s.groups := rfl
@[simp] theorem State.modCore_pubs (s : State) (n : Nat) (f : Core → Core) : (s.modCore n f).pubs = s.pubs := rfl
@[simp] theorem State.modCore_edges (s : State) (n : Nat) (f : Core → Core) : (s.modCore n f).edges = s.edges := rfl
@[simp] theorem State.modCore_port (s : State) (n : Nat) (f : Core → Core) : (s.modCore n f).port = s.port := rfl
@[simp] theorem State.modCore_links (s : State) (n : Nat) (f : Core → Core) : (s.modCore n f).links = s.links := rfl
@[simp] theorem State.modCore_dbg (s : State) (n : Nat) (f : Core → Core) : (s.modCore n f).dbg = s.dbg := rfl
@[simp] theorem State.modCore_alarm (s : State) (n : Nat) (f : Core → Core) : (s.modCore n f).alarm = s.alarm := rfl
@[simp] theorem State.modCore_powered (s : State) (n : Nat) (f : Core → Core) : (s.modCore n f).powered = s.powered := rfl
@[simp] theorem State.modCore_agenda (s : State) (n : Nat) (f : Core → Core) : (s.modCore n f).agenda = s.agenda := rfl
@[simp] theorem State.modCore_turn (s : State) (n : Nat) (f : Core → Core) : (s.modCore n f).turn = s.turn := rfl
@[simp] theorem State.modCore_cur (s : State) (n : Nat) (f : Core → Core) : (s.modCore n f).cur = s.cur := rfl
@[simp] theorem State.modCore_fresh (s : State) (n : Nat) (f : Core → Core) : (s.modCore n f).fresh = s.fresh := rfl
@[simp] theorem State.modCore_nextId (s : State) (n : Nat) (f : Core → Core) : (s.modCore n f).nextId = s.nextId := rfl

/-! State.modCrews writes crews and leaves the other fields -/

@[simp] theorem State.modCrews_mem (s : State) (u : Nat) (f : Crew → Crew) : (s.modCrews u f).mem = s.mem := rfl
@[simp] theorem State.modCrews_tags (s : State) (u : Nat) (f : Crew → Crew) : (s.modCrews u f).tags = s.tags := rfl
@[simp] theorem State.modCrews_failing (s : State) (u : Nat) (f : Crew → Crew) : (s.modCrews u f).failing = s.failing := rfl
@[simp] theorem State.modCrews_tlb (s : State) (u : Nat) (f : Crew → Crew) : (s.modCrews u f).tlb = s.tlb := rfl
@[simp] theorem State.modCrews_live (s : State) (u : Nat) (f : Crew → Crew) : (s.modCrews u f).live = s.live := rfl
@[simp] theorem State.modCrews_walker (s : State) (u : Nat) (f : Crew → Crew) : (s.modCrews u f).walker = s.walker := rfl
@[simp] theorem State.modCrews_unsettled (s : State) (u : Nat) (f : Crew → Crew) :
    (s.modCrews u f).unsettled = s.unsettled := rfl
@[simp] theorem State.modCrews_snaps (s : State) (u : Nat) (f : Crew → Crew) : (s.modCrews u f).snaps = s.snaps := rfl
@[simp] theorem State.modCrews_wgs (s : State) (u : Nat) (f : Crew → Crew) : (s.modCrews u f).wgs = s.wgs := rfl
@[simp] theorem State.modCrews_copies (s : State) (u : Nat) (f : Crew → Crew) : (s.modCrews u f).copies = s.copies := rfl
@[simp] theorem State.modCrews_cores (s : State) (u : Nat) (f : Crew → Crew) : (s.modCrews u f).cores = s.cores := rfl
@[simp] theorem State.modCrews_nodes (s : State) (u : Nat) (f : Crew → Crew) : (s.modCrews u f).nodes = s.nodes := rfl
@[simp] theorem State.modCrews_regions (s : State) (u : Nat) (f : Crew → Crew) : (s.modCrews u f).regions = s.regions := rfl
@[simp] theorem State.modCrews_groups (s : State) (u : Nat) (f : Crew → Crew) : (s.modCrews u f).groups = s.groups := rfl
@[simp] theorem State.modCrews_pubs (s : State) (u : Nat) (f : Crew → Crew) : (s.modCrews u f).pubs = s.pubs := rfl
@[simp] theorem State.modCrews_edges (s : State) (u : Nat) (f : Crew → Crew) : (s.modCrews u f).edges = s.edges := rfl
@[simp] theorem State.modCrews_port (s : State) (u : Nat) (f : Crew → Crew) : (s.modCrews u f).port = s.port := rfl
@[simp] theorem State.modCrews_links (s : State) (u : Nat) (f : Crew → Crew) : (s.modCrews u f).links = s.links := rfl
@[simp] theorem State.modCrews_dbg (s : State) (u : Nat) (f : Crew → Crew) : (s.modCrews u f).dbg = s.dbg := rfl
@[simp] theorem State.modCrews_alarm (s : State) (u : Nat) (f : Crew → Crew) : (s.modCrews u f).alarm = s.alarm := rfl
@[simp] theorem State.modCrews_powered (s : State) (u : Nat) (f : Crew → Crew) : (s.modCrews u f).powered = s.powered := rfl
@[simp] theorem State.modCrews_agenda (s : State) (u : Nat) (f : Crew → Crew) : (s.modCrews u f).agenda = s.agenda := rfl
@[simp] theorem State.modCrews_turn (s : State) (u : Nat) (f : Crew → Crew) : (s.modCrews u f).turn = s.turn := rfl
@[simp] theorem State.modCrews_cur (s : State) (u : Nat) (f : Crew → Crew) : (s.modCrews u f).cur = s.cur := rfl
@[simp] theorem State.modCrews_fresh (s : State) (u : Nat) (f : Crew → Crew) : (s.modCrews u f).fresh = s.fresh := rfl
@[simp] theorem State.modCrews_nextId (s : State) (u : Nat) (f : Crew → Crew) : (s.modCrews u f).nextId = s.nextId := rfl

/-! What each of these operations writes -/

theorem State.setCrew_crews (s : State) (c : Crew) :
    (s.setCrew c).crews = s.crews.map fun x => if x.wg == c.wg && x.idx == c.idx then c else x := rfl
theorem State.setWg_wgs (s : State) (w : Wg) :
    (s.setWg w).wgs = s.wgs.map fun x => if x.uid == w.uid then w else x := rfl
theorem State.setNode_nodes (s : State) (n : NodeRun) :
    (s.setNode n).nodes = s.nodes.map fun x => if x.id == n.id then n else x := rfl
theorem State.setRegion_regions (s : State) (r : Region) :
    (s.setRegion r).regions = s.regions.map fun x => if x.rcb == r.rcb then r else x := rfl
theorem State.setCopy_copies (s : State) (k : CopyCmd) :
    (s.setCopy k).copies = s.copies.map fun x => if x.id == k.id then k else x := rfl
theorem State.modCore_cores (s : State) (n : Nat) (f : Core → Core) :
    (s.modCore n f).cores = s.cores.modify n f := rfl
theorem State.modCrews_crews (s : State) (u : Nat) (f : Crew → Crew) :
    (s.modCrews u f).crews = s.crews.map fun x => if x.wg == u then f x else x := rfl

/-! Crew.setSreg leaves every field but s -/

@[simp] theorem Crew.setSreg_wg (c : Crew) (n : Nat) (w : Word) : (c.setSreg n w).wg = c.wg := rfl
@[simp] theorem Crew.setSreg_idx (c : Crew) (n : Nat) (w : Word) : (c.setSreg n w).idx = c.idx := rfl
@[simp] theorem Crew.setSreg_sched (c : Crew) (n : Nat) (w : Word) : (c.setSreg n w).sched = c.sched := rfl
@[simp] theorem Crew.setSreg_slot (c : Crew) (n : Nat) (w : Word) : (c.setSreg n w).slot = c.slot := rfl
@[simp] theorem Crew.setSreg_st (c : Crew) (n : Nat) (w : Word) : (c.setSreg n w).st = c.st := rfl
@[simp] theorem Crew.setSreg_wait (c : Crew) (n : Nat) (w : Word) : (c.setSreg n w).wait = c.wait := rfl
@[simp] theorem Crew.setSreg_since (c : Crew) (n : Nat) (w : Word) : (c.setSreg n w).since = c.since := rfl
@[simp] theorem Crew.setSreg_chain (c : Crew) (n : Nat) (w : Word) : (c.setSreg n w).chain = c.chain := rfl
@[simp] theorem Crew.setSreg_packet (c : Crew) (n : Nat) (w : Word) : (c.setSreg n w).packet = c.packet := rfl
@[simp] theorem Crew.setSreg_granted (c : Crew) (n : Nat) (w : Word) : (c.setSreg n w).granted = c.granted := rfl
@[simp] theorem Crew.setSreg_waitcnt (c : Crew) (n : Nat) (w : Word) : (c.setSreg n w).waitcnt = c.waitcnt := rfl
@[simp] theorem Crew.setSreg_reason (c : Crew) (n : Nat) (w : Word) : (c.setSreg n w).reason = c.reason := rfl
@[simp] theorem Crew.setSreg_parkpend (c : Crew) (n : Nat) (w : Word) : (c.setSreg n w).parkpend = c.parkpend := rfl
@[simp] theorem Crew.setSreg_norun (c : Crew) (n : Nat) (w : Word) : (c.setSreg n w).norun = c.norun := rfl
@[simp] theorem Crew.setSreg_pc (c : Crew) (n : Nat) (w : Word) : (c.setSreg n w).pc = c.pc := rfl
@[simp] theorem Crew.setSreg_ic (c : Crew) (n : Nat) (w : Word) : (c.setSreg n w).ic = c.ic := rfl
@[simp] theorem Crew.setSreg_pfx (c : Crew) (n : Nat) (w : Word) : (c.setSreg n w).pfx = c.pfx := rfl
@[simp] theorem Crew.setSreg_walk (c : Crew) (n : Nat) (w : Word) : (c.setSreg n w).walk = c.walk := rfl
@[simp] theorem Crew.setSreg_replays (c : Crew) (n : Nat) (w : Word) : (c.setSreg n w).replays = c.replays := rfl
@[simp] theorem Crew.setSreg_cf (c : Crew) (n : Nat) (w : Word) : (c.setSreg n w).cf = c.cf := rfl
@[simp] theorem Crew.setSreg_xfer (c : Crew) (n : Nat) (w : Word) : (c.setSreg n w).xfer = c.xfer := rfl
@[simp] theorem Crew.setSreg_fmode (c : Crew) (n : Nat) (w : Word) : (c.setSreg n w).fmode = c.fmode := rfl
@[simp] theorem Crew.setSreg_mask (c : Crew) (n : Nat) (w : Word) : (c.setSreg n w).mask = c.mask := rfl
@[simp] theorem Crew.setSreg_mstack (c : Crew) (n : Nat) (w : Word) : (c.setSreg n w).mstack = c.mstack := rfl
@[simp] theorem Crew.setSreg_exited (c : Crew) (n : Nat) (w : Word) : (c.setSreg n w).exited = c.exited := rfl
@[simp] theorem Crew.setSreg_v (c : Crew) (n : Nat) (w : Word) : (c.setSreg n w).v = c.v := rfl
@[simp] theorem Crew.setSreg_o (c : Crew) (n : Nat) (w : Word) : (c.setSreg n w).o = c.o := rfl
@[simp] theorem Crew.setSreg_l (c : Crew) (n : Nat) (w : Word) : (c.setSreg n w).l = c.l := rfl
@[simp] theorem Crew.setSreg_m (c : Crew) (n : Nat) (w : Word) : (c.setSreg n w).m = c.m := rfl
@[simp] theorem Crew.setSreg_p (c : Crew) (n : Nat) (w : Word) : (c.setSreg n w).p = c.p := rfl
@[simp] theorem Crew.setSreg_sp (c : Crew) (n : Nat) (w : Word) : (c.setSreg n w).sp = c.sp := rfl
@[simp] theorem Crew.setSreg_lfsr (c : Crew) (n : Nat) (w : Word) : (c.setSreg n w).lfsr = c.lfsr := rfl
@[simp] theorem Crew.setSreg_tvec (c : Crew) (n : Nat) (w : Word) : (c.setSreg n w).tvec = c.tvec := rfl
@[simp] theorem Crew.setSreg_tpc (c : Crew) (n : Nat) (w : Word) : (c.setSreg n w).tpc = c.tpc := rfl
@[simp] theorem Crew.setSreg_tcause (c : Crew) (n : Nat) (w : Word) : (c.setSreg n w).tcause = c.tcause := rfl
@[simp] theorem Crew.setSreg_taddr (c : Crew) (n : Nat) (w : Word) : (c.setSreg n w).taddr = c.taddr := rfl
@[simp] theorem Crew.setSreg_tgt (c : Crew) (n : Nat) (w : Word) : (c.setSreg n w).tgt = c.tgt := rfl
@[simp] theorem Crew.setSreg_intrap (c : Crew) (n : Nat) (w : Word) : (c.setSreg n w).intrap = c.intrap := rfl
@[simp] theorem Crew.setSreg_commit (c : Crew) (n : Nat) (w : Word) : (c.setSreg n w).commit = c.commit := rfl
@[simp] theorem Crew.setSreg_commitAt (c : Crew) (n : Nat) (w : Word) : (c.setSreg n w).commitAt = c.commitAt := rfl
@[simp] theorem Crew.setSreg_wake (c : Crew) (n : Nat) (w : Word) : (c.setSreg n w).wake = c.wake := rfl
@[simp] theorem Crew.setSreg_wakep (c : Crew) (n : Nat) (w : Word) : (c.setSreg n w).wakep = c.wakep := rfl
@[simp] theorem Crew.setSreg_tail (c : Crew) (n : Nat) (w : Word) : (c.setSreg n w).tail = c.tail := rfl
@[simp] theorem Crew.setSreg_shareBase (c : Crew) (n : Nat) (w : Word) : (c.setSreg n w).shareBase = c.shareBase := rfl
@[simp] theorem Crew.setSreg_shareSize (c : Crew) (n : Nat) (w : Word) : (c.setSreg n w).shareSize = c.shareSize := rfl
@[simp] theorem Crew.setSreg_pend (c : Crew) (n : Nat) (w : Word) : (c.setSreg n w).pend = c.pend := rfl
@[simp] theorem Crew.setSreg_runon (c : Crew) (n : Nat) (w : Word) : (c.setSreg n w).runon = c.runon := rfl
@[simp] theorem Crew.setSreg_steps (c : Crew) (n : Nat) (w : Word) : (c.setSreg n w).steps = c.steps := rfl
@[simp] theorem Crew.setSreg_bkptOnce (c : Crew) (n : Nat) (w : Word) : (c.setSreg n w).bkptOnce = c.bkptOnce := rfl
@[simp] theorem Crew.setSreg_expired (c : Crew) (n : Nat) (w : Word) : (c.setSreg n w).expired = c.expired := rfl
@[simp] theorem Crew.setSreg_badRegs (c : Crew) (n : Nat) (w : Word) : (c.setSreg n w).badRegs = c.badRegs := rfl
@[simp] theorem Crew.setSreg_stat (c : Crew) (n : Nat) (w : Word) : (c.setSreg n w).stat = c.stat := rfl
@[simp] theorem Crew.setSreg_clock (c : Crew) (n : Nat) (w : Word) : (c.setSreg n w).clock = c.clock := rfl
@[simp] theorem Crew.setSreg_relScope (c : Crew) (n : Nat) (w : Word) : (c.setSreg n w).relScope = c.relScope := rfl
@[simp] theorem Crew.setSreg_pendAcq (c : Crew) (n : Nat) (w : Word) : (c.setSreg n w).pendAcq = c.pendAcq := rfl
@[simp] theorem Crew.setSreg_fenceClk (c : Crew) (n : Nat) (w : Word) : (c.setSreg n w).fenceClk = c.fenceClk := rfl
@[simp] theorem Crew.setSreg_recWait (c : Crew) (n : Nat) (w : Word) : (c.setSreg n w).recWait = c.recWait := rfl
@[simp] theorem Crew.setSreg_crc (c : Crew) (n : Nat) (w : Word) : (c.setSreg n w).crc = c.crc := rfl
@[simp] theorem Crew.setSreg_halting (c : Crew) (n : Nat) (w : Word) : (c.setSreg n w).halting = c.halting := rfl

/-! Crew.setMbox leaves every field but m -/

@[simp] theorem Crew.setMbox_wg (c : Crew) (n : Nat) (b : Mbox) : (c.setMbox n b).wg = c.wg := rfl
@[simp] theorem Crew.setMbox_idx (c : Crew) (n : Nat) (b : Mbox) : (c.setMbox n b).idx = c.idx := rfl
@[simp] theorem Crew.setMbox_sched (c : Crew) (n : Nat) (b : Mbox) : (c.setMbox n b).sched = c.sched := rfl
@[simp] theorem Crew.setMbox_slot (c : Crew) (n : Nat) (b : Mbox) : (c.setMbox n b).slot = c.slot := rfl
@[simp] theorem Crew.setMbox_st (c : Crew) (n : Nat) (b : Mbox) : (c.setMbox n b).st = c.st := rfl
@[simp] theorem Crew.setMbox_wait (c : Crew) (n : Nat) (b : Mbox) : (c.setMbox n b).wait = c.wait := rfl
@[simp] theorem Crew.setMbox_since (c : Crew) (n : Nat) (b : Mbox) : (c.setMbox n b).since = c.since := rfl
@[simp] theorem Crew.setMbox_chain (c : Crew) (n : Nat) (b : Mbox) : (c.setMbox n b).chain = c.chain := rfl
@[simp] theorem Crew.setMbox_packet (c : Crew) (n : Nat) (b : Mbox) : (c.setMbox n b).packet = c.packet := rfl
@[simp] theorem Crew.setMbox_granted (c : Crew) (n : Nat) (b : Mbox) : (c.setMbox n b).granted = c.granted := rfl
@[simp] theorem Crew.setMbox_waitcnt (c : Crew) (n : Nat) (b : Mbox) : (c.setMbox n b).waitcnt = c.waitcnt := rfl
@[simp] theorem Crew.setMbox_reason (c : Crew) (n : Nat) (b : Mbox) : (c.setMbox n b).reason = c.reason := rfl
@[simp] theorem Crew.setMbox_parkpend (c : Crew) (n : Nat) (b : Mbox) : (c.setMbox n b).parkpend = c.parkpend := rfl
@[simp] theorem Crew.setMbox_norun (c : Crew) (n : Nat) (b : Mbox) : (c.setMbox n b).norun = c.norun := rfl
@[simp] theorem Crew.setMbox_pc (c : Crew) (n : Nat) (b : Mbox) : (c.setMbox n b).pc = c.pc := rfl
@[simp] theorem Crew.setMbox_ic (c : Crew) (n : Nat) (b : Mbox) : (c.setMbox n b).ic = c.ic := rfl
@[simp] theorem Crew.setMbox_pfx (c : Crew) (n : Nat) (b : Mbox) : (c.setMbox n b).pfx = c.pfx := rfl
@[simp] theorem Crew.setMbox_walk (c : Crew) (n : Nat) (b : Mbox) : (c.setMbox n b).walk = c.walk := rfl
@[simp] theorem Crew.setMbox_replays (c : Crew) (n : Nat) (b : Mbox) : (c.setMbox n b).replays = c.replays := rfl
@[simp] theorem Crew.setMbox_cf (c : Crew) (n : Nat) (b : Mbox) : (c.setMbox n b).cf = c.cf := rfl
@[simp] theorem Crew.setMbox_xfer (c : Crew) (n : Nat) (b : Mbox) : (c.setMbox n b).xfer = c.xfer := rfl
@[simp] theorem Crew.setMbox_fmode (c : Crew) (n : Nat) (b : Mbox) : (c.setMbox n b).fmode = c.fmode := rfl
@[simp] theorem Crew.setMbox_mask (c : Crew) (n : Nat) (b : Mbox) : (c.setMbox n b).mask = c.mask := rfl
@[simp] theorem Crew.setMbox_mstack (c : Crew) (n : Nat) (b : Mbox) : (c.setMbox n b).mstack = c.mstack := rfl
@[simp] theorem Crew.setMbox_exited (c : Crew) (n : Nat) (b : Mbox) : (c.setMbox n b).exited = c.exited := rfl
@[simp] theorem Crew.setMbox_v (c : Crew) (n : Nat) (b : Mbox) : (c.setMbox n b).v = c.v := rfl
@[simp] theorem Crew.setMbox_o (c : Crew) (n : Nat) (b : Mbox) : (c.setMbox n b).o = c.o := rfl
@[simp] theorem Crew.setMbox_l (c : Crew) (n : Nat) (b : Mbox) : (c.setMbox n b).l = c.l := rfl
@[simp] theorem Crew.setMbox_s (c : Crew) (n : Nat) (b : Mbox) : (c.setMbox n b).s = c.s := rfl
@[simp] theorem Crew.setMbox_p (c : Crew) (n : Nat) (b : Mbox) : (c.setMbox n b).p = c.p := rfl
@[simp] theorem Crew.setMbox_sp (c : Crew) (n : Nat) (b : Mbox) : (c.setMbox n b).sp = c.sp := rfl
@[simp] theorem Crew.setMbox_lfsr (c : Crew) (n : Nat) (b : Mbox) : (c.setMbox n b).lfsr = c.lfsr := rfl
@[simp] theorem Crew.setMbox_tvec (c : Crew) (n : Nat) (b : Mbox) : (c.setMbox n b).tvec = c.tvec := rfl
@[simp] theorem Crew.setMbox_tpc (c : Crew) (n : Nat) (b : Mbox) : (c.setMbox n b).tpc = c.tpc := rfl
@[simp] theorem Crew.setMbox_tcause (c : Crew) (n : Nat) (b : Mbox) : (c.setMbox n b).tcause = c.tcause := rfl
@[simp] theorem Crew.setMbox_taddr (c : Crew) (n : Nat) (b : Mbox) : (c.setMbox n b).taddr = c.taddr := rfl
@[simp] theorem Crew.setMbox_tgt (c : Crew) (n : Nat) (b : Mbox) : (c.setMbox n b).tgt = c.tgt := rfl
@[simp] theorem Crew.setMbox_intrap (c : Crew) (n : Nat) (b : Mbox) : (c.setMbox n b).intrap = c.intrap := rfl
@[simp] theorem Crew.setMbox_commit (c : Crew) (n : Nat) (b : Mbox) : (c.setMbox n b).commit = c.commit := rfl
@[simp] theorem Crew.setMbox_commitAt (c : Crew) (n : Nat) (b : Mbox) : (c.setMbox n b).commitAt = c.commitAt := rfl
@[simp] theorem Crew.setMbox_wake (c : Crew) (n : Nat) (b : Mbox) : (c.setMbox n b).wake = c.wake := rfl
@[simp] theorem Crew.setMbox_wakep (c : Crew) (n : Nat) (b : Mbox) : (c.setMbox n b).wakep = c.wakep := rfl
@[simp] theorem Crew.setMbox_tail (c : Crew) (n : Nat) (b : Mbox) : (c.setMbox n b).tail = c.tail := rfl
@[simp] theorem Crew.setMbox_shareBase (c : Crew) (n : Nat) (b : Mbox) : (c.setMbox n b).shareBase = c.shareBase := rfl
@[simp] theorem Crew.setMbox_shareSize (c : Crew) (n : Nat) (b : Mbox) : (c.setMbox n b).shareSize = c.shareSize := rfl
@[simp] theorem Crew.setMbox_pend (c : Crew) (n : Nat) (b : Mbox) : (c.setMbox n b).pend = c.pend := rfl
@[simp] theorem Crew.setMbox_runon (c : Crew) (n : Nat) (b : Mbox) : (c.setMbox n b).runon = c.runon := rfl
@[simp] theorem Crew.setMbox_steps (c : Crew) (n : Nat) (b : Mbox) : (c.setMbox n b).steps = c.steps := rfl
@[simp] theorem Crew.setMbox_bkptOnce (c : Crew) (n : Nat) (b : Mbox) : (c.setMbox n b).bkptOnce = c.bkptOnce := rfl
@[simp] theorem Crew.setMbox_expired (c : Crew) (n : Nat) (b : Mbox) : (c.setMbox n b).expired = c.expired := rfl
@[simp] theorem Crew.setMbox_badRegs (c : Crew) (n : Nat) (b : Mbox) : (c.setMbox n b).badRegs = c.badRegs := rfl
@[simp] theorem Crew.setMbox_stat (c : Crew) (n : Nat) (b : Mbox) : (c.setMbox n b).stat = c.stat := rfl
@[simp] theorem Crew.setMbox_clock (c : Crew) (n : Nat) (b : Mbox) : (c.setMbox n b).clock = c.clock := rfl
@[simp] theorem Crew.setMbox_relScope (c : Crew) (n : Nat) (b : Mbox) : (c.setMbox n b).relScope = c.relScope := rfl
@[simp] theorem Crew.setMbox_pendAcq (c : Crew) (n : Nat) (b : Mbox) : (c.setMbox n b).pendAcq = c.pendAcq := rfl
@[simp] theorem Crew.setMbox_fenceClk (c : Crew) (n : Nat) (b : Mbox) : (c.setMbox n b).fenceClk = c.fenceClk := rfl
@[simp] theorem Crew.setMbox_recWait (c : Crew) (n : Nat) (b : Mbox) : (c.setMbox n b).recWait = c.recWait := rfl
@[simp] theorem Crew.setMbox_crc (c : Crew) (n : Nat) (b : Mbox) : (c.setMbox n b).crc = c.crc := rfl
@[simp] theorem Crew.setMbox_halting (c : Crew) (n : Nat) (b : Mbox) : (c.setMbox n b).halting = c.halting := rfl

/-! Crew.shiftLatch leaves every field but l -/

@[simp] theorem Crew.shiftLatch_wg (c : Crew) (r : VReg) : (c.shiftLatch r).wg = c.wg := rfl
@[simp] theorem Crew.shiftLatch_idx (c : Crew) (r : VReg) : (c.shiftLatch r).idx = c.idx := rfl
@[simp] theorem Crew.shiftLatch_sched (c : Crew) (r : VReg) : (c.shiftLatch r).sched = c.sched := rfl
@[simp] theorem Crew.shiftLatch_slot (c : Crew) (r : VReg) : (c.shiftLatch r).slot = c.slot := rfl
@[simp] theorem Crew.shiftLatch_st (c : Crew) (r : VReg) : (c.shiftLatch r).st = c.st := rfl
@[simp] theorem Crew.shiftLatch_wait (c : Crew) (r : VReg) : (c.shiftLatch r).wait = c.wait := rfl
@[simp] theorem Crew.shiftLatch_since (c : Crew) (r : VReg) : (c.shiftLatch r).since = c.since := rfl
@[simp] theorem Crew.shiftLatch_chain (c : Crew) (r : VReg) : (c.shiftLatch r).chain = c.chain := rfl
@[simp] theorem Crew.shiftLatch_packet (c : Crew) (r : VReg) : (c.shiftLatch r).packet = c.packet := rfl
@[simp] theorem Crew.shiftLatch_granted (c : Crew) (r : VReg) : (c.shiftLatch r).granted = c.granted := rfl
@[simp] theorem Crew.shiftLatch_waitcnt (c : Crew) (r : VReg) : (c.shiftLatch r).waitcnt = c.waitcnt := rfl
@[simp] theorem Crew.shiftLatch_reason (c : Crew) (r : VReg) : (c.shiftLatch r).reason = c.reason := rfl
@[simp] theorem Crew.shiftLatch_parkpend (c : Crew) (r : VReg) : (c.shiftLatch r).parkpend = c.parkpend := rfl
@[simp] theorem Crew.shiftLatch_norun (c : Crew) (r : VReg) : (c.shiftLatch r).norun = c.norun := rfl
@[simp] theorem Crew.shiftLatch_pc (c : Crew) (r : VReg) : (c.shiftLatch r).pc = c.pc := rfl
@[simp] theorem Crew.shiftLatch_ic (c : Crew) (r : VReg) : (c.shiftLatch r).ic = c.ic := rfl
@[simp] theorem Crew.shiftLatch_pfx (c : Crew) (r : VReg) : (c.shiftLatch r).pfx = c.pfx := rfl
@[simp] theorem Crew.shiftLatch_walk (c : Crew) (r : VReg) : (c.shiftLatch r).walk = c.walk := rfl
@[simp] theorem Crew.shiftLatch_replays (c : Crew) (r : VReg) : (c.shiftLatch r).replays = c.replays := rfl
@[simp] theorem Crew.shiftLatch_cf (c : Crew) (r : VReg) : (c.shiftLatch r).cf = c.cf := rfl
@[simp] theorem Crew.shiftLatch_xfer (c : Crew) (r : VReg) : (c.shiftLatch r).xfer = c.xfer := rfl
@[simp] theorem Crew.shiftLatch_fmode (c : Crew) (r : VReg) : (c.shiftLatch r).fmode = c.fmode := rfl
@[simp] theorem Crew.shiftLatch_mask (c : Crew) (r : VReg) : (c.shiftLatch r).mask = c.mask := rfl
@[simp] theorem Crew.shiftLatch_mstack (c : Crew) (r : VReg) : (c.shiftLatch r).mstack = c.mstack := rfl
@[simp] theorem Crew.shiftLatch_exited (c : Crew) (r : VReg) : (c.shiftLatch r).exited = c.exited := rfl
@[simp] theorem Crew.shiftLatch_v (c : Crew) (r : VReg) : (c.shiftLatch r).v = c.v := rfl
@[simp] theorem Crew.shiftLatch_o (c : Crew) (r : VReg) : (c.shiftLatch r).o = c.o := rfl
@[simp] theorem Crew.shiftLatch_m (c : Crew) (r : VReg) : (c.shiftLatch r).m = c.m := rfl
@[simp] theorem Crew.shiftLatch_s (c : Crew) (r : VReg) : (c.shiftLatch r).s = c.s := rfl
@[simp] theorem Crew.shiftLatch_p (c : Crew) (r : VReg) : (c.shiftLatch r).p = c.p := rfl
@[simp] theorem Crew.shiftLatch_sp (c : Crew) (r : VReg) : (c.shiftLatch r).sp = c.sp := rfl
@[simp] theorem Crew.shiftLatch_lfsr (c : Crew) (r : VReg) : (c.shiftLatch r).lfsr = c.lfsr := rfl
@[simp] theorem Crew.shiftLatch_tvec (c : Crew) (r : VReg) : (c.shiftLatch r).tvec = c.tvec := rfl
@[simp] theorem Crew.shiftLatch_tpc (c : Crew) (r : VReg) : (c.shiftLatch r).tpc = c.tpc := rfl
@[simp] theorem Crew.shiftLatch_tcause (c : Crew) (r : VReg) : (c.shiftLatch r).tcause = c.tcause := rfl
@[simp] theorem Crew.shiftLatch_taddr (c : Crew) (r : VReg) : (c.shiftLatch r).taddr = c.taddr := rfl
@[simp] theorem Crew.shiftLatch_tgt (c : Crew) (r : VReg) : (c.shiftLatch r).tgt = c.tgt := rfl
@[simp] theorem Crew.shiftLatch_intrap (c : Crew) (r : VReg) : (c.shiftLatch r).intrap = c.intrap := rfl
@[simp] theorem Crew.shiftLatch_commit (c : Crew) (r : VReg) : (c.shiftLatch r).commit = c.commit := rfl
@[simp] theorem Crew.shiftLatch_commitAt (c : Crew) (r : VReg) : (c.shiftLatch r).commitAt = c.commitAt := rfl
@[simp] theorem Crew.shiftLatch_wake (c : Crew) (r : VReg) : (c.shiftLatch r).wake = c.wake := rfl
@[simp] theorem Crew.shiftLatch_wakep (c : Crew) (r : VReg) : (c.shiftLatch r).wakep = c.wakep := rfl
@[simp] theorem Crew.shiftLatch_tail (c : Crew) (r : VReg) : (c.shiftLatch r).tail = c.tail := rfl
@[simp] theorem Crew.shiftLatch_shareBase (c : Crew) (r : VReg) : (c.shiftLatch r).shareBase = c.shareBase := rfl
@[simp] theorem Crew.shiftLatch_shareSize (c : Crew) (r : VReg) : (c.shiftLatch r).shareSize = c.shareSize := rfl
@[simp] theorem Crew.shiftLatch_pend (c : Crew) (r : VReg) : (c.shiftLatch r).pend = c.pend := rfl
@[simp] theorem Crew.shiftLatch_runon (c : Crew) (r : VReg) : (c.shiftLatch r).runon = c.runon := rfl
@[simp] theorem Crew.shiftLatch_steps (c : Crew) (r : VReg) : (c.shiftLatch r).steps = c.steps := rfl
@[simp] theorem Crew.shiftLatch_bkptOnce (c : Crew) (r : VReg) : (c.shiftLatch r).bkptOnce = c.bkptOnce := rfl
@[simp] theorem Crew.shiftLatch_expired (c : Crew) (r : VReg) : (c.shiftLatch r).expired = c.expired := rfl
@[simp] theorem Crew.shiftLatch_badRegs (c : Crew) (r : VReg) : (c.shiftLatch r).badRegs = c.badRegs := rfl
@[simp] theorem Crew.shiftLatch_stat (c : Crew) (r : VReg) : (c.shiftLatch r).stat = c.stat := rfl
@[simp] theorem Crew.shiftLatch_clock (c : Crew) (r : VReg) : (c.shiftLatch r).clock = c.clock := rfl
@[simp] theorem Crew.shiftLatch_relScope (c : Crew) (r : VReg) : (c.shiftLatch r).relScope = c.relScope := rfl
@[simp] theorem Crew.shiftLatch_pendAcq (c : Crew) (r : VReg) : (c.shiftLatch r).pendAcq = c.pendAcq := rfl
@[simp] theorem Crew.shiftLatch_fenceClk (c : Crew) (r : VReg) : (c.shiftLatch r).fenceClk = c.fenceClk := rfl
@[simp] theorem Crew.shiftLatch_recWait (c : Crew) (r : VReg) : (c.shiftLatch r).recWait = c.recWait := rfl
@[simp] theorem Crew.shiftLatch_crc (c : Crew) (r : VReg) : (c.shiftLatch r).crc = c.crc := rfl
@[simp] theorem Crew.shiftLatch_halting (c : Crew) (r : VReg) : (c.shiftLatch r).halting = c.halting := rfl

/-! Crew.setPred leaves every field but p -/

@[simp] theorem Crew.setPred_wg (c : Crew) (n : Nat) (act bits : Mask) : (c.setPred n act bits).wg = c.wg := by
  unfold Crew.setPred; split <;> rfl
@[simp] theorem Crew.setPred_idx (c : Crew) (n : Nat) (act bits : Mask) : (c.setPred n act bits).idx = c.idx := by
  unfold Crew.setPred; split <;> rfl
@[simp] theorem Crew.setPred_sched (c : Crew) (n : Nat) (act bits : Mask) : (c.setPred n act bits).sched = c.sched := by
  unfold Crew.setPred; split <;> rfl
@[simp] theorem Crew.setPred_slot (c : Crew) (n : Nat) (act bits : Mask) : (c.setPred n act bits).slot = c.slot := by
  unfold Crew.setPred; split <;> rfl
@[simp] theorem Crew.setPred_st (c : Crew) (n : Nat) (act bits : Mask) : (c.setPred n act bits).st = c.st := by
  unfold Crew.setPred; split <;> rfl
@[simp] theorem Crew.setPred_wait (c : Crew) (n : Nat) (act bits : Mask) : (c.setPred n act bits).wait = c.wait := by
  unfold Crew.setPred; split <;> rfl
@[simp] theorem Crew.setPred_since (c : Crew) (n : Nat) (act bits : Mask) : (c.setPred n act bits).since = c.since := by
  unfold Crew.setPred; split <;> rfl
@[simp] theorem Crew.setPred_chain (c : Crew) (n : Nat) (act bits : Mask) : (c.setPred n act bits).chain = c.chain := by
  unfold Crew.setPred; split <;> rfl
@[simp] theorem Crew.setPred_packet (c : Crew) (n : Nat) (act bits : Mask) : (c.setPred n act bits).packet = c.packet := by
  unfold Crew.setPred; split <;> rfl
@[simp] theorem Crew.setPred_granted (c : Crew) (n : Nat) (act bits : Mask) : (c.setPred n act bits).granted = c.granted := by
  unfold Crew.setPred; split <;> rfl
@[simp] theorem Crew.setPred_waitcnt (c : Crew) (n : Nat) (act bits : Mask) : (c.setPred n act bits).waitcnt = c.waitcnt := by
  unfold Crew.setPred; split <;> rfl
@[simp] theorem Crew.setPred_reason (c : Crew) (n : Nat) (act bits : Mask) : (c.setPred n act bits).reason = c.reason := by
  unfold Crew.setPred; split <;> rfl
@[simp] theorem Crew.setPred_parkpend (c : Crew) (n : Nat) (act bits : Mask) :
    (c.setPred n act bits).parkpend = c.parkpend := by
  unfold Crew.setPred; split <;> rfl
@[simp] theorem Crew.setPred_norun (c : Crew) (n : Nat) (act bits : Mask) : (c.setPred n act bits).norun = c.norun := by
  unfold Crew.setPred; split <;> rfl
@[simp] theorem Crew.setPred_pc (c : Crew) (n : Nat) (act bits : Mask) : (c.setPred n act bits).pc = c.pc := by
  unfold Crew.setPred; split <;> rfl
@[simp] theorem Crew.setPred_ic (c : Crew) (n : Nat) (act bits : Mask) : (c.setPred n act bits).ic = c.ic := by
  unfold Crew.setPred; split <;> rfl
@[simp] theorem Crew.setPred_pfx (c : Crew) (n : Nat) (act bits : Mask) : (c.setPred n act bits).pfx = c.pfx := by
  unfold Crew.setPred; split <;> rfl
@[simp] theorem Crew.setPred_walk (c : Crew) (n : Nat) (act bits : Mask) : (c.setPred n act bits).walk = c.walk := by
  unfold Crew.setPred; split <;> rfl
@[simp] theorem Crew.setPred_replays (c : Crew) (n : Nat) (act bits : Mask) : (c.setPred n act bits).replays = c.replays := by
  unfold Crew.setPred; split <;> rfl
@[simp] theorem Crew.setPred_cf (c : Crew) (n : Nat) (act bits : Mask) : (c.setPred n act bits).cf = c.cf := by
  unfold Crew.setPred; split <;> rfl
@[simp] theorem Crew.setPred_xfer (c : Crew) (n : Nat) (act bits : Mask) : (c.setPred n act bits).xfer = c.xfer := by
  unfold Crew.setPred; split <;> rfl
@[simp] theorem Crew.setPred_fmode (c : Crew) (n : Nat) (act bits : Mask) : (c.setPred n act bits).fmode = c.fmode := by
  unfold Crew.setPred; split <;> rfl
@[simp] theorem Crew.setPred_mask (c : Crew) (n : Nat) (act bits : Mask) : (c.setPred n act bits).mask = c.mask := by
  unfold Crew.setPred; split <;> rfl
@[simp] theorem Crew.setPred_mstack (c : Crew) (n : Nat) (act bits : Mask) : (c.setPred n act bits).mstack = c.mstack := by
  unfold Crew.setPred; split <;> rfl
@[simp] theorem Crew.setPred_exited (c : Crew) (n : Nat) (act bits : Mask) : (c.setPred n act bits).exited = c.exited := by
  unfold Crew.setPred; split <;> rfl
@[simp] theorem Crew.setPred_v (c : Crew) (n : Nat) (act bits : Mask) : (c.setPred n act bits).v = c.v := by
  unfold Crew.setPred; split <;> rfl
@[simp] theorem Crew.setPred_o (c : Crew) (n : Nat) (act bits : Mask) : (c.setPred n act bits).o = c.o := by
  unfold Crew.setPred; split <;> rfl
@[simp] theorem Crew.setPred_l (c : Crew) (n : Nat) (act bits : Mask) : (c.setPred n act bits).l = c.l := by
  unfold Crew.setPred; split <;> rfl
@[simp] theorem Crew.setPred_m (c : Crew) (n : Nat) (act bits : Mask) : (c.setPred n act bits).m = c.m := by
  unfold Crew.setPred; split <;> rfl
@[simp] theorem Crew.setPred_s (c : Crew) (n : Nat) (act bits : Mask) : (c.setPred n act bits).s = c.s := by
  unfold Crew.setPred; split <;> rfl
@[simp] theorem Crew.setPred_sp (c : Crew) (n : Nat) (act bits : Mask) : (c.setPred n act bits).sp = c.sp := by
  unfold Crew.setPred; split <;> rfl
@[simp] theorem Crew.setPred_lfsr (c : Crew) (n : Nat) (act bits : Mask) : (c.setPred n act bits).lfsr = c.lfsr := by
  unfold Crew.setPred; split <;> rfl
@[simp] theorem Crew.setPred_tvec (c : Crew) (n : Nat) (act bits : Mask) : (c.setPred n act bits).tvec = c.tvec := by
  unfold Crew.setPred; split <;> rfl
@[simp] theorem Crew.setPred_tpc (c : Crew) (n : Nat) (act bits : Mask) : (c.setPred n act bits).tpc = c.tpc := by
  unfold Crew.setPred; split <;> rfl
@[simp] theorem Crew.setPred_tcause (c : Crew) (n : Nat) (act bits : Mask) : (c.setPred n act bits).tcause = c.tcause := by
  unfold Crew.setPred; split <;> rfl
@[simp] theorem Crew.setPred_taddr (c : Crew) (n : Nat) (act bits : Mask) : (c.setPred n act bits).taddr = c.taddr := by
  unfold Crew.setPred; split <;> rfl
@[simp] theorem Crew.setPred_tgt (c : Crew) (n : Nat) (act bits : Mask) : (c.setPred n act bits).tgt = c.tgt := by
  unfold Crew.setPred; split <;> rfl
@[simp] theorem Crew.setPred_intrap (c : Crew) (n : Nat) (act bits : Mask) : (c.setPred n act bits).intrap = c.intrap := by
  unfold Crew.setPred; split <;> rfl
@[simp] theorem Crew.setPred_commit (c : Crew) (n : Nat) (act bits : Mask) : (c.setPred n act bits).commit = c.commit := by
  unfold Crew.setPred; split <;> rfl
@[simp] theorem Crew.setPred_commitAt (c : Crew) (n : Nat) (act bits : Mask) :
    (c.setPred n act bits).commitAt = c.commitAt := by
  unfold Crew.setPred; split <;> rfl
@[simp] theorem Crew.setPred_wake (c : Crew) (n : Nat) (act bits : Mask) : (c.setPred n act bits).wake = c.wake := by
  unfold Crew.setPred; split <;> rfl
@[simp] theorem Crew.setPred_wakep (c : Crew) (n : Nat) (act bits : Mask) : (c.setPred n act bits).wakep = c.wakep := by
  unfold Crew.setPred; split <;> rfl
@[simp] theorem Crew.setPred_tail (c : Crew) (n : Nat) (act bits : Mask) : (c.setPred n act bits).tail = c.tail := by
  unfold Crew.setPred; split <;> rfl
@[simp] theorem Crew.setPred_shareBase (c : Crew) (n : Nat) (act bits : Mask) :
    (c.setPred n act bits).shareBase = c.shareBase := by
  unfold Crew.setPred; split <;> rfl
@[simp] theorem Crew.setPred_shareSize (c : Crew) (n : Nat) (act bits : Mask) :
    (c.setPred n act bits).shareSize = c.shareSize := by
  unfold Crew.setPred; split <;> rfl
@[simp] theorem Crew.setPred_pend (c : Crew) (n : Nat) (act bits : Mask) : (c.setPred n act bits).pend = c.pend := by
  unfold Crew.setPred; split <;> rfl
@[simp] theorem Crew.setPred_runon (c : Crew) (n : Nat) (act bits : Mask) : (c.setPred n act bits).runon = c.runon := by
  unfold Crew.setPred; split <;> rfl
@[simp] theorem Crew.setPred_steps (c : Crew) (n : Nat) (act bits : Mask) : (c.setPred n act bits).steps = c.steps := by
  unfold Crew.setPred; split <;> rfl
@[simp] theorem Crew.setPred_bkptOnce (c : Crew) (n : Nat) (act bits : Mask) :
    (c.setPred n act bits).bkptOnce = c.bkptOnce := by
  unfold Crew.setPred; split <;> rfl
@[simp] theorem Crew.setPred_expired (c : Crew) (n : Nat) (act bits : Mask) : (c.setPred n act bits).expired = c.expired := by
  unfold Crew.setPred; split <;> rfl
@[simp] theorem Crew.setPred_badRegs (c : Crew) (n : Nat) (act bits : Mask) : (c.setPred n act bits).badRegs = c.badRegs := by
  unfold Crew.setPred; split <;> rfl
@[simp] theorem Crew.setPred_stat (c : Crew) (n : Nat) (act bits : Mask) : (c.setPred n act bits).stat = c.stat := by
  unfold Crew.setPred; split <;> rfl
@[simp] theorem Crew.setPred_clock (c : Crew) (n : Nat) (act bits : Mask) : (c.setPred n act bits).clock = c.clock := by
  unfold Crew.setPred; split <;> rfl
@[simp] theorem Crew.setPred_relScope (c : Crew) (n : Nat) (act bits : Mask) :
    (c.setPred n act bits).relScope = c.relScope := by
  unfold Crew.setPred; split <;> rfl
@[simp] theorem Crew.setPred_pendAcq (c : Crew) (n : Nat) (act bits : Mask) : (c.setPred n act bits).pendAcq = c.pendAcq := by
  unfold Crew.setPred; split <;> rfl
@[simp] theorem Crew.setPred_fenceClk (c : Crew) (n : Nat) (act bits : Mask) :
    (c.setPred n act bits).fenceClk = c.fenceClk := by
  unfold Crew.setPred; split <;> rfl
@[simp] theorem Crew.setPred_recWait (c : Crew) (n : Nat) (act bits : Mask) : (c.setPred n act bits).recWait = c.recWait := by
  unfold Crew.setPred; split <;> rfl
@[simp] theorem Crew.setPred_crc (c : Crew) (n : Nat) (act bits : Mask) : (c.setPred n act bits).crc = c.crc := by
  unfold Crew.setPred; split <;> rfl
@[simp] theorem Crew.setPred_halting (c : Crew) (n : Nat) (act bits : Mask) : (c.setPred n act bits).halting = c.halting := by
  unfold Crew.setPred; split <;> rfl

/-! Crew.setVreg leaves every field but v, o, badRegs, stat -/

@[simp] theorem Crew.setVreg_wg (c : Crew) (n : Nat) (r : VReg) : (c.setVreg n r).wg = c.wg := by
  simp only [Crew.setVreg]; split <;> rfl
@[simp] theorem Crew.setVreg_idx (c : Crew) (n : Nat) (r : VReg) : (c.setVreg n r).idx = c.idx := by
  simp only [Crew.setVreg]; split <;> rfl
@[simp] theorem Crew.setVreg_sched (c : Crew) (n : Nat) (r : VReg) : (c.setVreg n r).sched = c.sched := by
  simp only [Crew.setVreg]; split <;> rfl
@[simp] theorem Crew.setVreg_slot (c : Crew) (n : Nat) (r : VReg) : (c.setVreg n r).slot = c.slot := by
  simp only [Crew.setVreg]; split <;> rfl
@[simp] theorem Crew.setVreg_st (c : Crew) (n : Nat) (r : VReg) : (c.setVreg n r).st = c.st := by
  simp only [Crew.setVreg]; split <;> rfl
@[simp] theorem Crew.setVreg_wait (c : Crew) (n : Nat) (r : VReg) : (c.setVreg n r).wait = c.wait := by
  simp only [Crew.setVreg]; split <;> rfl
@[simp] theorem Crew.setVreg_since (c : Crew) (n : Nat) (r : VReg) : (c.setVreg n r).since = c.since := by
  simp only [Crew.setVreg]; split <;> rfl
@[simp] theorem Crew.setVreg_chain (c : Crew) (n : Nat) (r : VReg) : (c.setVreg n r).chain = c.chain := by
  simp only [Crew.setVreg]; split <;> rfl
@[simp] theorem Crew.setVreg_packet (c : Crew) (n : Nat) (r : VReg) : (c.setVreg n r).packet = c.packet := by
  simp only [Crew.setVreg]; split <;> rfl
@[simp] theorem Crew.setVreg_granted (c : Crew) (n : Nat) (r : VReg) : (c.setVreg n r).granted = c.granted := by
  simp only [Crew.setVreg]; split <;> rfl
@[simp] theorem Crew.setVreg_waitcnt (c : Crew) (n : Nat) (r : VReg) : (c.setVreg n r).waitcnt = c.waitcnt := by
  simp only [Crew.setVreg]; split <;> rfl
@[simp] theorem Crew.setVreg_reason (c : Crew) (n : Nat) (r : VReg) : (c.setVreg n r).reason = c.reason := by
  simp only [Crew.setVreg]; split <;> rfl
@[simp] theorem Crew.setVreg_parkpend (c : Crew) (n : Nat) (r : VReg) : (c.setVreg n r).parkpend = c.parkpend := by
  simp only [Crew.setVreg]; split <;> rfl
@[simp] theorem Crew.setVreg_norun (c : Crew) (n : Nat) (r : VReg) : (c.setVreg n r).norun = c.norun := by
  simp only [Crew.setVreg]; split <;> rfl
@[simp] theorem Crew.setVreg_pc (c : Crew) (n : Nat) (r : VReg) : (c.setVreg n r).pc = c.pc := by
  simp only [Crew.setVreg]; split <;> rfl
@[simp] theorem Crew.setVreg_ic (c : Crew) (n : Nat) (r : VReg) : (c.setVreg n r).ic = c.ic := by
  simp only [Crew.setVreg]; split <;> rfl
@[simp] theorem Crew.setVreg_pfx (c : Crew) (n : Nat) (r : VReg) : (c.setVreg n r).pfx = c.pfx := by
  simp only [Crew.setVreg]; split <;> rfl
@[simp] theorem Crew.setVreg_walk (c : Crew) (n : Nat) (r : VReg) : (c.setVreg n r).walk = c.walk := by
  simp only [Crew.setVreg]; split <;> rfl
@[simp] theorem Crew.setVreg_replays (c : Crew) (n : Nat) (r : VReg) : (c.setVreg n r).replays = c.replays := by
  simp only [Crew.setVreg]; split <;> rfl
@[simp] theorem Crew.setVreg_cf (c : Crew) (n : Nat) (r : VReg) : (c.setVreg n r).cf = c.cf := by
  simp only [Crew.setVreg]; split <;> rfl
@[simp] theorem Crew.setVreg_xfer (c : Crew) (n : Nat) (r : VReg) : (c.setVreg n r).xfer = c.xfer := by
  simp only [Crew.setVreg]; split <;> rfl
@[simp] theorem Crew.setVreg_fmode (c : Crew) (n : Nat) (r : VReg) : (c.setVreg n r).fmode = c.fmode := by
  simp only [Crew.setVreg]; split <;> rfl
@[simp] theorem Crew.setVreg_mask (c : Crew) (n : Nat) (r : VReg) : (c.setVreg n r).mask = c.mask := by
  simp only [Crew.setVreg]; split <;> rfl
@[simp] theorem Crew.setVreg_mstack (c : Crew) (n : Nat) (r : VReg) : (c.setVreg n r).mstack = c.mstack := by
  simp only [Crew.setVreg]; split <;> rfl
@[simp] theorem Crew.setVreg_exited (c : Crew) (n : Nat) (r : VReg) : (c.setVreg n r).exited = c.exited := by
  simp only [Crew.setVreg]; split <;> rfl
@[simp] theorem Crew.setVreg_l (c : Crew) (n : Nat) (r : VReg) : (c.setVreg n r).l = c.l := by
  simp only [Crew.setVreg]; split <;> rfl
@[simp] theorem Crew.setVreg_m (c : Crew) (n : Nat) (r : VReg) : (c.setVreg n r).m = c.m := by
  simp only [Crew.setVreg]; split <;> rfl
@[simp] theorem Crew.setVreg_s (c : Crew) (n : Nat) (r : VReg) : (c.setVreg n r).s = c.s := by
  simp only [Crew.setVreg]; split <;> rfl
@[simp] theorem Crew.setVreg_p (c : Crew) (n : Nat) (r : VReg) : (c.setVreg n r).p = c.p := by
  simp only [Crew.setVreg]; split <;> rfl
@[simp] theorem Crew.setVreg_sp (c : Crew) (n : Nat) (r : VReg) : (c.setVreg n r).sp = c.sp := by
  simp only [Crew.setVreg]; split <;> rfl
@[simp] theorem Crew.setVreg_lfsr (c : Crew) (n : Nat) (r : VReg) : (c.setVreg n r).lfsr = c.lfsr := by
  simp only [Crew.setVreg]; split <;> rfl
@[simp] theorem Crew.setVreg_tvec (c : Crew) (n : Nat) (r : VReg) : (c.setVreg n r).tvec = c.tvec := by
  simp only [Crew.setVreg]; split <;> rfl
@[simp] theorem Crew.setVreg_tpc (c : Crew) (n : Nat) (r : VReg) : (c.setVreg n r).tpc = c.tpc := by
  simp only [Crew.setVreg]; split <;> rfl
@[simp] theorem Crew.setVreg_tcause (c : Crew) (n : Nat) (r : VReg) : (c.setVreg n r).tcause = c.tcause := by
  simp only [Crew.setVreg]; split <;> rfl
@[simp] theorem Crew.setVreg_taddr (c : Crew) (n : Nat) (r : VReg) : (c.setVreg n r).taddr = c.taddr := by
  simp only [Crew.setVreg]; split <;> rfl
@[simp] theorem Crew.setVreg_tgt (c : Crew) (n : Nat) (r : VReg) : (c.setVreg n r).tgt = c.tgt := by
  simp only [Crew.setVreg]; split <;> rfl
@[simp] theorem Crew.setVreg_intrap (c : Crew) (n : Nat) (r : VReg) : (c.setVreg n r).intrap = c.intrap := by
  simp only [Crew.setVreg]; split <;> rfl
@[simp] theorem Crew.setVreg_commit (c : Crew) (n : Nat) (r : VReg) : (c.setVreg n r).commit = c.commit := by
  simp only [Crew.setVreg]; split <;> rfl
@[simp] theorem Crew.setVreg_commitAt (c : Crew) (n : Nat) (r : VReg) : (c.setVreg n r).commitAt = c.commitAt := by
  simp only [Crew.setVreg]; split <;> rfl
@[simp] theorem Crew.setVreg_wake (c : Crew) (n : Nat) (r : VReg) : (c.setVreg n r).wake = c.wake := by
  simp only [Crew.setVreg]; split <;> rfl
@[simp] theorem Crew.setVreg_wakep (c : Crew) (n : Nat) (r : VReg) : (c.setVreg n r).wakep = c.wakep := by
  simp only [Crew.setVreg]; split <;> rfl
@[simp] theorem Crew.setVreg_tail (c : Crew) (n : Nat) (r : VReg) : (c.setVreg n r).tail = c.tail := by
  simp only [Crew.setVreg]; split <;> rfl
@[simp] theorem Crew.setVreg_shareBase (c : Crew) (n : Nat) (r : VReg) : (c.setVreg n r).shareBase = c.shareBase := by
  simp only [Crew.setVreg]; split <;> rfl
@[simp] theorem Crew.setVreg_shareSize (c : Crew) (n : Nat) (r : VReg) : (c.setVreg n r).shareSize = c.shareSize := by
  simp only [Crew.setVreg]; split <;> rfl
@[simp] theorem Crew.setVreg_pend (c : Crew) (n : Nat) (r : VReg) : (c.setVreg n r).pend = c.pend := by
  simp only [Crew.setVreg]; split <;> rfl
@[simp] theorem Crew.setVreg_runon (c : Crew) (n : Nat) (r : VReg) : (c.setVreg n r).runon = c.runon := by
  simp only [Crew.setVreg]; split <;> rfl
@[simp] theorem Crew.setVreg_steps (c : Crew) (n : Nat) (r : VReg) : (c.setVreg n r).steps = c.steps := by
  simp only [Crew.setVreg]; split <;> rfl
@[simp] theorem Crew.setVreg_bkptOnce (c : Crew) (n : Nat) (r : VReg) : (c.setVreg n r).bkptOnce = c.bkptOnce := by
  simp only [Crew.setVreg]; split <;> rfl
@[simp] theorem Crew.setVreg_expired (c : Crew) (n : Nat) (r : VReg) : (c.setVreg n r).expired = c.expired := by
  simp only [Crew.setVreg]; split <;> rfl
@[simp] theorem Crew.setVreg_clock (c : Crew) (n : Nat) (r : VReg) : (c.setVreg n r).clock = c.clock := by
  simp only [Crew.setVreg]; split <;> rfl
@[simp] theorem Crew.setVreg_relScope (c : Crew) (n : Nat) (r : VReg) : (c.setVreg n r).relScope = c.relScope := by
  simp only [Crew.setVreg]; split <;> rfl
@[simp] theorem Crew.setVreg_pendAcq (c : Crew) (n : Nat) (r : VReg) : (c.setVreg n r).pendAcq = c.pendAcq := by
  simp only [Crew.setVreg]; split <;> rfl
@[simp] theorem Crew.setVreg_fenceClk (c : Crew) (n : Nat) (r : VReg) : (c.setVreg n r).fenceClk = c.fenceClk := by
  simp only [Crew.setVreg]; split <;> rfl
@[simp] theorem Crew.setVreg_recWait (c : Crew) (n : Nat) (r : VReg) : (c.setVreg n r).recWait = c.recWait := by
  simp only [Crew.setVreg]; split <;> rfl
@[simp] theorem Crew.setVreg_crc (c : Crew) (n : Nat) (r : VReg) : (c.setVreg n r).crc = c.crc := by
  simp only [Crew.setVreg]; split <;> rfl
@[simp] theorem Crew.setVreg_halting (c : Crew) (n : Nat) (r : VReg) : (c.setVreg n r).halting = c.halting := by
  simp only [Crew.setVreg]; split <;> rfl

/-! Crew.writeReg leaves every field but v, o, badRegs, stat -/

@[simp] theorem Crew.writeReg_wg (c : Crew) (n : Nat) (act : Mask) (l : List Word) : (c.writeReg n act l).wg = c.wg := by
  simp only [Crew.writeReg, Crew.setVreg_wg]
@[simp] theorem Crew.writeReg_idx (c : Crew) (n : Nat) (act : Mask) (l : List Word) : (c.writeReg n act l).idx = c.idx := by
  simp only [Crew.writeReg, Crew.setVreg_idx]
@[simp] theorem Crew.writeReg_sched (c : Crew) (n : Nat) (act : Mask) (l : List Word) :
    (c.writeReg n act l).sched = c.sched := by
  simp only [Crew.writeReg, Crew.setVreg_sched]
@[simp] theorem Crew.writeReg_slot (c : Crew) (n : Nat) (act : Mask) (l : List Word) : (c.writeReg n act l).slot = c.slot := by
  simp only [Crew.writeReg, Crew.setVreg_slot]
@[simp] theorem Crew.writeReg_st (c : Crew) (n : Nat) (act : Mask) (l : List Word) : (c.writeReg n act l).st = c.st := by
  simp only [Crew.writeReg, Crew.setVreg_st]
@[simp] theorem Crew.writeReg_wait (c : Crew) (n : Nat) (act : Mask) (l : List Word) : (c.writeReg n act l).wait = c.wait := by
  simp only [Crew.writeReg, Crew.setVreg_wait]
@[simp] theorem Crew.writeReg_since (c : Crew) (n : Nat) (act : Mask) (l : List Word) :
    (c.writeReg n act l).since = c.since := by
  simp only [Crew.writeReg, Crew.setVreg_since]
@[simp] theorem Crew.writeReg_chain (c : Crew) (n : Nat) (act : Mask) (l : List Word) :
    (c.writeReg n act l).chain = c.chain := by
  simp only [Crew.writeReg, Crew.setVreg_chain]
@[simp] theorem Crew.writeReg_packet (c : Crew) (n : Nat) (act : Mask) (l : List Word) :
    (c.writeReg n act l).packet = c.packet := by
  simp only [Crew.writeReg, Crew.setVreg_packet]
@[simp] theorem Crew.writeReg_granted (c : Crew) (n : Nat) (act : Mask) (l : List Word) :
    (c.writeReg n act l).granted = c.granted := by
  simp only [Crew.writeReg, Crew.setVreg_granted]
@[simp] theorem Crew.writeReg_waitcnt (c : Crew) (n : Nat) (act : Mask) (l : List Word) :
    (c.writeReg n act l).waitcnt = c.waitcnt := by
  simp only [Crew.writeReg, Crew.setVreg_waitcnt]
@[simp] theorem Crew.writeReg_reason (c : Crew) (n : Nat) (act : Mask) (l : List Word) :
    (c.writeReg n act l).reason = c.reason := by
  simp only [Crew.writeReg, Crew.setVreg_reason]
@[simp] theorem Crew.writeReg_parkpend (c : Crew) (n : Nat) (act : Mask) (l : List Word) :
    (c.writeReg n act l).parkpend = c.parkpend := by
  simp only [Crew.writeReg, Crew.setVreg_parkpend]
@[simp] theorem Crew.writeReg_norun (c : Crew) (n : Nat) (act : Mask) (l : List Word) :
    (c.writeReg n act l).norun = c.norun := by
  simp only [Crew.writeReg, Crew.setVreg_norun]
@[simp] theorem Crew.writeReg_pc (c : Crew) (n : Nat) (act : Mask) (l : List Word) : (c.writeReg n act l).pc = c.pc := by
  simp only [Crew.writeReg, Crew.setVreg_pc]
@[simp] theorem Crew.writeReg_ic (c : Crew) (n : Nat) (act : Mask) (l : List Word) : (c.writeReg n act l).ic = c.ic := by
  simp only [Crew.writeReg, Crew.setVreg_ic]
@[simp] theorem Crew.writeReg_pfx (c : Crew) (n : Nat) (act : Mask) (l : List Word) : (c.writeReg n act l).pfx = c.pfx := by
  simp only [Crew.writeReg, Crew.setVreg_pfx]
@[simp] theorem Crew.writeReg_walk (c : Crew) (n : Nat) (act : Mask) (l : List Word) : (c.writeReg n act l).walk = c.walk := by
  simp only [Crew.writeReg, Crew.setVreg_walk]
@[simp] theorem Crew.writeReg_replays (c : Crew) (n : Nat) (act : Mask) (l : List Word) :
    (c.writeReg n act l).replays = c.replays := by
  simp only [Crew.writeReg, Crew.setVreg_replays]
@[simp] theorem Crew.writeReg_cf (c : Crew) (n : Nat) (act : Mask) (l : List Word) : (c.writeReg n act l).cf = c.cf := by
  simp only [Crew.writeReg, Crew.setVreg_cf]
@[simp] theorem Crew.writeReg_xfer (c : Crew) (n : Nat) (act : Mask) (l : List Word) : (c.writeReg n act l).xfer = c.xfer := by
  simp only [Crew.writeReg, Crew.setVreg_xfer]
@[simp] theorem Crew.writeReg_fmode (c : Crew) (n : Nat) (act : Mask) (l : List Word) :
    (c.writeReg n act l).fmode = c.fmode := by
  simp only [Crew.writeReg, Crew.setVreg_fmode]
@[simp] theorem Crew.writeReg_mask (c : Crew) (n : Nat) (act : Mask) (l : List Word) : (c.writeReg n act l).mask = c.mask := by
  simp only [Crew.writeReg, Crew.setVreg_mask]
@[simp] theorem Crew.writeReg_mstack (c : Crew) (n : Nat) (act : Mask) (l : List Word) :
    (c.writeReg n act l).mstack = c.mstack := by
  simp only [Crew.writeReg, Crew.setVreg_mstack]
@[simp] theorem Crew.writeReg_exited (c : Crew) (n : Nat) (act : Mask) (l : List Word) :
    (c.writeReg n act l).exited = c.exited := by
  simp only [Crew.writeReg, Crew.setVreg_exited]
@[simp] theorem Crew.writeReg_l (c : Crew) (n : Nat) (act : Mask) (l : List Word) : (c.writeReg n act l).l = c.l := by
  simp only [Crew.writeReg, Crew.setVreg_l]
@[simp] theorem Crew.writeReg_m (c : Crew) (n : Nat) (act : Mask) (l : List Word) : (c.writeReg n act l).m = c.m := by
  simp only [Crew.writeReg, Crew.setVreg_m]
@[simp] theorem Crew.writeReg_s (c : Crew) (n : Nat) (act : Mask) (l : List Word) : (c.writeReg n act l).s = c.s := by
  simp only [Crew.writeReg, Crew.setVreg_s]
@[simp] theorem Crew.writeReg_p (c : Crew) (n : Nat) (act : Mask) (l : List Word) : (c.writeReg n act l).p = c.p := by
  simp only [Crew.writeReg, Crew.setVreg_p]
@[simp] theorem Crew.writeReg_sp (c : Crew) (n : Nat) (act : Mask) (l : List Word) : (c.writeReg n act l).sp = c.sp := by
  simp only [Crew.writeReg, Crew.setVreg_sp]
@[simp] theorem Crew.writeReg_lfsr (c : Crew) (n : Nat) (act : Mask) (l : List Word) : (c.writeReg n act l).lfsr = c.lfsr := by
  simp only [Crew.writeReg, Crew.setVreg_lfsr]
@[simp] theorem Crew.writeReg_tvec (c : Crew) (n : Nat) (act : Mask) (l : List Word) : (c.writeReg n act l).tvec = c.tvec := by
  simp only [Crew.writeReg, Crew.setVreg_tvec]
@[simp] theorem Crew.writeReg_tpc (c : Crew) (n : Nat) (act : Mask) (l : List Word) : (c.writeReg n act l).tpc = c.tpc := by
  simp only [Crew.writeReg, Crew.setVreg_tpc]
@[simp] theorem Crew.writeReg_tcause (c : Crew) (n : Nat) (act : Mask) (l : List Word) :
    (c.writeReg n act l).tcause = c.tcause := by
  simp only [Crew.writeReg, Crew.setVreg_tcause]
@[simp] theorem Crew.writeReg_taddr (c : Crew) (n : Nat) (act : Mask) (l : List Word) :
    (c.writeReg n act l).taddr = c.taddr := by
  simp only [Crew.writeReg, Crew.setVreg_taddr]
@[simp] theorem Crew.writeReg_tgt (c : Crew) (n : Nat) (act : Mask) (l : List Word) : (c.writeReg n act l).tgt = c.tgt := by
  simp only [Crew.writeReg, Crew.setVreg_tgt]
@[simp] theorem Crew.writeReg_intrap (c : Crew) (n : Nat) (act : Mask) (l : List Word) :
    (c.writeReg n act l).intrap = c.intrap := by
  simp only [Crew.writeReg, Crew.setVreg_intrap]
@[simp] theorem Crew.writeReg_commit (c : Crew) (n : Nat) (act : Mask) (l : List Word) :
    (c.writeReg n act l).commit = c.commit := by
  simp only [Crew.writeReg, Crew.setVreg_commit]
@[simp] theorem Crew.writeReg_commitAt (c : Crew) (n : Nat) (act : Mask) (l : List Word) :
    (c.writeReg n act l).commitAt = c.commitAt := by
  simp only [Crew.writeReg, Crew.setVreg_commitAt]
@[simp] theorem Crew.writeReg_wake (c : Crew) (n : Nat) (act : Mask) (l : List Word) : (c.writeReg n act l).wake = c.wake := by
  simp only [Crew.writeReg, Crew.setVreg_wake]
@[simp] theorem Crew.writeReg_wakep (c : Crew) (n : Nat) (act : Mask) (l : List Word) :
    (c.writeReg n act l).wakep = c.wakep := by
  simp only [Crew.writeReg, Crew.setVreg_wakep]
@[simp] theorem Crew.writeReg_tail (c : Crew) (n : Nat) (act : Mask) (l : List Word) : (c.writeReg n act l).tail = c.tail := by
  simp only [Crew.writeReg, Crew.setVreg_tail]
@[simp] theorem Crew.writeReg_shareBase (c : Crew) (n : Nat) (act : Mask) (l : List Word) :
    (c.writeReg n act l).shareBase = c.shareBase := by
  simp only [Crew.writeReg, Crew.setVreg_shareBase]
@[simp] theorem Crew.writeReg_shareSize (c : Crew) (n : Nat) (act : Mask) (l : List Word) :
    (c.writeReg n act l).shareSize = c.shareSize := by
  simp only [Crew.writeReg, Crew.setVreg_shareSize]
@[simp] theorem Crew.writeReg_pend (c : Crew) (n : Nat) (act : Mask) (l : List Word) : (c.writeReg n act l).pend = c.pend := by
  simp only [Crew.writeReg, Crew.setVreg_pend]
@[simp] theorem Crew.writeReg_runon (c : Crew) (n : Nat) (act : Mask) (l : List Word) :
    (c.writeReg n act l).runon = c.runon := by
  simp only [Crew.writeReg, Crew.setVreg_runon]
@[simp] theorem Crew.writeReg_steps (c : Crew) (n : Nat) (act : Mask) (l : List Word) :
    (c.writeReg n act l).steps = c.steps := by
  simp only [Crew.writeReg, Crew.setVreg_steps]
@[simp] theorem Crew.writeReg_bkptOnce (c : Crew) (n : Nat) (act : Mask) (l : List Word) :
    (c.writeReg n act l).bkptOnce = c.bkptOnce := by
  simp only [Crew.writeReg, Crew.setVreg_bkptOnce]
@[simp] theorem Crew.writeReg_expired (c : Crew) (n : Nat) (act : Mask) (l : List Word) :
    (c.writeReg n act l).expired = c.expired := by
  simp only [Crew.writeReg, Crew.setVreg_expired]
@[simp] theorem Crew.writeReg_clock (c : Crew) (n : Nat) (act : Mask) (l : List Word) :
    (c.writeReg n act l).clock = c.clock := by
  simp only [Crew.writeReg, Crew.setVreg_clock]
@[simp] theorem Crew.writeReg_relScope (c : Crew) (n : Nat) (act : Mask) (l : List Word) :
    (c.writeReg n act l).relScope = c.relScope := by
  simp only [Crew.writeReg, Crew.setVreg_relScope]
@[simp] theorem Crew.writeReg_pendAcq (c : Crew) (n : Nat) (act : Mask) (l : List Word) :
    (c.writeReg n act l).pendAcq = c.pendAcq := by
  simp only [Crew.writeReg, Crew.setVreg_pendAcq]
@[simp] theorem Crew.writeReg_fenceClk (c : Crew) (n : Nat) (act : Mask) (l : List Word) :
    (c.writeReg n act l).fenceClk = c.fenceClk := by
  simp only [Crew.writeReg, Crew.setVreg_fenceClk]
@[simp] theorem Crew.writeReg_recWait (c : Crew) (n : Nat) (act : Mask) (l : List Word) :
    (c.writeReg n act l).recWait = c.recWait := by
  simp only [Crew.writeReg, Crew.setVreg_recWait]
@[simp] theorem Crew.writeReg_crc (c : Crew) (n : Nat) (act : Mask) (l : List Word) : (c.writeReg n act l).crc = c.crc := by
  simp only [Crew.writeReg, Crew.setVreg_crc]
@[simp] theorem Crew.writeReg_halting (c : Crew) (n : Nat) (act : Mask) (l : List Word) :
    (c.writeReg n act l).halting = c.halting := by
  simp only [Crew.writeReg, Crew.setVreg_halting]

/-! What the crew operations write -/

theorem Crew.setSreg_s (c : Crew) (n : Nat) (w : Word) : (c.setSreg n w).s = c.s.set n w := rfl
theorem Crew.setMbox_m (c : Crew) (n : Nat) (b : Mbox) : (c.setMbox n b).m = c.m.set n b := rfl
theorem Crew.shiftLatch_l (c : Crew) (r : VReg) : (c.shiftLatch r).l = ⟨r.vals, r.tag, true⟩ :: c.l.take 3 := rfl

/-- A predicate after its write: the threads written take the new bits, the others keep theirs. -/
theorem Crew.setPred_pred (c : Crew) (n : Nat) (act bits : Mask) (h : n < c.p.length) (h7 : n < 7) :
    (c.setPred n act bits).pred n = (c.pred n &&& ~~~act) ||| (bits &&& act) := by
  simp [Crew.setPred, Crew.pred, h, h7]

/-- p7 takes no write (R31). -/
theorem Crew.setPred_seven (c : Crew) (act bits : Mask) : c.setPred 7 act bits = c := rfl

/-- A scalar register reads what was written to it. -/
theorem Crew.setSreg_sreg (c : Crew) (n : Nat) (w : Word) (h : n < c.s.length) : (c.setSreg n w).sreg n = w := by
  simp [Crew.setSreg, Crew.sreg, h]

/-- Writing one scalar register leaves the others. -/
theorem Crew.setSreg_sreg_ne (c : Crew) {n k : Nat} (w : Word) (h : n ≠ k) : (c.setSreg n w).sreg k = c.sreg k := by
  simp [Crew.setSreg, Crew.sreg, List.getD_eq_getElem?_getD, List.getElem?_set_ne h]

/-- A mailbox reads what was put into it. -/
theorem Crew.setMbox_mbox (c : Crew) (n : Nat) (b : Mbox) (h : n < c.m.length) : (c.setMbox n b).mbox n = b := by
  simp [Crew.setMbox, Crew.mbox, h]

@[simp] theorem State.newId_mem (s : State) : s.newId.2.mem = s.mem := rfl
@[simp] theorem State.newId_tags (s : State) : s.newId.2.tags = s.tags := rfl
@[simp] theorem State.newId_failing (s : State) : s.newId.2.failing = s.failing := rfl
@[simp] theorem State.newId_tlb (s : State) : s.newId.2.tlb = s.tlb := rfl
@[simp] theorem State.newId_live (s : State) : s.newId.2.live = s.live := rfl
@[simp] theorem State.newId_walker (s : State) : s.newId.2.walker = s.walker := rfl
@[simp] theorem State.newId_unsettled (s : State) : s.newId.2.unsettled = s.unsettled := rfl
@[simp] theorem State.newId_crews (s : State) : s.newId.2.crews = s.crews := rfl
@[simp] theorem State.newId_snaps (s : State) : s.newId.2.snaps = s.snaps := rfl
@[simp] theorem State.newId_wgs (s : State) : s.newId.2.wgs = s.wgs := rfl
@[simp] theorem State.newId_copies (s : State) : s.newId.2.copies = s.copies := rfl
@[simp] theorem State.newId_cores (s : State) : s.newId.2.cores = s.cores := rfl
@[simp] theorem State.newId_nodes (s : State) : s.newId.2.nodes = s.nodes := rfl
@[simp] theorem State.newId_regions (s : State) : s.newId.2.regions = s.regions := rfl
@[simp] theorem State.newId_groups (s : State) : s.newId.2.groups = s.groups := rfl
@[simp] theorem State.newId_pubs (s : State) : s.newId.2.pubs = s.pubs := rfl
@[simp] theorem State.newId_edges (s : State) : s.newId.2.edges = s.edges := rfl
@[simp] theorem State.newId_port (s : State) : s.newId.2.port = s.port := rfl
@[simp] theorem State.newId_links (s : State) : s.newId.2.links = s.links := rfl
@[simp] theorem State.newId_dbg (s : State) : s.newId.2.dbg = s.dbg := rfl
@[simp] theorem State.newId_alarm (s : State) : s.newId.2.alarm = s.alarm := rfl
@[simp] theorem State.newId_powered (s : State) : s.newId.2.powered = s.powered := rfl
@[simp] theorem State.newId_agenda (s : State) : s.newId.2.agenda = s.agenda := rfl
@[simp] theorem State.newId_turn (s : State) : s.newId.2.turn = s.turn := rfl
@[simp] theorem State.newId_cur (s : State) : s.newId.2.cur = s.cur := rfl
@[simp] theorem State.newId_fresh (s : State) : s.newId.2.fresh = s.fresh := rfl
@[simp] theorem State.freeBit_mem (s : State) : s.freeBit.2.mem = s.mem := rfl
@[simp] theorem State.freeBit_tags (s : State) : s.freeBit.2.tags = s.tags := rfl
@[simp] theorem State.freeBit_failing (s : State) : s.freeBit.2.failing = s.failing := rfl
@[simp] theorem State.freeBit_tlb (s : State) : s.freeBit.2.tlb = s.tlb := rfl
@[simp] theorem State.freeBit_live (s : State) : s.freeBit.2.live = s.live := rfl
@[simp] theorem State.freeBit_walker (s : State) : s.freeBit.2.walker = s.walker := rfl
@[simp] theorem State.freeBit_unsettled (s : State) : s.freeBit.2.unsettled = s.unsettled := rfl
@[simp] theorem State.freeBit_crews (s : State) : s.freeBit.2.crews = s.crews := rfl
@[simp] theorem State.freeBit_snaps (s : State) : s.freeBit.2.snaps = s.snaps := rfl
@[simp] theorem State.freeBit_wgs (s : State) : s.freeBit.2.wgs = s.wgs := rfl
@[simp] theorem State.freeBit_copies (s : State) : s.freeBit.2.copies = s.copies := rfl
@[simp] theorem State.freeBit_cores (s : State) : s.freeBit.2.cores = s.cores := rfl
@[simp] theorem State.freeBit_nodes (s : State) : s.freeBit.2.nodes = s.nodes := rfl
@[simp] theorem State.freeBit_regions (s : State) : s.freeBit.2.regions = s.regions := rfl
@[simp] theorem State.freeBit_groups (s : State) : s.freeBit.2.groups = s.groups := rfl
@[simp] theorem State.freeBit_pubs (s : State) : s.freeBit.2.pubs = s.pubs := rfl
@[simp] theorem State.freeBit_edges (s : State) : s.freeBit.2.edges = s.edges := rfl
@[simp] theorem State.freeBit_port (s : State) : s.freeBit.2.port = s.port := rfl
@[simp] theorem State.freeBit_links (s : State) : s.freeBit.2.links = s.links := rfl
@[simp] theorem State.freeBit_dbg (s : State) : s.freeBit.2.dbg = s.dbg := rfl
@[simp] theorem State.freeBit_alarm (s : State) : s.freeBit.2.alarm = s.alarm := rfl
@[simp] theorem State.freeBit_powered (s : State) : s.freeBit.2.powered = s.powered := rfl
@[simp] theorem State.freeBit_agenda (s : State) : s.freeBit.2.agenda = s.agenda := rfl
@[simp] theorem State.freeBit_turn (s : State) : s.freeBit.2.turn = s.turn := rfl
@[simp] theorem State.freeBit_cur (s : State) : s.freeBit.2.cur = s.cur := rfl
@[simp] theorem State.freeBit_nextId (s : State) : s.freeBit.2.nextId = s.nextId := rfl

end Sys2Proof.Machine
end

