-- ==== Sys2Proof/Laws/Words.lean ====
section
/-! SUPPORT. What running a word does, said once: a word that goes on answers what its meaning ends in, and a word that is
done leaves its crew counted. -/

namespace Sys2Proof.Machine

/-- A crew a context holds is the one the state holds under its reference. -/
theorem ctx_crew {s : State} {x : Ctx} (h : s.ctx = some x) : s.crew? x.c.ref = some x.c ∧ s.wg? x.w.uid = some x.w ∧
    x.s = s ∧ x.next = x.c.after ∧ x.taken = false ∧ x.c.wg = x.w.uid := by
  unfold State.ctx at h
  split at h
  · cases h
  · next r hr =>
    split at h
    · next c w hc hw =>
      split at h
      · cases h
        have h1 := List.find?_some hc
        have h2 := List.find?_some hw
        simp only [Bool.and_eq_true, beq_iff_eq] at h1 h2
        refine ⟨?_, ?_, rfl, rfl, rfl, ?_⟩
        · show s.crew? ⟨c.wg, c.idx⟩ = some c
          rw [h1.1, h1.2]; exact hc
        · rw [h2]; exact hw
        · rw [h1.1, h2]
      · cases h
    · cases h

/-- Where a word goes on, nothing delays or ends it before its meaning. -/
theorem Goes.gate {i : Instr} {s : State} {x : Ctx} (h : Goes i s x) : gate i x = none := by
  have hx := (ctx_crew h.ctx).2.2.1
  have h6 : (isPrivileged i && !x.s.systemWg x.w) = false := by
    have := h.allowed
    rw [hx]
    cases h1 : isPrivileged i <;> simp_all
  have h7 : ((view i).vecRegs.any fun n => x.c.pendingRegs.contains n) = false := by
    have := h.awaited
    simpa using this
  have h8 : (x.c.replays.any fun r => r.lost && r.home == x.c.ic) = false := by
    have := h.found
    simpa using this
  unfold Machine.gate
  simp only [h.legal, h6, h.settled, h7, h8, h.sound, h.latched, Option.isSome_none, Bool.false_and, Bool.false_eq_true,
    if_false]
  rcases h.queues with hq | hq | ⟨h1, h2, h3⟩
  · simp [hq]
  · simp [hq]
  · by_cases hi : (inert x.c (view i) || leaderless i x.c) = true
    · simp [hi]
    · have hv : ((view i).pushes ++ (view i).pops).any (fun n => !(x.w.queue n).valid) = false := by
        simp only [List.any_eq_false]
        intro n hn; simp [h1 n hn]
      simp only [hi, Bool.false_eq_true, if_false, hv, h2]
      rcases h3 with ⟨ha, hb⟩ | ⟨ha, hb⟩
      · simp [ha, hb]
      · have : (x.c.granted.isNone && !grantable x.s x.w x.c.ref x.s.nextId (view i).pops (view i).pushes) = false := by
          rcases ha with ha | ha
          · rw [Option.isSome_iff_exists] at ha
            obtain ⟨g, hg⟩ := ha
            simp [hg]
          · simp [ha]
        simp [this, hb]

/-- A word that goes on answers a next state: what its meaning ends in, with the copies whose status words it reads done
before it (R182). -/
theorem Goes.run {i : Instr} {s : State} {x : Ctx} (h : Goes i s x) (body : Ctx → Res) :
    runWord i body s = .next (s.finish x.c (isBoundary i) (body (x.readStatus i))) := by
  have ha := h.alone
  unfold runWord
  simp only [h.ctx, h.live, Option.isSome_none, Bool.false_eq_true, if_false, ha, h.gate, Option.getD_none]

/-- Reading status registers changes the clock of the crew and nothing else. -/
theorem readStatus_eq (x : Ctx) (i : Instr) : ∃ k, x.readStatus i = { x with c := { x.c with clock := k } } := by
  unfold Ctx.readStatus
  split
  · exact ⟨x.c.clock, rfl⟩
  · exact ⟨_, rfl⟩

/-! Replacing the entries of a list that a key selects -/

/-- The new entry is found under the key. -/
theorem find?_replace {α : Type} (p : α → Bool) (a : α) (ha : p a = true) :
    ∀ l : List α, (l.find? p).isSome → (l.map fun x => if p x then a else x).find? p = some a
  | [], h => by simp at h
  | k :: l, h => by
    rw [List.map_cons, List.find?_cons]
    by_cases hk : p k = true
    · simp [hk, ha]
    · rw [List.find?_cons] at h
      simp only [hk] at h
      simp only [hk, Bool.false_eq_true, if_false]
      exact find?_replace p a ha l h

/-- What another key finds, where no entry of the first key meets it. -/
theorem find?_replace_ne {α : Type} (p q : α → Bool) (a : α) (ha : q a = false) (h : ∀ x, p x = true → q x = false) :
    ∀ l : List α, (l.map fun x => if p x then a else x).find? q = l.find? q
  | [] => rfl
  | k :: l => by
    rw [List.map_cons, List.find?_cons, List.find?_cons, find?_replace_ne p q a ha h l]
    by_cases hk : p k = true
    · simp [hk, ha, h k hk]
    · simp [hk]

/-- What any key finds, where the entry found is put back and the key goes with the first key. -/
theorem find?_replace_self {α : Type} (p q : α → Bool) (a : α) (h : ∀ x, p x = true → q x = q a) :
    ∀ l : List α, l.find? p = some a → (l.map fun x => if p x then a else x).find? q = l.find? q
  | [], _ => rfl
  | k :: l, hf => by
    rw [List.map_cons, List.find?_cons, List.find?_cons]
    rw [List.find?_cons] at hf
    by_cases hk : p k = true
    · simp only [hk] at hf
      cases hf
      simp only [hk, if_true]
      by_cases hq : q a = true
      · simp [hq]
      · simp only [hq]
        exact find?_replace_ne p q a (by simpa using hq) (fun x hx => by rw [h x hx]; simpa using hq) l
    · simp only [hk] at hf
      simp only [hk, Bool.false_eq_true, if_false]
      rw [find?_replace_self p q a h l hf]

/-- The crew that replaced another is found under its reference. -/
theorem crew?_setCrew {s : State} {c : Crew} (h : (s.crew? c.ref).isSome) : (s.setCrew c).crew? c.ref = some c :=
  find?_replace (fun x : Crew => x.wg == c.wg && x.idx == c.idx) c (by simp) s.crews h

/-- Other crews are as they were. -/
theorem crew?_setCrew_ne (s : State) (c : Crew) {r : CrewRef} (h : r ≠ c.ref) : (s.setCrew c).crew? r = s.crew? r :=
  have hc : (c.wg == r.wg && c.idx == r.idx) = false := by
    simp only [Bool.and_eq_false_iff, beq_eq_false_iff_ne]
    by_cases h1 : c.wg = r.wg
    · right; intro h2; exact h (by cases r; simp_all [Crew.ref])
    · left; exact h1
  find?_replace_ne (fun x : Crew => x.wg == c.wg && x.idx == c.idx) (fun x : Crew => x.wg == r.wg && x.idx == r.idx) c hc
    (fun x hx => by simp only [Bool.and_eq_true, beq_iff_eq] at hx; rw [hx.1, hx.2]; exact hc) s.crews

/-- A workgroup put back unchanged leaves every workgroup as it was. -/
theorem wg?_setWg_self {s : State} {w : Wg} (h : s.wg? w.uid = some w) (u : Nat) : (s.setWg w).wg? u = s.wg? u :=
  find?_replace_self (fun x : Wg => x.uid == w.uid) (fun x : Wg => x.uid == u) w
    (fun x hx => by simp only [beq_iff_eq] at hx; rw [hx]) s.wgs h

/-- A workgroup replaced is found under its number. -/
theorem wg?_setWg {s : State} {w : Wg} (h : (s.wg? w.uid).isSome) : (s.setWg w).wg? w.uid = some w :=
  find?_replace (fun x : Wg => x.uid == w.uid) w (by simp) s.wgs h

/-- The crew after an instruction that nothing else is under way at. -/
theorem retire_calm {c : Crew} (h1 : c.halting = .none) (h2 : c.steps = none) (h3 : c.replays = []) (n : DWord) (k : Bool) :
    c.retire false n k = { c with
      ic := c.ic + 1, pc := n, xfer := k, pfx := none, granted := none, bkptOnce := false, waitcnt := 0, st := .ready
      wait := .none } := by
  unfold Crew.retire Crew.atPacket Crew.grantAfter
  simp [h1, h2, h3]

/-- The crew after a boundary that nothing else is under way at. -/
theorem retire_boundary {c : Crew} (h1 : c.halting = .none) (h2 : c.steps = none) (h3 : c.replays = []) (n : DWord)
    (k : Bool) :
    c.retire true n k = { c with
      ic := c.ic + 1, pc := n, xfer := k, pfx := none, granted := none, bkptOnce := false, waitcnt := 0, st := .ready
      wait := .none, commit := c.ic + 1, commitAt := c.pc, wake := [], tail := c.wakep } := by
  unfold Crew.retire Crew.atPacket Crew.commitHere Crew.grantAfter
  simp [h1, h2, h3]

/-- Nothing is counted as recovered where no forward run is under way. -/
theorem countRecovery_calm {s : State} {w : Wg} {c : Crew} (h : c.replays = []) : s.countRecovery w c = s := by
  unfold State.countRecovery
  simp [h]

/-- Records pushed over a crew's ring touch nothing of the machine but its failing units (R352). -/
theorem repairRing_eq (s : State) (c : Crew) (n : Nat) : s.repairRing c n = { s with failing := (s.repairRing c n).failing } := by
  unfold State.repairRing
  split <;> rfl

@[simp] theorem repairRing_crew? (s : State) (c : Crew) (n : Nat) (r : CrewRef) : (s.repairRing c n).crew? r = s.crew? r := by
  rw [repairRing_eq]; rfl

@[simp] theorem repairRing_wg? (s : State) (c : Crew) (n u : Nat) : (s.repairRing c n).wg? u = s.wg? u := by
  rw [repairRing_eq]; rfl

@[simp] theorem repairRing_mem (s : State) (c : Crew) (n : Nat) : (s.repairRing c n).mem = s.mem := by
  rw [repairRing_eq]

/-- With nothing pushed it touches nothing. -/
@[simp] theorem repairRing_zero (s : State) (c : Crew) : s.repairRing c 0 = s := by
  unfold State.repairRing
  simp

/-- What it leaves of the failing units depends on those alone. -/
theorem repairRing_failing {s t : State} (h : t.failing = s.failing) (c : Crew) (n : Nat) :
    (t.repairRing c n).failing = (s.repairRing c n).failing := by
  unfold State.repairRing
  rw [h]
  split <;> simp [*]

/-- What a word leaves of the rest of the machine, it leaves where it pushes records too, but for the failing units. -/
theorem repaired_rest {s t : State} (h : { t with crews := [], wgs := [] } = { s with crews := [], wgs := [] }) (c : Crew)
    (n : Nat) : { t.repairRing c n with crews := [], wgs := [] } = { s.repairRing c n with crews := [], wgs := [] } := by
  have hf : t.failing = s.failing := by have := congrArg State.failing h; exact this
  rw [repairRing_eq t, repairRing_eq s, repairRing_failing hf]
  have := congrArg (fun u : State => { u with failing := (s.repairRing c n).failing }) h
  exact this

/-- The machine after a word that is done and is no boundary, where the ring holds its records. -/
theorem finish_done {s : State} {c : Crew} {y : Ctx} (h1 : y.c.halting = .none) (h2 : y.c.steps = none)
    (h3 : y.c.replays = []) (h4 : y.c.wakeUsed ≤ y.c.ring) :
    s.finish c false (.done y) = (y.sync.repairRing c (y.c.wakeUsed - c.wakeUsed)).setCrew { y.c with
      ic := y.c.ic + 1, pc := y.next, xfer := y.taken, pfx := none, granted := none, bkptOnce := false, waitcnt := 0
      st := .ready, wait := .none } := by
  unfold State.finish
  have : ¬ (y.c.ring < y.c.wakeUsed) := by omega
  simp [this, countRecovery_calm h3, retire_calm h1 h2 h3, State.leave]

end Sys2Proof.Machine
end

