-- ==== Sys2Proof/Laws/Vector.lean ====
section
/-! SUPPORT. What consuming queue and mailbox operands and delivering a vector result do to the crew and the machine, said
once for every word that does so. -/

namespace Sys2Proof.Machine

/-- A crew changed in nothing but vector registers, latches, mailboxes and its clock. -/
structure Tame (c d : Crew) : Prop where
  rest : d.rest = c.rest
  modes : SameModes c d
  scalars : SameScalars c d
  wake : d.wake = c.wake
  wakep : d.wakep = c.wakep
  ic : d.ic = c.ic
  pc : d.pc = c.pc
  pfx : d.pfx = c.pfx
  commit : d.commit = c.commit ∧ d.commitAt = c.commitAt ∧ d.tail = c.tail

theorem Tame.refl (c : Crew) : Tame c c := ⟨rfl, ⟨rfl, rfl⟩, ⟨rfl, rfl, rfl⟩, rfl, rfl, rfl, rfl, rfl, ⟨rfl, rfl, rfl⟩⟩

theorem Tame.trans {a b c : Crew} (h : Tame a b) (k : Tame b c) : Tame a c :=
  ⟨k.rest.trans h.rest, ⟨k.modes.1.trans h.modes.1, k.modes.2.trans h.modes.2⟩,
    ⟨k.scalars.1.trans h.scalars.1, k.scalars.2.1.trans h.scalars.2.1, k.scalars.2.2.trans h.scalars.2.2⟩,
    k.wake.trans h.wake, k.wakep.trans h.wakep, k.ic.trans h.ic, k.pc.trans h.pc, k.pfx.trans h.pfx,
    ⟨k.commit.1.trans h.commit.1, k.commit.2.1.trans h.commit.2.1, k.commit.2.2.trans h.commit.2.2⟩⟩

theorem Tame.ref {c d : Crew} (h : Tame c d) : d.ref = c.ref := by
  have h1 : d.wg = c.wg := by have := congrArg Crew.wg h.rest; exact this
  have h2 : d.idx = c.idx := by have := congrArg Crew.idx h.rest; exact this
  simp [Crew.ref, h1, h2]

theorem tame_writeReg (c : Crew) (n : Nat) (a : Mask) (l : List Word) : Tame c (c.writeReg n a l) := by
  unfold Crew.writeReg Crew.setVreg
  split <;> exact ⟨rfl, ⟨rfl, rfl⟩, ⟨rfl, rfl, rfl⟩, rfl, rfl, rfl, rfl, rfl, ⟨rfl, rfl, rfl⟩⟩

theorem tame_shiftLatch (c : Crew) (r : VReg) : Tame c (c.shiftLatch r) :=
  ⟨rfl, ⟨rfl, rfl⟩, ⟨rfl, rfl, rfl⟩, rfl, rfl, rfl, rfl, rfl, ⟨rfl, rfl, rfl⟩⟩

theorem tame_setMbox (c : Crew) (n : Nat) (b : Mbox) : Tame c (c.setMbox n b) :=
  ⟨rfl, ⟨rfl, rfl⟩, ⟨rfl, rfl, rfl⟩, rfl, rfl, rfl, rfl, rfl, ⟨rfl, rfl, rfl⟩⟩

theorem tame_clock (c : Crew) (k : Clock) : Tame c { c with clock := k } :=
  ⟨rfl, ⟨rfl, rfl⟩, ⟨rfl, rfl, rfl⟩, rfl, rfl, rfl, rfl, rfl, ⟨rfl, rfl, rfl⟩⟩

/-- An acquire changes the crew's clock and the releases that an acquire fence may widen. -/
theorem tame_acquireRels (p : Place) (k : Nat) (l : List Rel) (c : Crew) : Tame c (c.acquireRels p k l) := by
  unfold Crew.acquireRels
  induction l generalizing c with
  | nil => exact .refl _
  | cons r l ih =>
    refine Tame.trans ?_ (ih _)
    dsimp only
    split <;> exact ⟨rfl, ⟨rfl, rfl⟩, ⟨rfl, rfl, rfl⟩, rfl, rfl, rfl, rfl, rfl, ⟨rfl, rfl, rfl⟩⟩

theorem tame_popQueue (x : Ctx) (n : Nat) : Tame x.c (x.popQueue n).c :=
  (tame_clock x.c _).trans (tame_acquireRels _ _ _ _)

theorem tame_pushQueue (x : Ctx) (n : Nat) (l : List Word) : Tame x.c (x.pushQueue n l).c :=
  ⟨rfl, ⟨rfl, rfl⟩, ⟨rfl, rfl, rfl⟩, rfl, rfl, rfl, rfl, rfl, ⟨rfl, rfl, rfl⟩⟩

theorem tame_pops (l : List Nat) (x : Ctx) : Tame x.c (l.foldl Ctx.popQueue x).c := by
  induction l generalizing x with
  | nil => exact .refl _
  | cons n l ih => exact (tame_popQueue x n).trans (ih _)

theorem tame_empty (l : List Nat) (c : Crew) : Tame c (l.foldl (fun c n => c.setMbox n { c.mbox n with full := false }) c) := by
  induction l generalizing c with
  | nil => exact .refl _
  | cons n l ih => exact (tame_setMbox c n _).trans (ih _)

theorem tame_consume (x : Ctx) (v : View) : Tame x.c (x.consume v).c := by
  unfold Ctx.consume
  split
  · exact (tame_pops v.pops x).trans (tame_empty _ _)
  · exact (tame_pops v.pops x).trans (tame_empty _ _)

theorem tame_deliver (x : Ctx) (d : BitVec 7) (l : List Word) (k : Bool) : Tame x.c (x.deliver d l k).c := by
  unfold Ctx.deliver
  have hq : Tame x.c ((x.pushQueue (d.toNat - 104) (perThread fun t => if x.act.getLsbD t then lane l t else 0)).mapS
      fun s => s.wakeYields x.w.uid).c := by
    unfold Ctx.mapS; exact tame_pushQueue x (d.toNat - 104) []
  dsimp only
  cases vecKind d <;> dsimp only <;> (try split) <;>
    first
    | exact .refl _
    | exact tame_writeReg _ _ _ _
    | exact (tame_writeReg _ _ _ _).trans (tame_shiftLatch _ _)
    | exact hq.trans (tame_shiftLatch _ _)
    | exact hq
    | exact tame_shiftLatch _ _
    | exact tame_setMbox _ _ _

/-! The machine and the workgroup beside the crew -/

/-- Two contexts of one instruction: the same workgroup number, the same crews and workgroups present. -/
structure Beside (x y : Ctx) : Prop where
  uid : y.w.uid = x.w.uid
  next : y.next = x.next
  taken : y.taken = x.taken
  crews : ∀ r, (x.s.crew? r).isSome → (y.s.crew? r).isSome
  wgs : ∀ u, (x.s.wg? u).isSome → (y.s.wg? u).isSome

theorem Beside.refl (x : Ctx) : Beside x x := ⟨rfl, rfl, rfl, fun _ h => h, fun _ h => h⟩

theorem Beside.trans {x y z : Ctx} (h : Beside x y) (k : Beside y z) : Beside x z :=
  ⟨k.uid.trans h.uid, k.next.trans h.next, k.taken.trans h.taken, fun r e => k.crews r (h.crews r e),
    fun u e => k.wgs u (h.wgs u e)⟩

/-- A list whose entries are changed under a key that the change keeps finds as much as before. -/
theorem find?_map_isSome {α : Type} (p : α → Bool) (g : α → α) (h : ∀ x, p x = true → p (g x) = true) (l : List α)
    (e : (l.find? p).isSome) : ((l.map g).find? p).isSome := by
  simp only [List.find?_isSome] at *
  obtain ⟨x, hx, hp⟩ := e
  exact ⟨g x, List.mem_map_of_mem hx, h x hp⟩

theorem crew?_setCrew_isSome (s : State) (c : Crew) (r : CrewRef) (h : (s.crew? r).isSome) :
    ((s.setCrew c).crew? r).isSome :=
  find?_map_isSome (fun k : Crew => k.wg == r.wg && k.idx == r.idx) _ (by
    intro x hx
    split
    · next e =>
      simp only [Bool.and_eq_true, beq_iff_eq] at hx e ⊢
      exact ⟨e.1.symm.trans hx.1, e.2.symm.trans hx.2⟩
    · exact hx) s.crews h

theorem wg?_setWg_isSome (s : State) (w : Wg) (u : Nat) (h : (s.wg? u).isSome) : ((s.setWg w).wg? u).isSome :=
  find?_map_isSome (fun k : Wg => k.uid == u) _ (by
    intro x hx
    split
    · next e => simp only [beq_iff_eq] at hx e ⊢; exact e.symm.trans hx
    · exact hx) s.wgs h

theorem rolledBack_crews (s : State) (c : Crew) : (s.rolledBack c).1.crews = s.crews ∧ (s.rolledBack c).1.wgs = s.wgs ∧
    (s.rolledBack c).1.mem = s.mem := by
  unfold State.rolledBack
  split
  · exact ⟨rfl, rfl, rfl⟩
  · dsimp only
    split <;> exact ⟨rfl, rfl, rfl⟩

theorem hitRunons_keeps (s : State) (g : Option Nat) (m : Option CrewRef) (a n : Nat) :
    (∀ r, (s.crew? r).isSome → ((s.hitRunons g m a n).crew? r).isSome) ∧ (s.hitRunons g m a n).wgs = s.wgs ∧
      (s.hitRunons g m a n).mem = s.mem := by
  unfold State.hitRunons
  generalize s.crews = l
  induction l generalizing s with
  | nil => exact ⟨fun _ h => h, rfl, rfl⟩
  | cons c l ih =>
    simp only [List.foldl_cons]
    split
    · have hb := rolledBack_crews s c
      obtain ⟨h1, h2, h3⟩ := ih ((s.rolledBack c).1.setCrew (s.rolledBack c).2)
      refine ⟨fun r e => h1 r (crew?_setCrew_isSome _ _ _ ?_), h2.trans hb.2.1, h3.trans hb.2.2⟩
      simpa [State.crew?, hb.1] using e
    · exact ih s

theorem beside_popQueue (x : Ctx) (n : Nat) : Beside x (x.popQueue n) := by
  unfold Ctx.popQueue
  exact ⟨rfl, rfl, rfl, fun _ h => h, fun _ h => h⟩

theorem beside_pushQueue (x : Ctx) (n : Nat) (l : List Word) : Beside x (x.pushQueue n l) := by
  have h := hitRunons_keeps x.s (some x.w.uid) (some x.c.ref) ((x.w.queue n).slotAt (x.w.queue n).count) 128
  exact ⟨rfl, rfl, rfl, h.1, fun u e => by
    show ((State.hitRunons _ _ _ _ _).wg? u).isSome
    simpa [State.wg?, h.2.1] using e⟩

theorem beside_wake (x : Ctx) : Beside x (x.mapS fun s => s.wakeYields x.w.uid) := by
  have hc : ∀ r, (x.s.crew? r).isSome → ((x.sync.wakeYields x.w.uid).crew? r).isSome := by
    intro r e
    refine find?_map_isSome (fun k : Crew => k.wg == r.wg && k.idx == r.idx) _ ?_ x.s.crews e
    intro k hk
    dsimp only
    split
    · split <;> exact hk
    · exact hk
  have hw : ∀ u, (x.s.wg? u).isSome → ((x.sync.wakeYields x.w.uid).wg? u).isSome :=
    fun u e => wg?_setWg_isSome x.s x.w u e
  refine ⟨?_, rfl, rfl, hc, hw⟩
  show (((x.sync.wakeYields x.w.uid).wg? x.w.uid).getD x.w).uid = x.w.uid
  cases h : (x.sync.wakeYields x.w.uid).wg? x.w.uid with
  | none => rfl
  | some w => exact (by simpa using List.find?_some h)

theorem beside_pops (l : List Nat) (x : Ctx) : Beside x (l.foldl Ctx.popQueue x) := by
  induction l generalizing x with
  | nil => exact .refl _
  | cons n l ih => exact (beside_popQueue x n).trans (ih _)

theorem beside_crew (x : Ctx) (c : Crew) : Beside x { x with c := c } := ⟨rfl, rfl, rfl, fun _ h => h, fun _ h => h⟩

theorem beside_consume (x : Ctx) (v : View) : Beside x (x.consume v) := by
  unfold Ctx.consume
  dsimp only
  split
  · exact (beside_pops v.pops x).trans (beside_crew _ _)
  · exact ((beside_pops v.pops x).trans (by
      have := beside_wake (v.pops.foldl Ctx.popQueue x)
      exact this)).trans (beside_crew _ _)

theorem beside_deliver (x : Ctx) (d : BitVec 7) (l : List Word) (k : Bool) : Beside x (x.deliver d l k) := by
  unfold Ctx.deliver
  dsimp only
  have hq := (beside_pushQueue x (d.toNat - 104) (perThread fun t => if x.act.getLsbD t then lane l t else 0)).trans
    (beside_wake _)
  cases vecKind d <;> dsimp only <;> (try split) <;>
    first
    | exact .refl _
    | exact beside_crew _ _
    | exact hq.trans (beside_crew _ _)

/-! Registers -/

theorem lane_perThread (f : Nat → Word) {t : Nat} (h : t < 32) : lane (perThread f) t = f t := by
  unfold lane perThread threads
  interval_cases t <;> rfl

theorem vreg_setVreg_ne (c : Crew) {n m : Nat} (r : VReg) (h : m ≠ n) : (c.setVreg n r).vreg m = c.vreg m := by
  unfold Crew.setVreg Crew.vreg
  dsimp only
  by_cases hn : n < 96 <;> by_cases hm : m < 96 <;> simp only [hn, hm, if_true, if_false]
  · rw [List.getD_eq_getElem?_getD, List.getD_eq_getElem?_getD, List.getElem?_set_ne (Ne.symm h)]
  · rw [List.getD_eq_getElem?_getD, List.getD_eq_getElem?_getD, List.getElem?_set_ne (by omega)]

/-- A register that exists, replaced. -/
theorem vreg_setVreg (c : Crew) {n : Nat} (r : VReg) (h : if n < 96 then n < c.v.length else n - 96 < c.o.length) :
    (c.setVreg n r).vreg n = r := by
  unfold Crew.setVreg Crew.vreg
  by_cases hn : n < 96
  · simp only [hn, if_true] at h ⊢
    simp [List.getD_eq_getElem?_getD, h]
  · simp only [hn, if_false] at h ⊢
    simp [List.getD_eq_getElem?_getD, h]

theorem vreg_writeReg_ne (c : Crew) {n m : Nat} (a : Mask) (l : List Word) (h : m ≠ n) :
    (c.writeReg n a l).vreg m = c.vreg m := by
  have := vreg_setVreg_ne c (writeMasked (c.vreg n) a l) h
  exact this

theorem lane_writeReg (c : Crew) {n t : Nat} (a : Mask) (l : List Word) (ht : t < 32)
    (h : if n < 96 then n < c.v.length else n - 96 < c.o.length) :
    lane ((c.writeReg n a l).vreg n).vals t = if a.getLsbD t then lane l t else lane (c.vreg n).vals t := by
  have h1 : (c.writeReg n a l).vreg n = writeMasked (c.vreg n) a l := vreg_setVreg c _ h
  rw [h1]
  unfold writeMasked
  dsimp only
  rw [lane_perThread _ ht]

theorem mbox_setMbox_ne (c : Crew) {n m : Nat} (b : Mbox) (h : m ≠ n) : (c.setMbox n b).mbox m = c.mbox m := by
  unfold Crew.setMbox Crew.mbox
  simp only [List.getD_eq_getElem?_getD, List.getElem?_set_ne (Ne.symm h)]

theorem mbox_setMbox (c : Crew) {n : Nat} (b : Mbox) (h : n < c.m.length) : (c.setMbox n b).mbox n = b := by
  unfold Crew.setMbox Crew.mbox
  simp [List.getD_eq_getElem?_getD, h]

/-- An acquire leaves the register files, the latches and the mailboxes. -/
theorem acquireRels_files (p : Place) (k : Nat) (l : List Rel) (c : Crew) : (c.acquireRels p k l).v = c.v ∧
    (c.acquireRels p k l).o = c.o ∧ (c.acquireRels p k l).l = c.l ∧ (c.acquireRels p k l).m = c.m := by
  unfold Crew.acquireRels
  induction l generalizing c with
  | nil => exact ⟨rfl, rfl, rfl, rfl⟩
  | cons r l ih =>
    simp only [List.foldl_cons]
    split
    · exact ih { c with clock := clkJoin c.clock r.clock }
    · exact ih { c with pendAcq := joinRel c.pendAcq r }

/-- Consuming operands leaves the registers and latches, and the mailboxes the word does not read. -/
theorem consume_regs (x : Ctx) (v : View) : (x.consume v).c.v = x.c.v ∧ (x.consume v).c.o = x.c.o ∧
    (x.consume v).c.l = x.c.l ∧ (x.consume v).c.m.length = x.c.m.length ∧
    ∀ n, n ∉ v.mboxReads → (x.consume v).c.mbox n = x.c.mbox n := by
  have hp : ∀ (l : List Nat) (x : Ctx), (l.foldl Ctx.popQueue x).c.v = x.c.v ∧ (l.foldl Ctx.popQueue x).c.o = x.c.o ∧
      (l.foldl Ctx.popQueue x).c.l = x.c.l ∧ (l.foldl Ctx.popQueue x).c.m = x.c.m := by
    intro l
    induction l with
    | nil => exact fun _ => ⟨rfl, rfl, rfl, rfl⟩
    | cons n l ih =>
      intro x
      obtain ⟨i1, i2, i3, i4⟩ := ih (x.popQueue n)
      obtain ⟨a1, a2, a3, a4⟩ := acquireRels_files (crewPlace x.w x.c) 1 (relsOf x.w.stags ((x.w.queue n).slotAt 0) 128)
        { x.c with clock := clkJoin x.c.clock ((x.w.queue n).clocks.headD []) }
      exact ⟨i1.trans a1, i2.trans a2, i3.trans a3, i4.trans a4⟩
  have he : ∀ (l : List Nat) (c : Crew), let d := l.foldl (fun c n => c.setMbox n { c.mbox n with full := false }) c
      d.v = c.v ∧ d.o = c.o ∧ d.l = c.l ∧ d.m.length = c.m.length ∧ ∀ n, n ∉ l → d.mbox n = c.mbox n := by
    intro l
    induction l with
    | nil => exact fun _ => ⟨rfl, rfl, rfl, rfl, fun _ _ => rfl⟩
    | cons k l ih =>
      intro c
      obtain ⟨h1, h2, h3, h4, h5⟩ := ih (c.setMbox k { c.mbox k with full := false })
      refine ⟨h1, h2, h3, h4.trans (List.length_set ..), fun n hn => ?_⟩
      simp only [List.mem_cons, not_or] at hn
      exact (h5 n hn.2).trans (mbox_setMbox_ne c _ hn.1)
  obtain ⟨p1, p2, p3, p4⟩ := hp v.pops x
  obtain ⟨e1, e2, e3, e4, e5⟩ := he v.mboxReads (v.pops.foldl Ctx.popQueue x).c
  unfold Ctx.consume
  dsimp only
  split
  · exact ⟨e1.trans p1, e2.trans p2, e3.trans p3, e4.trans (by rw [p4]), fun n h => (e5 n h).trans (by
      unfold Crew.mbox; rw [p4])⟩
  · exact ⟨e1.trans p1, e2.trans p2, e3.trans p3, e4.trans (by rw [p4]), fun n h => (e5 n h).trans (by
      unfold Crew.mbox; rw [p4])⟩

/-- The code points of v and o registers, queues, latches and mailboxes (R63). -/
theorem vecKind_ranges : ∀ d : BitVec 7,
    (vecKind d = .v ↔ d.toNat < 96) ∧ (vecKind d = .o ↔ 96 ≤ d.toNat ∧ d.toNat < 104) ∧
      (vecKind d = .q ↔ 104 ≤ d.toNat ∧ d.toNat < 112) ∧ (vecKind d = .l ↔ 112 ≤ d.toNat ∧ d.toNat < 116) ∧
      (vecKind d = .m ↔ 116 ≤ d.toNat ∧ d.toNat < 120) := by
  decide

/-- A delivery by the kind of its destination, the latches aside. -/
theorem deliver_crew (x : Ctx) (d : BitVec 7) (l : List Word) (k : Bool) :
    (x.deliver d l k).c.v = (match vecKind d with | .v | .o => x.c.writeReg d.toNat x.act l | _ => x.c).v ∧
    (x.deliver d l k).c.o = (match vecKind d with | .v | .o => x.c.writeReg d.toNat x.act l | _ => x.c).o ∧
    (x.deliver d l k).c.m = (match vecKind d with
      | .m => match lowest x.act with
        | some t => x.c.setMbox (d.toNat - 116) ⟨lane l t, true⟩
        | none => x.c
      | _ => x.c).m := by
  have hw : (x.c.writeReg d.toNat x.act l).m = x.c.m := by
    unfold Crew.writeReg Crew.setVreg; split <;> rfl
  unfold Ctx.deliver
  dsimp only
  cases vecKind d <;> dsimp only
  case m => generalize lowest x.act = o; cases o <;> exact ⟨rfl, rfl, rfl⟩
  all_goals
    first
    | exact ⟨rfl, rfl, rfl⟩
    | (split <;> first | exact ⟨rfl, rfl, rfl⟩ | exact ⟨rfl, rfl, hw⟩)

theorem vreg_congr {c d : Crew} (h : d.v = c.v) (k : d.o = c.o) (n : Nat) : d.vreg n = c.vreg n := by
  unfold Crew.vreg; rw [h, k]

theorem mbox_congr {c d : Crew} (h : d.m = c.m) (n : Nat) : d.mbox n = c.mbox n := by
  unfold Crew.mbox; rw [h]

/-- Delivering a result leaves every register but the destination, and every mailbox but one it names. -/
theorem deliver_others (x : Ctx) (d : BitVec 7) (l : List Word) (k : Bool) :
    SameRegs x.c (x.deliver d l k).c (destRegs d 1) ∧
      ∀ n, ¬ (vecKind d = .m ∧ n = d.toNat - 116) → (x.deliver d l k).c.mbox n = x.c.mbox n := by
  obtain ⟨hv, ho, hm⟩ := deliver_crew x d l k
  constructor
  · intro n hn
    rw [vreg_congr hv ho]
    unfold destRegs at hn
    cases h : vecKind d <;> simp only [h] at hn ⊢ <;> exact vreg_writeReg_ne x.c x.act l (by simpa using hn)
  · intro n hn
    rw [mbox_congr hm]
    cases h : vecKind d <;> simp only [h] at hn ⊢
    split
    · exact mbox_setMbox_ne x.c _ (by simpa using hn)
    · rfl

/-- Where the delivered values are: in a register in the active threads, in a mailbox. -/
theorem deliver_lands (x : Ctx) (d : BitVec 7) (l : List Word) (k : Bool)
    (hv : vecKind d = .v → d.toNat < x.c.v.length) (ho : x.c.o.length = 8) (hm : x.c.m.length = 4) :
    (vecKind d = .v ∨ vecKind d = .o → ∀ t, t < 32 → lane ((x.deliver d l k).c.vreg d.toNat).vals t =
      if x.act.getLsbD t then lane l t else lane (x.c.vreg d.toNat).vals t) ∧
    (vecKind d = .m → ∀ t, lowest x.act = some t → (x.deliver d l k).c.mbox (d.toNat - 116) = ⟨lane l t, true⟩) := by
  obtain ⟨k1, k2, _, _, k5⟩ := vecKind_ranges d
  obtain ⟨dv, do_, dm⟩ := deliver_crew x d l k
  constructor
  · intro h t ht
    rw [vreg_congr dv do_]
    have hn : if d.toNat < 96 then d.toNat < x.c.v.length else d.toNat - 96 < x.c.o.length := by
      rcases h with h | h
      · have := k1.mp h; simp [this, hv h]
      · have := k2.mp h; rw [ho]; split <;> omega
    have := lane_writeReg x.c x.act l ht hn
    rcases h with h | h <;> simpa only [h] using this
  · intro h t ht
    have := k5.mp h
    rw [mbox_congr dm]
    simp only [h, ht]
    exact mbox_setMbox _ _ (by omega)

/-- The new l0 of a result delivered to a latch field (R26). -/
theorem deliver_latch (x : Ctx) (d : BitVec 7) (l : List Word) (h : vecKind d = .l) :
    ((x.deliver d l true).c.latch 0).valid = true ∧ ∀ t, t < 32 → lane ((x.deliver d l true).c.latch 0).vals t =
      if x.act.getLsbD t then lane l t else if (x.c.latch 0).valid then lane (x.c.latch 0).vals t else 0 := by
  have e : (x.deliver d l true).c = x.c.shiftLatch (x.c.newLatch d x.act l) := by
    unfold Ctx.deliver; simp only [h, if_true]
  rw [e]
  refine ⟨rfl, fun t ht => ?_⟩
  show lane (x.c.newLatch d x.act l).vals t = _
  unfold Crew.newLatch
  simp only [h]
  cases (x.c.latch 0).valid <;> simp only [if_true, Bool.false_eq_true, if_false, writeMasked, lane_perThread _ ht]
  split
  · rfl
  · show (List.replicate 32 (0 : Word)).getD t 0 = 0
    rw [List.getD_eq_getElem _ _ (by rw [List.length_replicate]; exact ht), List.getElem_replicate]

/-- The crew a finished word leaves, boundary or not. -/
theorem finish_counted (s : State) (c : Crew) (y : Ctx) (b : Bool) (h1 : y.c.halting = .none) (h2 : y.c.steps = none)
    (h3 : y.c.replays = []) (h4 : b = false → y.c.wakeUsed ≤ y.c.ring) :
    s.finish c b (.done y) = (y.sync.repairRing c (if b then 0 else y.c.wakeUsed - c.wakeUsed)).setCrew (
      let e := { y.c with
        ic := y.c.ic + 1, pc := y.next, xfer := y.taken, pfx := none, granted := none, bkptOnce := false, waitcnt := 0
        st := .ready, wait := .none }
      if b then { e with commit := y.c.ic + 1, commitAt := y.c.pc, wake := [], tail := c.wakep, wakep := c.wakep } else e) := by
  cases b with
  | false => simpa using finish_done h1 h2 h3 (h4 rfl)
  | true =>
    unfold State.finish
    simp only [if_true, repairRing_zero]
    rw [retire_boundary (c := { y.c with wake := c.wake, wakep := c.wakep }) h1 h2 h3]
    rfl

/-- The register files, flags and generator of two crews are the same. -/
structure SameFiles (c d : Crew) : Prop where
  v : d.v = c.v
  o : d.o = c.o
  l : d.l = c.l
  m : d.m = c.m
  scalars : SameScalars c d
  modes : SameModes c d

/-- The machine left by a finished word: the crew counted, the rest of it as the word left it. -/
theorem finish_crew (s : State) (x y : Ctx) (i : Instr) (hs : s.crew? x.c.ref = some x.c) (hb : Beside x y)
    (hx : x.s = s) (hn : x.next = x.c.after)
    (hr : y.c.rest = x.c.rest) (hp : y.c.ic = x.c.ic ∧ y.c.pc = x.c.pc) (hk : y.c.commit = x.c.commit ∧
      y.c.commitAt = x.c.commitAt ∧ y.c.tail = x.c.tail)
    (h1 : x.c.halting = .none) (h2 : x.c.steps = none) (h3 : x.c.replays = [])
    (h4 : isBoundary i = false → y.c.wakeUsed ≤ y.c.ring) :
    ∃ t c n, s.finish x.c (isBoundary i) (.done y) = t ∧ t = (y.sync.repairRing x.c n).setCrew c ∧ grown x t = n ∧
      Counted x t c ∧ Kept i x c ∧ c.ref = x.c.ref ∧ SameFiles y.c c := by
  have e1 : y.c.halting = .none := by have := congrArg Crew.halting hr; exact this.trans h1
  have e2 : y.c.steps = none := by have := congrArg Crew.steps hr; exact this.trans h2
  have e3 : y.c.replays = [] := by have := congrArg Crew.replays hr; exact this.trans h3
  have e4 : y.c.wg = x.c.wg := by have := congrArg Crew.wg hr; exact this
  have e5 : y.c.idx = x.c.idx := by have := congrArg Crew.idx hr; exact this
  have href : y.c.ref = x.c.ref := by simp [Crew.ref, e4, e5]
  have hpres : (y.sync.crew? x.c.ref).isSome := by
    have := hb.crews x.c.ref (by rw [hx, hs]; rfl)
    exact this
  have at_ (n : Nat) (d : Crew) (hd : d.ref = x.c.ref) : ((y.sync.repairRing x.c n).setCrew d).crew? x.c.ref = some d := by
    rw [← hd]
    exact crew?_setCrew (by rw [hd, repairRing_crew?]; exact hpres)
  refine ⟨_, _, _, rfl, finish_counted s x.c y _ e1 e2 e3 h4, ?_⟩
  rw [finish_counted s x.c y _ e1 e2 e3 h4]
  cases hbd : isBoundary i with
  | false =>
    simp only [Bool.false_eq_true, if_false]
    refine ⟨?_, ⟨?_, ?_, ?_, rfl, rfl, rfl⟩, ⟨?_, ?_⟩, href, ⟨rfl, rfl, rfl, rfl, ⟨rfl, rfl, rfl⟩, ⟨rfl, rfl⟩⟩⟩
    · unfold grown; rw [at_ _ { y.c with
        ic := y.c.ic + 1, pc := y.next, xfer := y.taken, pfx := none, granted := none, bkptOnce := false, waitcnt := 0
        st := .ready, wait := .none } href]; rfl
    · exact at_ _ _ href
    · show y.c.ic + 1 = _; rw [hp.1]
    · show y.next = _; rw [hb.next, hn]
    · rw [← hr]; rfl
    · rw [hbd]; exact hk
  | true =>
    simp only [if_true]
    refine ⟨?_, ⟨?_, ?_, ?_, rfl, rfl, rfl⟩, ⟨?_, ?_⟩, href, ⟨rfl, rfl, rfl, rfl, ⟨rfl, rfl, rfl⟩, ⟨rfl, rfl⟩⟩⟩
    · unfold grown; rw [at_ _ { y.c with
        ic := y.c.ic + 1, pc := y.next, xfer := y.taken, pfx := none, granted := none, bkptOnce := false, waitcnt := 0
        st := .ready, wait := .none, commit := y.c.ic + 1, commitAt := y.c.pc, wake := [], tail := x.c.wakep,
        wakep := x.c.wakep } href]; simp [Crew.wakeUsed]
    · exact at_ _ _ href
    · show y.c.ic + 1 = _; rw [hp.1]
    · show y.next = _; rw [hb.next, hn]
    · rw [← hr]; rfl
    · rw [hbd]
      show y.c.ic + 1 = _ ∧ y.c.pc = _ ∧ _
      rw [hp.1, hp.2]; exact ⟨rfl, rfl, rfl⟩

/-- The fields of a word, no copy, that names its destination d among its operands. -/
structure Dst (i : Instr) (d : BitVec 7) : Prop where
  vec : (view i).uni = false
  led : ∀ c, leaderless i c = false
  reg : vecKind d = .v → d.toNat ∈ (view i).mainRegs
  push : vecKind d = .q → d.toNat - 104 ∈ (view i).pushes
  mbox : vecKind d = .m → d.toNat - 116 ∈ (view i).mboxWrites
  latch : vecKind d = .l → (view i).shifts = true

theorem legal_regs {i : Instr} {c : Crew} {w : Wg} (h : firstFault i c w = none) : ∀ n ∈ (view i).mainRegs, n < c.v.length := by
  unfold firstFault at h
  split at h
  · cases h
  · split at h
    · cases h
    · next h2 =>
      intro n hn
      simp only [List.any_eq_true, not_exists] at h2
      have := h2 n
      simpa [hn] using this

theorem wake_mapS (x : Ctx) (h : (x.s.wg? x.w.uid).isSome) :
    (x.mapS fun s => s.wakeYields x.w.uid).w = x.w := by
  have : (x.sync.wakeYields x.w.uid).wg? x.w.uid = some x.w := wg?_setWg h
  show ((x.sync.wakeYields x.w.uid).wg? x.w.uid).getD x.w = x.w
  rw [this]; rfl

/-- An element pushed is the newest of its queue. -/
theorem element_push (x : Ctx) (n : Nat) (l : List Word) (hl : l.length = 32) (hn : n < x.w.queues.length) :
    0 < ((x.pushQueue n l).w.queue n).count ∧
      ∀ t, t < 32 → lane ((x.pushQueue n l).w.element n (((x.pushQueue n l).w.queue n).count - 1)) t = lane l t := by
  have hq : (x.pushQueue n l).w.queue n = { x.w.queue n with count := (x.w.queue n).count + 1, clocks := (x.w.queue n).clocks ++ [x.c.clock] } := by
    unfold Ctx.pushQueue Wg.queue
    simp [List.getD_eq_getElem?_getD, Wg.writeScr, hn]
  refine ⟨by rw [hq]; simp, fun t ht => ?_⟩
  unfold Wg.element
  rw [hq]
  simp only [Nat.add_sub_cancel]
  rw [lane_perThread _ ht]
  have hs : (x.pushQueue n l).w.scr = memWrite x.w.scr ((x.w.queue n).slotAt (x.w.queue n).count) (l.flatMap fun v => leBytes v.toNat 4) := rfl
  rw [hs]
  show BitVec.ofNat 32 (memNat (memWrite _ ((x.w.queue n).slotAt (x.w.queue n).count) _) ((x.w.queue n).slotAt (x.w.queue n).count + 4 * t) 4) = _
  generalize (x.w.queue n).slotAt (x.w.queue n).count = a
  rw [memNat_words _ _ _ _ (by omega)]
  simp [lane]



theorem Tame.active {c d : Crew} (h : Tame c d) : d.active = c.active := by
  have hm : d.mask = c.mask := by have := congrArg Crew.mask h.rest; exact this
  unfold Crew.active Crew.guardMask Crew.pred
  rw [hm, h.pfx, h.scalars.2.1]

/-- Words that name no queue leave the machine and the workgroup. -/
theorem consume_deliver_outside (x : Ctx) (v : View) (d : BitVec 7) (l : List Word) (k : Bool) (h : v.pops = [])
    (hd : vecKind d ≠ .q) : ((x.consume v).deliver d l k).s = x.s ∧ ((x.consume v).deliver d l k).w = x.w := by
  have h1 : (x.consume v).s = x.s ∧ (x.consume v).w = x.w := by unfold Ctx.consume; rw [h]; exact ⟨rfl, rfl⟩
  rw [← h1.1, ← h1.2]
  unfold Ctx.deliver
  dsimp only
  cases hk : vecKind d <;> dsimp only <;> (try split) <;> first | exact ⟨rfl, rfl⟩ | exact absurd hk hd

/-- The context at another clock of its crew. -/
def Ctx.timed (x : Ctx) (k : Clock) : Ctx := { x with c := { x.c with clock := k } }

/-- A record of one register changes the wake alone, by at most 144 bytes. -/
theorem record_one (x : Ctx) (d : BitVec 7) : ∃ wk wp, x.record d 1 = { x with c := { x.c with wake := wk, wakep := wp } } ∧
    (wk.map WakeRec.size).sum ≤ x.c.wakeUsed + 144 := by
  have ht : ∀ t : Tag, tagBytes t ≤ 128 := by intro t; cases t <;> decide
  unfold Ctx.record
  cases vecKind d <;> dsimp only <;>
    first
    | exact ⟨_, _, rfl, Nat.le_add_right _ _⟩
    | (refine ⟨_, _, rfl, ?_⟩
       have := ht (x.c.vreg d.toNat).tag
       simp [WakeRec.size, WakeBody.bytes, Crew.wakeUsed, List.range_succ]
       omega)

/-- Where the pushed value of a delivery stands. -/
theorem deliver_queue (x : Ctx) (d : BitVec 7) (l : List Word) (k : Bool) (hq : vecKind d = .q)
    (hn : d.toNat - 104 < x.w.queues.length) (hw : (x.s.wg? x.w.uid).isSome) :
    let w := (x.deliver d l k).w
    0 < (w.queue (d.toNat - 104)).count ∧ ∀ t, t < 32 →
      lane (w.element (d.toNat - 104) ((w.queue (d.toNat - 104)).count - 1)) t = if x.act.getLsbD t then lane l t else 0 := by
  have hp := element_push x (d.toNat - 104) (perThread fun t => if x.act.getLsbD t then lane l t else 0) (by simp [perThread, threads]) hn
  have hw2 : ((x.pushQueue (d.toNat - 104) (perThread fun t => if x.act.getLsbD t then lane l t else 0)).s.wg?
      (x.pushQueue (d.toNat - 104) (perThread fun t => if x.act.getLsbD t then lane l t else 0)).w.uid).isSome := by
    exact (beside_pushQueue x _ _).wgs x.w.uid hw
  have e : (x.deliver d l k).w = (x.pushQueue (d.toNat - 104) (perThread fun t => if x.act.getLsbD t then lane l t else 0)).w := by
    unfold Ctx.deliver
    simp only [hq]
    split <;> exact wake_mapS _ hw2
  simp only [e]
  refine ⟨hp.1, fun t ht => ?_⟩
  rw [hp.2 t ht, lane_perThread _ ht]

theorem queues_consume (x : Ctx) (v : View) (h : (x.s.wg? x.w.uid).isSome) :
    (x.consume v).w.queues.length = x.w.queues.length := by
  have hp : ∀ (l : List Nat) (x : Ctx), (l.foldl Ctx.popQueue x).w.queues.length = x.w.queues.length := by
    intro l
    induction l with
    | nil => exact fun _ => rfl
    | cons n l ih => exact fun x => (ih _).trans (by unfold Ctx.popQueue; simp)
  unfold Ctx.consume
  dsimp only
  split
  · exact hp _ _
  · have hb := beside_pops v.pops x
    have := wake_mapS (v.pops.foldl Ctx.popQueue x) (by
      rw [hb.uid]; exact hb.wgs _ h)
    show ((v.pops.foldl Ctx.popQueue x).mapS fun s => s.wakeYields (v.pops.foldl Ctx.popQueue x).w.uid).w.queues.length = _
    rw [this, hp]

/-- A word that ends in vecFinish, once it goes on: the statement of its result (R34, R98, R110). -/
theorem vecFinish_result {i : Instr} {s : State} {x : Ctx} (d : BitVec 7) (rec_ : Bool) (vals : List Word) (fl : Flags)
    (body : Ctx → Res) (hr : Runs i s x) (hd : Dst i d)
    (he : ∀ k, body (x.timed k) = vecFinish (view i) d rec_ vals fl (x.timed k)) :
    ∃ t c, runWord i body s = .next t ∧ Counted x t c ∧ Lands x t c d (fun th => lane vals th) ∧
      c.fmode = x.c.fmode ||| (if idle (view i) x then 0 else fl.word) ∧ c.lfsr = x.c.lfsr ∧
      SameRegs x.c c (destRegs d 1) ∧ SameScalars x.c c ∧ SameMboxes i x.c c ∧ Kept i x c ∧ SameUnlessQueues i x s t := by
  obtain ⟨hc, hw, hs, hn, _, _⟩ := ctx_crew hr.goes.ctx
  obtain ⟨k, hk⟩ : ∃ k, x.readStatus i = x.timed k := readStatus_eq x i
  rw [hr.goes.run, hk, he]
  have hroom := hr.roomy
  unfold Roomy at hroom
  by_cases hi : idle (view i) x = true
  · have hi' : idle (view i) (x.timed k) = true := hi
    unfold vecFinish
    simp only [hi', if_true]
    obtain ⟨t, c, m, e, et, eg, h1, h2, h3, h4⟩ := finish_crew s x (x.timed k) i hc
      (beside_crew x _) hs hn rfl ⟨rfl, rfl⟩ ⟨rfl, rfl, rfl⟩ hr.calm.halting hr.calm.steps hr.calm.replays
      (by intro _; show x.c.wakeUsed ≤ x.c.ring; omega)
    have ha : x.act = 0 := by
      unfold idle inert at hi
      simp only [Bool.and_eq_true, beq_iff_eq] at hi
      exact hi.2.2
    refine ⟨t, c, by rw [← e], h1, ?_, ?_, ?_, ?_, ?_, ?_, h2, ?_⟩
    · unfold Lands
      have hv : ∀ n, c.vreg n = x.c.vreg n := fun n => vreg_congr h4.v h4.o n
      have hl : lowest (0 : Mask) = none := by decide
      cases vecKind d <;> dsimp only
      case m => intro th h; rw [ha, hl] at h; cases h
      case l => exact fun h => absurd ha h
      all_goals simp [ha, hv]
    · rw [h4.modes.1, if_pos hi]; simp [Ctx.timed]
    · exact h4.modes.2
    · intro n _; exact vreg_congr h4.v h4.o n
    · exact h4.scalars
    · intro n _; exact mbox_congr h4.m n
    · intro _ _
      subst et
      refine ⟨fun a => ?_, fun r hr' => ?_, fun u => ?_, ?_⟩
      · show memByte ((x.timed k).sync.repairRing x.c m).mem a = _
        rw [repairRing_mem, ← hs]; rfl
      · rw [← h3] at hr'
        rw [crew?_setCrew_ne _ c hr', repairRing_crew?, ← hs]; rfl
      · show ((x.timed k).sync.repairRing x.c m).wg? u = _
        rw [repairRing_wg?, ← hs]; rw [← hs] at hw
        exact wg?_setWg_self hw u
      · rw [eg, ← hs]
        exact repaired_rest (s := x.s) (t := (x.timed k).sync) rfl x.c m
  · have hi' : idle (view i) (x.timed k) = false := by
      have : idle (view i) (x.timed k) = idle (view i) x := rfl
      rw [this]; simpa using hi
    unfold vecFinish
    simp only [hi', Bool.false_eq_true, if_false]

    -- the word's own effect
    obtain ⟨wk, wp, hz, hwk⟩ : ∃ wk wp, (if rec_ then (x.timed k).record d 1 else x.timed k) =
        { x.timed k with c := { (x.timed k).c with wake := wk, wakep := wp } } ∧
        (wk.map WakeRec.size).sum ≤ x.c.wakeUsed + 144 := by
      cases rec_ with
      | true => exact record_one (x.timed k) d
      | false => exact ⟨x.c.wake, x.c.wakep, rfl, Nat.le_add_right _ _⟩
    rw [hz]
    generalize hzz : ({ x.timed k with c := { (x.timed k).c with wake := wk, wakep := wp } } : Ctx) = z
    have zc : z.c = { x.c with clock := k, wake := wk, wakep := wp } := by rw [← hzz]; rfl
    have zb : Beside x z := by rw [← hzz]; exact beside_crew x _
    have zs : z.s = x.s := by rw [← hzz]; rfl
    have zw : z.w = x.w := by rw [← hzz]; rfl
    have zact : z.act = x.act := by unfold Ctx.act Crew.active Crew.guardMask Crew.pred; rw [zc]
    have t1 := tame_consume z (view i)
    have t2 := tame_deliver (z.consume (view i)) d vals (view i).shifts
    have t := t1.trans t2
    have cact : (z.consume (view i)).act = x.act := t1.active.trans zact
    obtain ⟨c1, c2, c3, c4, c5⟩ := consume_regs z (view i)
    obtain ⟨t', c, m, e, et, eg, h1, h2, h3, h4⟩ := finish_crew s x
      { (z.consume (view i)).deliver d vals (view i).shifts with
        c := ((z.consume (view i)).deliver d vals (view i).shifts).c.raise fl } i hc
      ((zb.trans (beside_consume z _)).trans ((beside_deliver _ _ _ _).trans (beside_crew _ _))) hs hn
      (by have := t.rest; rw [zc] at this; exact this) ⟨by have := t.ic; rw [zc] at this; exact this, by have := t.pc; rw [zc] at this; exact this⟩
      (by have := t.commit; rw [zc] at this; exact this) hr.calm.halting hr.calm.steps hr.calm.replays
      (by
        intro _
        have w1 : ((z.consume (view i)).deliver d vals (view i).shifts).c.wake = wk := by
          have := t.wake; rw [zc] at this; exact this
        have w2 : ((z.consume (view i)).deliver d vals (view i).shifts).c.shareSize = x.c.shareSize := by
          have := congrArg Crew.shareSize t.rest; rw [zc] at this; exact this
        show (((z.consume (view i)).deliver d vals (view i).shifts).c.wake.map WakeRec.size).sum ≤ ((z.consume (view i)).deliver d vals (view i).shifts).c.shareSize - 64
        rw [w1, w2]
        show _ ≤ x.c.ring
        omega)
    have hsh := hr.shaped
    unfold Crew.shaped at hsh
    simp only [Bool.and_eq_true, beq_iff_eq] at hsh
    have hv : ∀ n, c.vreg n = ((z.consume (view i)).deliver d vals (view i).shifts).c.vreg n := fun n => vreg_congr h4.v h4.o n
    have hz0 : ∀ n, z.c.vreg n = x.c.vreg n := fun n => vreg_congr (by rw [zc]) (by rw [zc]) n
    have hz1 : ∀ n, (z.consume (view i)).c.vreg n = x.c.vreg n := fun n => (vreg_congr c1 c2 n).trans (hz0 n)
    obtain ⟨d1, d2⟩ := deliver_others (z.consume (view i)) d vals (view i).shifts
    have hland := deliver_lands (z.consume (view i)) d vals (view i).shifts
      (fun h => by rw [c1, zc]; exact legal_regs hr.goes.legal _ (hd.reg h))
      (by rw [c2, zc]; exact hsh.1.1.1.1.1) (by rw [c4, zc]; exact hsh.1.1.1.2)
    rw [cact] at hland
    refine ⟨t', c, by rw [← e], h1, ?_, ?_, ?_, ?_, ?_, ?_, h2, ?_⟩
    · unfold Lands
      cases hk : vecKind d <;> dsimp only
      case v => intro th hth; rw [hv, hland.1 (.inl hk) th hth, hz1]
      case o => intro th hth; rw [hv, hland.1 (.inr hk) th hth, hz1]
      case m => intro th hth; rw [mbox_congr h4.m]; exact hland.2 hk th hth
      case l =>
        intro _
        have hsf := hd.latch hk
        have hcl : c.latch 0 = ((z.consume (view i)).deliver d vals true).c.latch 0 := by
          unfold Crew.latch; rw [h4.l, ← hsf]; rfl
        have hzl : (z.consume (view i)).c.latch 0 = x.c.latch 0 := by unfold Crew.latch; rw [c3, zc]
        obtain ⟨l1, l2⟩ := deliver_latch (z.consume (view i)) d vals hk
        rw [hcl]
        refine ⟨l1, fun th hth => ?_⟩
        rw [l2 th hth, cact, hzl]
      case q =>
        intro hact
        have hni : inert x.c (view i) = false := by
          unfold inert; rw [hd.vec]
          have : (x.c.active == 0) = false := beq_eq_false_iff_ne.mpr hact
          rw [this]; rfl
        have hval : (x.w.queue (d.toNat - 104)).valid = true := by
          rcases hr.goes.queues with hq | hq | ⟨hq, _⟩
          · rw [hni] at hq; cases hq
          · rw [hd.led] at hq; cases hq
          · exact hq _ (List.mem_append_left _ (hd.push hk))
        have hlen : d.toNat - 104 < x.w.queues.length := by
          by_contra hcon
          unfold Wg.queue at hval
          rw [List.getD_eq_default _ _ (by omega)] at hval
          cases hval
        have hpres : (x.s.wg? x.w.uid).isSome := by rw [hs, hw]; rfl
        have hb := zb.trans (beside_consume z (view i))
        have hp2 : ((z.consume (view i)).s.wg? (z.consume (view i)).w.uid).isSome := by
          rw [hb.uid]; exact hb.wgs _ hpres
        have hlen2 : d.toNat - 104 < (z.consume (view i)).w.queues.length := by
          rw [queues_consume z (view i) (by rw [zs, zw]; exact hpres), zw]; exact hlen
        have hq := deliver_queue (z.consume (view i)) d vals (view i).shifts hk hlen2 hp2
        rw [cact] at hq
        refine ⟨_, ?_, hq.1, hq.2⟩
        subst et
        have hb2 := hb.trans (beside_deliver (z.consume (view i)) d vals (view i).shifts)
        show (State.repairRing _ x.c m).wg? x.w.uid = _
        rw [repairRing_wg?, ← hb2.uid]
        exact wg?_setWg (s := ((z.consume (view i)).deliver d vals (view i).shifts).s)
          (w := ((z.consume (view i)).deliver d vals (view i).shifts).w) (by rw [hb2.uid]; exact hb2.wgs _ hpres)
    · rw [h4.modes.1]
      show ((z.consume (view i)).deliver d vals (view i).shifts).c.fmode ||| fl.word = _
      rw [t.modes.1, zc, if_neg hi]
    · rw [h4.modes.2]
      show ((z.consume (view i)).deliver d vals (view i).shifts).c.lfsr = _
      rw [t.modes.2, zc]
    · intro n hn; rw [hv, d1 n hn, hz1]
    · obtain ⟨a1, a2, a3⟩ := t.scalars
      obtain ⟨b1, b2, b3⟩ := h4.scalars
      refine ⟨b1.trans ?_, b2.trans ?_, b3.trans ?_⟩
      · rw [zc] at a1; exact a1
      · rw [zc] at a2; exact a2
      · rw [zc] at a3; exact a3
    · intro n hn
      simp only [List.mem_append, not_or] at hn
      rw [mbox_congr h4.m]
      refine (d2 n ?_).trans ((c5 n hn.1).trans (by unfold Crew.mbox; rw [zc]))
      rintro ⟨hm, rfl⟩
      exact hn.2 (hd.mbox hm)
    · intro hp1 hp2
      have hnq : vecKind d ≠ .q := by
        intro hq
        have := hd.push hq
        rw [hp2] at this; cases this
      obtain ⟨o1, o2⟩ := consume_deliver_outside z (view i) d vals (view i).shifts hp1 hnq
      subst et
      refine ⟨fun a => ?_, fun r hr' => ?_, fun u => ?_, ?_⟩
      · show memByte (State.repairRing _ x.c m).mem a = _
        rw [repairRing_mem]
        show memByte ((z.consume (view i)).deliver d vals (view i).shifts).s.mem a = _
        rw [o1, zs, hs]
      · rw [← h3] at hr'
        rw [crew?_setCrew_ne _ c hr', repairRing_crew?]
        show ((z.consume (view i)).deliver d vals (view i).shifts).s.crew? r = _
        rw [o1, zs, hs]
      · show (State.repairRing _ x.c m).wg? u = _
        rw [repairRing_wg?]
        show (((z.consume (view i)).deliver d vals (view i).shifts).s.setWg ((z.consume (view i)).deliver d vals (view i).shifts).w).wg? u = _
        rw [o1, o2, zs, zw, hs]
        exact wg?_setWg_self hw u
      · rw [eg]
        refine repaired_rest ?_ x.c m
        show ({ ((z.consume (view i)).deliver d vals (view i).shifts).s with crews := [], wgs := [] } : State) = _
        rw [o1, zs, hs]

end Sys2Proof.Machine
end

