-- ==== Sys2Proof/Tests/Slice0.lean ====
section
/-! SUPPORT. Tests of single words and steps: for each statement a state and operands that meet all its premises, decoding of
words put together from the spec's encodings, ill-formed terms that WellFormed refuses, and a few results worked out by
hand. -/

namespace Sys2Proof.Tests

set_option Elab.async false

open Machine Claims

/-- A LOOP with its chain bit set is no well-formed word (R50). -/
theorem test_chain_refused : wellFormed (.loop ⟨4, 0, true⟩) = false := by decide

/-! The machine the tests run on, and the premises of statements as one Bool -/

/-- The bytes of some words. -/
def code (words : List Word) : List Byte := words.flatMap bytesOfWord

/-- Four levels of tables that map the first 2 MiB onto themselves, readable, writable and executable (R310, R311). -/
def tables : List Host.Cell :=
  [(0x300000000, 0x01), (0x300000003, 0x2F), (0x300000006, 0x03), (0x300002000, 0x01), (0x300002003, 0x4F),
    (0x300002006, 0x03), (0x300004000, 0x01), (0x300004003, 0x6F), (0x300004006, 0x03), (0x300006000, 0x01),
    (0x300006001, 0x38), (0x300006003, 0x03)]

/-- The test machine: one crew of a system region at the first packet of its code, which holds the given words. -/
@[irreducible] def machine (words : List Word) : State :=
  { State.reset with
    mem := tables, regions := [loadRegion], nodes := [loadNode 1 (runCells loadAddr (code words))]
    wgs := [newWg (loadNode 1 []) 2 0 0 none false], crews := [newCrew (loadNode 1 []) 2 0 0 ⟨0, 0, 0⟩]
    cur := some ⟨2, 0⟩, nextId := 3 }

/-- A machine with its crew and its workgroup changed. -/
def tune (s : State) (f : Crew → Crew) (g : Wg → Wg) : State :=
  { s with crews := s.crews.map f, wgs := s.wgs.map g }

/-- The test machine with no code. -/
@[irreducible] def m0 : State := machine []

/-- A crew with one value in every thread of a register. -/
def put (n : Nat) (w : Word) (c : Crew) : Crew := { c with v := c.v.set n ⟨List.replicate 32 w, .U⟩ }

/-- A crew with the thread number times a factor in a register. -/
def ramp (n : Nat) (k : Word) (c : Crew) : Crew :=
  { c with v := c.v.set n ⟨threads.map fun th => k * BitVec.ofNat 32 th, .A⟩ }

/-- A crew with no active thread. -/
def idle (c : Crew) : Crew := { c with mask := 0 }

/-- A machine with its crew changed. -/
def crewed (s : State) (f : Crew → Crew) : State := tune s f id

/-- The context of the crew whose word runs; any context where none stands. -/
def cx (s : State) : Ctx :=
  s.ctx.getD ⟨s, newCrew (loadNode 0 []) 0 0 0 ⟨0, 0, 0⟩, newWg (loadNode 0 []) 0 0 0 none false, 0, false⟩

/-- The conditions of `Goes` but the context. -/
def goesB (i : Instr) (x : Ctx) : Bool :=
  x.c.expired.isNone && !(abandonsSampling i && (x.w.isShadow || x.w.sampled)) && (firstFault i x.c x.w).isNone &&
  (!isPrivileged i || x.s.systemWg x.w) && x.c.runon.isNone &&
  (view i).vecRegs.all (fun n => !x.c.pendingRegs.contains n) &&
  x.c.replays.all (fun r => !(r.lost && r.home == x.c.ic)) && (x.c.failing (readRegs i)).isEmpty &&
  (lostLatch i x.c).isNone &&
  (inert x.c (view i) || (leaderless i x.c ||
    (((view i).pushes ++ (view i).pops).all (fun n => (x.w.queue n).valid) && (!mailboxStalls x.c (view i) &&
      (((view i).pushes.isEmpty && (view i).pops.isEmpty) ||
        ((x.c.granted.isSome || grantable x.s x.w x.c.ref x.s.nextId (view i).pops (view i).pushes) &&
          ((x.ringFault (view i)).isNone && !x.ringWatched (view i))))))))

/-- The conditions of `Runs` but the context. -/
def runsB (i : Instr) (x : Ctx) : Bool :=
  goesB i x && x.c.halting == .none && x.c.steps.isNone && x.c.replays.isEmpty &&
    decide (x.c.wakeUsed + 2048 ≤ x.c.ring) && x.c.shaped

/-- `Goes` for the crew whose word runs, as a Bool. -/
def goes (i : Instr) (s : State) : Bool :=
  match s.ctx with
  | some x => goesB i x && x.s.systemWg x.w == s.systemWg x.w
  | none => false

/-- `Runs` for the crew whose word runs, as a Bool. -/
def runs (i : Instr) (s : State) : Bool :=
  match s.ctx with
  | some x => runsB i x && x.s.systemWg x.w == s.systemWg x.w
  | none => false

theorem goes_of {i : Instr} {s : State} (h : goes i s = true) : Goes i s (cx s) := by
  cases hc : s.ctx with
  | none => simp [goes, hc] at h
  | some x =>
    simp only [goes, hc, goesB, Bool.and_eq_true, Bool.not_eq_true', Bool.or_eq_true, Option.isNone_iff_eq_none,
      List.all_eq_true, beq_iff_eq, List.isEmpty_iff] at h
    obtain ⟨⟨⟨⟨⟨⟨⟨⟨⟨⟨h1, h2⟩, h3⟩, h4⟩, h5⟩, h6⟩, h7⟩, h8⟩, h9⟩, h10⟩, h11⟩ := h
    have e : cx s = x := by simp [cx, hc]
    rw [e]
    refine ⟨hc, h1, h2, h3, fun p => ?_, h5, fun n hn => ?_, fun r hr => ?_, h8, h9, ?_⟩
    · rw [← h11]; exact (h4.resolve_left (by simp [p]))
    · simpa using h6 n hn
    · rintro ⟨a, b⟩
      simpa [a, b] using h7 r hr
    · rcases h10 with h | h | ⟨a, b, c | ⟨c, d⟩⟩
      · exact .inl h
      · exact .inr (.inl h)
      · exact .inr (.inr ⟨a, b, .inl c⟩)
      · exact .inr (.inr ⟨a, b, .inr ⟨c, d⟩⟩)

theorem runs_of {i : Instr} {s : State} (h : runs i s = true) : Runs i s (cx s) := by
  have g : Goes i s (cx s) := goes_of (by
    cases hc : s.ctx with
    | none => simp [runs, hc] at h
    | some x => simp_all [runs, goes, runsB])
  cases hc : s.ctx with
  | none => simp [runs, hc] at h
  | some x =>
    have e : cx s = x := by simp [cx, hc]
    rw [e] at g ⊢
    simp only [runs, hc, runsB, Bool.and_eq_true, beq_iff_eq, Option.isNone_iff_eq_none, List.isEmpty_iff,
      decide_eq_true_eq] at h
    obtain ⟨⟨⟨⟨⟨⟨_, h1⟩, h2⟩, h3⟩, h4⟩, h5⟩, _⟩ := h
    exact ⟨g, ⟨h1, h2, h3⟩, h4, h5⟩

theorem ctx_of {s : State} (h : s.ctx.isSome = true) : s.ctx = some (cx s) := by
  cases hc : s.ctx with
  | none => simp [hc] at h
  | some x => simp [cx, hc]

theorem runs_all {ι : Type} {l : List ι} {g : ι → Instr} {s : State} (h : (l.all fun e => runs (g e) s) = true) :
    ∀ e ∈ l, Runs (g e) s (cx s) := fun e he => runs_of (List.all_eq_true.mp h e he)

theorem goes_all {ι : Type} {l : List ι} {g : ι → Instr} {s : State} (h : (l.all fun e => goes (g e) s) = true) :
    ∀ e ∈ l, Goes (g e) s (cx s) := fun e he => goes_of (List.all_eq_true.mp h e he)

/-- The accesses of a check that passes. -/
def accsOf (r : Except Flt (State × List Acs)) : List Acs :=
  match r with
  | .ok p => p.2
  | .error _ => []

/-- `Passes` as a Bool. -/
def passes (i : Instr) (x : Ctx) (scr : Bool) (way : Way) (cls : Nat) (align old : Bool) (n : Nat) (l : List AReq) : Bool :=
  match (x.readStatus i).check scr way cls align old n l with
  | .ok p => !watchHit p.1 x.w scr way p.2
  | .error _ => false

theorem passes_of {i : Instr} {x : Ctx} {scr : Bool} {way : Way} {cls : Nat} {align old : Bool} {n : Nat} {l : List AReq}
    (h : passes i x scr way cls align old n l = true) :
    Passes i x scr way cls align old n l (accsOf ((x.readStatus i).check scr way cls align old n l)) := by
  unfold passes at h
  unfold Passes
  cases hk : (x.readStatus i).check scr way cls align old n l with
  | error e => simp [hk] at h
  | ok p => exact ⟨p.1, rfl, by simpa [hk, accsOf] using h⟩

theorem passes_all {ι : Type} {l : List ι} {g : ι → Instr} {x : Ctx} {scr : Bool} {way : Way} {cls : Nat} {align old : Bool}
    {n : ι → Nat} {r : ι → List AReq} (h : (l.all fun e => passes (g e) x scr way cls align old (n e) (r e)) = true) :
    ∀ e ∈ l, Passes (g e) x scr way cls align old (n e) (r e)
      (accsOf (((x.readStatus (g e)).check scr way cls align old (n e) (r e)))) :=
  fun e he => passes_of (List.all_eq_true.mp h e he)

/-- Whether a target's word is fetched, and whether it is ARRIVE. -/
def arrives (x : Ctx) (target : DWord) : Option Bool :=
  let d := ((x.c.pc.toNat : Int) - target.toNat) / 4
  if d < 2 ^ 31 ∧ -(2 ^ 31 : Int) < d then
    match (x.s.fetchWord x.w target).2 with
    | .ok w => some (match decodeWord w with | .ok (.arrive _) => true | _ => false)
    | .error _ => none
  else none

theorem arrives_of {x : Ctx} {a : DWord} (h : arrives x a = some true) : Arrives x a := by
  simp only [arrives] at h
  split at h
  · rename_i hd
    refine ⟨hd.1, hd.2, ?_⟩
    cases hw : (x.s.fetchWord x.w a).2 with
    | error e => simp [hw] at h
    | ok w =>
      simp only [hw, Option.some.injEq] at h
      split at h
      · rename_i f hf
        exact ⟨(x.s.fetchWord x.w a).1, w, f, Prod.ext rfl hw, hf⟩
      · simp at h
  · simp at h

theorem unmarked_of {x : Ctx} {a : DWord} (h : arrives x a = some false) :
    Unmarked x a (x.s.fetchWord x.w a).1 := by
  simp only [arrives] at h
  split at h
  · rename_i hd
    refine ⟨hd.1, hd.2, ?_⟩
    cases hw : (x.s.fetchWord x.w a).2 with
    | error e => simp [hw] at h
    | ok w =>
      simp only [hw, Option.some.injEq] at h
      refine ⟨w, Prod.ext rfl hw, fun f hf => ?_⟩
      simp [hf] at h
  · simp at h

/-! Witnesses: integer words, predicates, latches -/

/-- Format G fields on vector registers v4, v6, v8: assign form. -/
def gv : GFields := ⟨4, 6, 8, false, false, false⟩
/-- The update form. -/
def gu : GFields := ⟨4, 6, 127, false, false, false⟩
/-- The scalar side. -/
def gs : GFields := ⟨4, 6, 8, true, false, false⟩
/-- The update form of the scalar side. -/
def gsu : GFields := ⟨4, 6, 127, true, false, false⟩
/-- Predicates 2, 3, 1. -/
def gp : GFields := ⟨2, 3, 1, false, false, false⟩
/-- A compare into p7, which discards it. -/
def g7 : GFields := ⟨7, 6, 8, false, false, false⟩

theorem witness_integerBinary : (∀ e ∈ binary, Runs (e.1 gv) m0 (cx m0)) ∧ ∀ e ∈ binary, Runs (e.1 gu) m0 (cx m0) :=
  ⟨runs_all (by decide +kernel), runs_all (by decide +kernel)⟩

theorem witness_integerBinaryScalar :
    (∀ e ∈ binary, Runs (e.1 gs) m0 (cx m0)) ∧ ∀ e ∈ binary, Runs (e.1 gsu) m0 (cx m0) :=
  ⟨runs_all (by decide +kernel), runs_all (by decide +kernel)⟩

theorem witness_integerUnary : (∀ e ∈ unary, Runs (e.1 gu) m0 (cx m0)) ∧ ∀ e ∈ unary, Runs (e.1 gsu) m0 (cx m0) :=
  ⟨runs_all (by decide +kernel), runs_all (by decide +kernel)⟩

theorem witness_integerAccumulate :
    (∀ e ∈ accumulate, Runs (e.1 gv) m0 (cx m0)) ∧ Runs (.imad gs) m0 (cx m0) ∧ Runs (.bfi gs) m0 (cx m0) :=
  ⟨runs_all (by decide +kernel), runs_of (by decide +kernel), runs_of (by decide +kernel)⟩

theorem witness_immediates :
    (∀ e ∈ immediate, Runs (e.1 ⟨95, 31, false⟩) m0 (cx m0)) ∧
      ∀ e ∈ immediateS, Runs (e.1 ⟨31, 0x8000, false⟩) m0 (cx m0) :=
  ⟨runs_all (by decide +kernel), runs_all (by decide +kernel)⟩

theorem witness_pairSums : ∀ i ∈ [Instr.lea, .leau, .add64], Runs (i gv) m0 (cx m0) ∧ Runs (i gu) m0 (cx m0) ∧
    Runs (i gs) m0 (cx m0) ∧ Runs (i gsu) m0 (cx m0) := fun i hi =>
  ⟨runs_all (l := [Instr.lea, .leau, .add64]) (g := (· gv)) (by decide +kernel) i hi,
    runs_all (l := [Instr.lea, .leau, .add64]) (g := (· gu)) (by decide +kernel) i hi,
    runs_all (l := [Instr.lea, .leau, .add64]) (g := (· gs)) (by decide +kernel) i hi,
    runs_all (l := [Instr.lea, .leau, .add64]) (g := (· gsu)) (by decide +kernel) i hi⟩

theorem witness_swap : Runs (.swap gu) m0 (cx m0) ∧ Runs (.swap gsu) m0 (cx m0) :=
  ⟨runs_of (by decide +kernel), runs_of (by decide +kernel)⟩

theorem witness_integerCompares : (∀ e ∈ compare, Runs (e.1 gp) m0 (cx m0)) ∧ (∀ e ∈ compare, Runs (e.1 g7) m0 (cx m0)) ∧
    ∀ e ∈ compare, Runs (e.1 ⟨3, 6, 8, true, false, false⟩) m0 (cx m0) :=
  ⟨runs_all (by decide +kernel), runs_all (by decide +kernel), runs_all (by decide +kernel)⟩

theorem witness_predicateWords : (∀ e ∈ predicate, Runs (e.1 gp) m0 (cx m0)) ∧
    (∀ e ∈ predicate, Runs (e.1 ⟨2, 7, 127, false, false, false⟩) m0 (cx m0)) ∧
    (∀ e ∈ predicate, Runs (e.1 ⟨2, 3, 1, true, false, false⟩) m0 (cx m0)) ∧
    Runs (.pnot ⟨7, 3, 127, false, false, false⟩) m0 (cx m0) ∧ Runs (.pnot ⟨2, 3, 127, true, false, false⟩) m0 (cx m0) :=
  ⟨runs_all (by decide +kernel), runs_all (by decide +kernel), runs_all (by decide +kernel), runs_of (by decide +kernel), runs_of (by decide +kernel)⟩

/-- The test machine with queue q0 of two elements at the start of the scratchpad. -/
@[irreducible] def mq : State := tune m0 id fun w => { w with queues := w.queues.set 0 ⟨true, 2, 0, 0, 0, []⟩ }

/-- A crew with a register of a tag, all threads active or half of them. -/
@[irreducible] def mTag (t : Tag) (all : Bool) : State := crewed m0 fun c =>
  { c with v := c.v.set 4 ⟨List.replicate 32 7, t⟩, mask := if all then allThreads else 0xFFFF }

/-- With no active thread a word names no queue. -/
theorem witness_latchHistory_idle : (cx (crewed m0 idle)).act = 0 ∧
    (∀ e ∈ binary, (view (e.1 { gv with d := 104 })).namesQM = true) ∧
    ∀ e ∈ binary, Runs (e.1 { gv with d := 104 }) (crewed m0 idle) (cx (crewed m0 idle)) :=
  ⟨by decide +kernel, by decide +kernel, runs_all (by decide +kernel)⟩

/-! Witnesses: floating and lane words -/

/-- Format F fields, rounding to nearest: assign form. -/
def fv : FFields := ⟨1, 4, 6, 8, false, false⟩
/-- The update form, stochastic rounding. -/
def fu : FFields := ⟨6, 4, 6, 127, false, false⟩

theorem witness_floatArithmetic :
    (∀ e ∈ floatBinary, Runs (e.1 fv) m0 (cx m0)) ∧ ∀ e ∈ floatBinary, Runs (e.1 fu) m0 (cx m0) :=
  ⟨runs_all (by decide +kernel), runs_all (by decide +kernel)⟩

theorem witness_fusedMultiplyAdd : ∀ e ∈ floatFused, Runs (e.1 fv) m0 (cx m0) := runs_all (by decide +kernel)

theorem witness_floatCompares : ∀ e ∈ floatCompare, Runs (e.1 gp) m0 (cx m0) := runs_all (by decide +kernel)

theorem witness_floatSelect : ∀ e ∈ [Instr.fmin gv, .fmin gu, .fmax gv, .fmax gu, .fabs gu, .fneg gu], Runs e m0 (cx m0) :=
  runs_all (g := id) (by decide +kernel)

theorem witness_transcendentals : ∀ e ∈ transcendental, Runs (e.1 gu) m0 (cx m0) := runs_all (by decide +kernel)

/-- The largest finite binary8 number and the largest exact integer meet the premises of the rounding statements. -/
theorem witness_rounding : (0x7E < 2 ^ e4m3.bits ∧ (e4m3.value 0x7E).isNan = false) ∧
    (fp32.value (roundTo fp32 (.fin false 3 (-1)) { mode := .rp }).1 = .fin false 0xC00000 (-23)) ∧
    (0xFF000000 : Word).toInt.natAbs ≤ 2 ^ 24 := by decide +kernel

theorem witness_conversionsAndDots : Runs (.cvt ⟨1, 4, 6, 0x16, false, false⟩) m0 (cx m0) ∧ Runs (.dot4f gv) m0 (cx m0) :=
  ⟨runs_of (by decide +kernel), runs_of (by decide +kernel)⟩

/-- The test machine with the control word of binary16, element 0, in v6 and v8; its other boundary is element 7 of INT4. -/
@[irreducible] def mCtl : State := crewed m0 (put 6 1 ∘ put 8 1)

theorem witness_packedConversions : packOk false 1 = true ∧ packOk true 1 = true ∧ packOk true 0x7C = true ∧
    lane ((cx mCtl).srcB 6 8) 31 = 1 ∧ lane ((cx mCtl).srcA 6) 31 = 1 ∧
    ∀ i ∈ [Instr.pack gv, .unpk gv, .unpk gu, .scal gv, .scal gu], Runs i mCtl (cx mCtl) :=
  ⟨by decide +kernel, by decide +kernel, by decide +kernel, by decide +kernel, by decide +kernel, runs_all (g := id) (by decide +kernel)⟩

/-- Control words that PACK and UNPK refuse: an index that Table 8 of R132 does not admit, RND of UNPK, a reserved bit. -/
theorem witness_controlWords :
    packOk false 6 = false ∧ packOk true 0x101 = false ∧ packOk false 0x801 = false ∧ packOk false 0xFFFFFFFF = false := by
  decide

/-- The test machine with all ones in v8. -/
@[irreducible] def m8 : State := crewed m0 (put 8 0xFFFFFFFF)

theorem witness_controlWordFaults : (cx m8).act.getLsbD 31 = true ∧ lane ((cx m8).srcB 6 8) 31 = 0xFFFFFFFF ∧
    ∀ i ∈ [Instr.pack gv, .unpk gv, .scal gv], Goes i m8 (cx m8) := by
  refine ⟨by decide +kernel, by decide +kernel, goes_all (g := id) (by decide +kernel)⟩

theorem witness_laneWords : (∀ e ∈ laneFold, Runs (e.1 gv) m0 (cx m0)) ∧ (∀ e ∈ laneFold, Runs (e.1 gu) m0 (cx m0)) ∧
    ∀ i ∈ [Instr.shfl gv, .shfl gu, .vote gv, .matchAny gv, .redlFadd gv, .scanlFadd gu, .rand gv], Runs i m0 (cx m0) :=
  ⟨runs_all (by decide +kernel), runs_all (by decide +kernel), runs_all (g := id) (by decide +kernel)⟩

theorem witness_specialRegisterReads : ∀ n ∈ List.range 12,
    Runs (.mfs ⟨4, if n = 6 then 6 else 127, BitVec.ofNat 5 n, false⟩) m0 (cx m0) :=
  runs_all (g := fun n => .mfs ⟨4, if n = 6 then 6 else 127, BitVec.ofNat 5 n, false⟩) (by decide +kernel)

/-- FMODE with mode 6 in v6. -/
@[irreducible] def mMode : State := crewed m0 (put 6 6)

theorem witness_modeAndSeed : lowest (cx mMode).act = some 0 ∧ lane ((cx mMode).rawSrc 6 0) 0 = 6 ∧
    Runs (.mts ⟨6, 127, 3, false⟩) mMode (cx mMode) ∧ Runs (.seed ⟨6, 127, 0, false⟩) mMode (cx mMode) ∧
    lane ((cx m0).rawSrc 6 0) 0 = 0 ∧ Goes (.mts ⟨6, 127, 3, false⟩) m0 (cx m0) :=
  ⟨by decide +kernel, by decide +kernel, runs_of (by decide +kernel), runs_of (by decide +kernel), by decide +kernel, goes_of (by decide +kernel)⟩

/-! Witnesses: what words leave for reversal, in the latches and as tags -/

/-- Every thread's register in v6 and v8 a valid control word, and a scale of its block. -/
theorem fieldsOk_mCtl : ∀ i ∈ [Instr.pack gv, .unpk gv, .scal gv, .cvt fv, .imul gv, .vote gv], FieldsOk i (cx mCtl) := by
  have h : ((List.range 32).all fun th => packOk false (lane ((cx mCtl).srcB 6 8) th) && packOk true (lane ((cx mCtl).srcB 6 8) th) &&
      decide ((lane ((cx mCtl).srcB 6 8) th).toNat < 1024)) = true := by decide +kernel
  have k (th : Nat) (hth : th < 32) := List.all_eq_true.mp h th (List.mem_range.mpr hth)
  simp only [Bool.and_eq_true, decide_eq_true_eq] at k
  simp only [List.mem_cons, List.not_mem_nil, or_false]
  rintro i (rfl | rfl | rfl | rfl | rfl | rfl)
  · exact fun th hth _ => (k th hth).1.1
  · exact fun th hth _ => (k th hth).1.2
  · exact fun th hth _ => (k th hth).2
  all_goals trivial

/-- Words of every family, with their destination fields: a register, a latch, a queue, a mailbox, zero. -/
theorem writes_mCtl (d : BitVec 7) : (∀ i ∈ [Instr.pack { gv with d := d }, .unpk { gv with d := d }, .imul { gv with d := d },
      .cvt { fv with d := d }, .movil ⟨d, 1, false⟩], Writes i d) ∧ LaneWrites (.vote { gv with d := d }) d ∧
    PairWrites (.lea { gv with d := d }) d := by
  refine ⟨?_, ⟨.vote, by simp [laneG], _, rfl, rfl⟩, ⟨.lea, by simp, _, rfl, rfl, rfl⟩⟩
  simp only [List.mem_cons, List.not_mem_nil, or_false]
  rintro i (rfl | rfl | rfl | rfl | rfl)
  · exact .inl ⟨.pack, by simp [vectorG], _, rfl, rfl, rfl⟩
  · exact .inl ⟨.unpk, by simp [vectorG], _, rfl, rfl, rfl⟩
  · exact .inl ⟨.imul, by simp [vectorG, binary], _, rfl, rfl, rfl⟩
  · exact .inr (.inl ⟨.cvt, by simp [vectorF], _, rfl, rfl⟩)
  · exact .inr (.inr ⟨(.movil, fun _ n => BitVec.ofNat 32 n.toNat), by simp [immediate], _, rfl, rfl⟩)

/-- Words that are no boundary, of both sides: recorded, of class I, Fresh, into p7. -/
theorem witness_wakeRecords : ∀ i ∈ [Instr.pack gv, .unpk gv, .imul gv, .imul { gv with f := true }, .iadd gu, .iadd { gv with d := 112 },
      .cvt fv, .movil ⟨4, 1, false⟩, .vote gv, .lea gv, .lea gu, .imul gs, .iadd gsu, .add64 gs, .saddi ⟨31, 1, false⟩,
      .icmpEq gp, .icmpEq g7, .fcmpLt gp, .pxor ⟨2, 3, 127, false, false, false⟩, .pnot ⟨2, 3, 127, true, false, false⟩,
      .mfs ⟨4, 127, 0, false⟩, .mts ⟨6, 127, 3, false⟩, .seed ⟨6, 127, 0, false⟩],
    Runs i mCtl (cx mCtl) ∧ isBoundary i = false := fun i hi =>
  ⟨runs_all (g := id) (s := mCtl) (l := [Instr.pack gv, .unpk gv, .imul gv, .imul { gv with f := true }, .iadd gu, .iadd { gv with d := 112 },
      .cvt fv, .movil ⟨4, 1, false⟩, .vote gv, .lea gv, .lea gu, .imul gs, .iadd gsu, .add64 gs, .saddi ⟨31, 1, false⟩,
      .icmpEq gp, .icmpEq g7, .fcmpLt gp, .pxor ⟨2, 3, 127, false, false, false⟩, .pnot ⟨2, 3, 127, true, false, false⟩,
      .mfs ⟨4, 127, 0, false⟩, .mts ⟨6, 127, 3, false⟩, .seed ⟨6, 127, 0, false⟩]) (by decide +kernel) i hi,
    by revert i; decide +kernel⟩

/-- The leader's value is no reserved mode. -/
theorem witness_wakeRecords_mode : lowest (cx mCtl).act = some 0 ∧ (lane ((cx mCtl).rawSrc 6 0) 0).toNat % 8 ∉ [0, 7] := by
  decide +kernel

/-- Destinations of every kind: a queue, l2, a mailbox, zero, with and without a valid l0. -/
theorem witness_latchHistory : (∀ e ∈ binary, Runs (e.1 { gv with d := 104 }) mq (cx mq)) ∧
    (∀ e ∈ binary, Runs (e.1 { gv with d := 114 }) m0 (cx m0)) ∧ (∀ e ∈ binary, Runs (e.1 { gv with d := 116 }) m0 (cx m0)) ∧
    (∀ e ∈ binary, Runs (e.1 { gv with d := 120 }) m0 (cx m0)) ∧ vecKind 114 = .l ∧ ((cx m0).c.latch 0).valid = false ∧
    Runs (.lea { gv with b := 104 }) (crewed m0 idle) (cx (crewed m0 idle)) ∧ Runs (.swap gu) m0 (cx m0) :=
  ⟨runs_all (by decide +kernel), runs_all (by decide +kernel), runs_all (by decide +kernel), runs_all (by decide +kernel),
    by decide +kernel, by decide +kernel, runs_of (by decide +kernel), runs_of (by decide +kernel)⟩

theorem witness_shapeTags (t : Tag) (all : Bool) : (∀ e ∈ binary, Runs (e.1 gv) (mTag t all) (cx (mTag t all))) ∧
    (∀ i ∈ [Instr.lea gv, .swap gu, .vote gv, .cvt fv], Runs i (mTag t all) (cx (mTag t all))) ∧
    (cx (mTag t all)).act = (if all then 0xFFFFFFFF else 0xFFFF) ∧ ((cx (mTag t all)).c.vreg 4).tag = t := by
  cases t <;> cases all <;>
    exact ⟨runs_all (by decide +kernel), runs_all (g := id) (by decide +kernel), by decide +kernel, by decide +kernel⟩

/-! Witnesses: memory words -/

/-- The test machine with addresses 16 bytes apart in v6, the first and the last thread active. -/
@[irreducible] def mAddr : State := crewed m0 (ramp 6 16 ∘ fun c => { c with mask := 0x80000001 })
/-- Format M fields: v4, address v6, offset −1 element, weak, scratchpad or global. -/
def fm (scr : Bool) : MFields := ⟨4, 6, 0, 0, if scr then 1 else 0, false⟩

theorem witness_loads (scr : Bool) : (cx mAddr).act ≠ 0 ∧ ∀ e ∈ loads, Runs (e.1 (fm scr)) mAddr (cx mAddr) ∧
    ∃ accs, Passes (e.1 (fm scr)) (cx mAddr) scr .load 0 false true e.2 (requests (cx mAddr) scr 6 0) accs ∧
      ∀ a ∈ accs, ∀ p ∈ a.pieces, p.phys.ncl1 = false := by
  have h : ∀ e ∈ loads, ∀ a ∈ accsOf (((cx mAddr).readStatus (e.1 (fm scr))).check scr .load 0 false true e.2
      (requests (cx mAddr) scr 6 0)), ∀ p ∈ a.pieces, p.phys.ncl1 = false := by cases scr <;> decide +kernel
  exact ⟨by decide +kernel, fun e he => ⟨runs_all (l := loads) (g := fun e => e.1 (fm scr)) (s := mAddr) (by cases scr <;> decide +kernel) e he, _,
    passes_all (l := loads) (g := fun e => e.1 (fm scr)) (x := cx mAddr) (n := Prod.snd) (r := fun _ => requests (cx mAddr) scr 6 0)
      (by cases scr <;> decide +kernel) e he, h e he⟩⟩

theorem witness_stores (scr : Bool) : ∀ e ∈ stores, Runs (e.1 (fm scr)) mAddr (cx mAddr) ∧
    ∃ accs, Passes (e.1 (fm scr)) (cx mAddr) scr .store 0 false true e.2 (requests (cx mAddr) scr 6 0) accs :=
  fun e he => ⟨runs_all (l := stores) (g := fun e => e.1 (fm scr)) (s := mAddr) (by cases scr <;> decide +kernel) e he, _,
    passes_all (l := stores) (g := fun e => e.1 (fm scr)) (x := cx mAddr) (n := Prod.snd) (r := fun _ => requests (cx mAddr) scr 6 0)
      (by cases scr <;> decide +kernel) e he⟩

/-- Loads into a queue and into a mailbox, and stores of zero (R64, R206). -/
@[irreducible] def mInto : State := tune mAddr id fun w => { w with queues := w.queues.set 0 ⟨true, 2, 64, 0, 0, []⟩ }

theorem witness_loadsInto : ∀ d ∈ [(104 : BitVec 7), 116], Runs (.ld32 { fm true with d := d }) mInto (cx mInto) ∧
    ∃ accs, Passes (.ld32 { fm true with d := d }) (cx mInto) true .load 0 false true 4 (requests (cx mInto) true 6 0) accs := by
  have h : ([(104 : BitVec 7), 116].all fun d => runs (.ld32 { fm true with d := d }) mInto &&
      passes (.ld32 { fm true with d := d }) (cx mInto) true .load 0 false true 4 (requests (cx mInto) true 6 0)) = true := by decide +kernel
  intro d hd
  have k := List.all_eq_true.mp h d hd
  simp only [Bool.and_eq_true] at k
  exact ⟨runs_of k.1, _, passes_of k.2⟩

theorem witness_storesOfZero : vecKind 120 = .zero ∧ ∀ e ∈ stores, Runs (e.1 { fm true with d := 120 }) mAddr (cx mAddr) ∧
    ∃ accs, Passes (e.1 { fm true with d := 120 }) (cx mAddr) true .store 0 false true e.2 (requests (cx mAddr) true 6 0) accs :=
  ⟨by decide +kernel, fun e he => ⟨runs_all (l := stores) (g := fun e => e.1 { fm true with d := 120 }) (s := mAddr) (by decide +kernel) e he, _,
    passes_all (l := stores) (g := fun e => e.1 { fm true with d := 120 }) (x := cx mAddr) (n := Prod.snd) (r := fun _ => requests (cx mAddr) true 6 0)
      (by decide +kernel) e he⟩⟩

/-- XCHG is plain or strong. -/
def fx (scr : Bool) : MFields := ⟨4, 6, 0, 1, if scr then 1 else 0, false⟩

theorem witness_exchange (scr : Bool) : (cx mAddr).w.isShadow = false ∧ Runs (.xchg (fx scr)) mAddr (cx mAddr) ∧
    ∃ accs, Passes (.xchg (fx scr)) (cx mAddr) scr .both 1 true true 4 (requests (cx mAddr) scr 6 0) accs :=
  ⟨by decide +kernel, runs_of (by cases scr <;> decide +kernel), _, passes_of (l := requests (cx mAddr) scr 6 0) (by cases scr <;> decide +kernel)⟩

/-- Fields of an atomic on v4, address v6, operand v8, width 4 bytes. -/
def fa : AFields := ⟨4, 6, 8, 0, false⟩

theorem witness_atomics : (∀ e ∈ atomicsGlobal, Runs (e.1 fa) mAddr (cx mAddr) ∧
      ∃ accs, Passes (e.1 fa) (cx mAddr) false .both 2 true true 4 (requests (cx mAddr) false 6 0) accs) ∧
    ∀ e ∈ atomicsScratch, Runs (e.1 fa) mAddr (cx mAddr) ∧
      ∃ accs, Passes (e.1 fa) (cx mAddr) true .both 2 true true 4 (requests (cx mAddr) true 6 0) accs :=
  ⟨fun e he => ⟨runs_all (l := atomicsGlobal) (g := fun e => e.1 fa) (s := mAddr) (by decide +kernel) e he, _, passes_all (l := atomicsGlobal) (g := fun e => e.1 fa) (x := cx mAddr) (n := fun _ => 4)
      (r := fun _ => requests (cx mAddr) false 6 0) (by decide +kernel) e he⟩,
    fun e he => ⟨runs_all (l := atomicsScratch) (g := fun e => e.1 fa) (s := mAddr) (by decide +kernel) e he, _, passes_all (l := atomicsScratch) (g := fun e => e.1 fa) (x := cx mAddr) (n := fun _ => 4)
      (r := fun _ => requests (cx mAddr) true 6 0) (by decide +kernel) e he⟩⟩

/-- The test machine with no active thread. -/
@[irreducible] def mIdle : State := crewed m0 idle

theorem witness_idleAccesses : (cx mIdle).act = 0 ∧ (∀ e ∈ loads, Runs (e.1 (fm true)) mIdle (cx mIdle)) ∧
    (∀ e ∈ stores, Runs (e.1 (fm false)) mIdle (cx mIdle)) ∧ Runs (.xchg (fx true)) mIdle (cx mIdle) ∧
    ∀ e ∈ atomics, Runs (e.1 fa) mIdle (cx mIdle) :=
  ⟨by decide +kernel, runs_all (by decide +kernel), runs_all (by decide +kernel), runs_of (by decide +kernel), runs_all (by decide +kernel)⟩

theorem witness_wakeOfAccesses (scr : Bool) : (cx mAddr).w.isShadow = false ∧
    ∀ i ∈ [Instr.ld128 (fm scr), .st64 (fm scr), .xchg (fx scr)], isBoundary i = false := by
  cases scr <;> decide +kernel

/-- Every access of the words at the boundaries of R203: one address in all threads, in scratchpad or global space. -/
@[irreducible] def mAt (lo hi : Word) : State := crewed m0 (put 6 lo ∘ put 7 hi ∘ fun c => { c with mask := 0x80000001 })

/-- The shapes of a word of each kind. -/
theorem accessOf_words (scr : Bool) (x : Ctx) :
    AccessOf (.ld64 (fm scr)) x ⟨scr, .load, 0, false, true, 8, requests x scr 6 0⟩ ∧
    AccessOf (.st32 (fm scr)) x ⟨scr, .store, 0, false, true, 4, requests x scr 6 0⟩ ∧
    AccessOf (.xchg (fx scr)) x ⟨scr, .both, 1, true, true, 4, requests x scr 6 0⟩ ∧
    AccessOf (.atomCas { fa with w := 1 }) x ⟨false, .both, 2, true, true, 8, requests x false 6 0⟩ := by
  refine ⟨.inl ⟨(.ld64, 8), by simp [loads], fm scr, rfl, ?_⟩, .inr (.inl ⟨(.st32, 4), by simp [stores], fm scr, ?_, rfl, ?_⟩),
    .inr (.inr (.inl ⟨fx scr, rfl, ?_⟩)), .inr (.inr (.inr ⟨(.atomCas, false, atomCas, 2), by simp [atomics, atomicsGlobal], _, rfl, rfl⟩))⟩ <;>
    cases scr <;> first | rfl | decide

/-- What each check of R203 stops: an access that ends one byte past 2^57; an address 2 of an exchange, 4 of a 64-bit atomic;
scratchpad past the allocation by one byte and below it; a page that no table maps. -/
theorem witness_accessPlaces :
    (requests (cx (mAt 0xFFFFFFF9 0x1FFFFFF)) false 6 0).map (·.addr) = [2 ^ 57 - 7, 2 ^ 57 - 7] ∧
    Goes (.ld64 (fm false)) (mAt 0xFFFFFFF9 0x1FFFFFF) (cx (mAt 0xFFFFFFF9 0x1FFFFFF)) ∧
    Goes (.xchg (fx true)) (mAt 2 0) (cx (mAt 2 0)) ∧ Goes (.atomCas { fa with w := 1 }) (mAt 4 0) (cx (mAt 4 0)) ∧
    (requests (cx (mAt 0x2FFF9 0)) true 6 0).map (·.addr + 8) = [0x30001, 0x30001] ∧ 4096 * (cx (mAt 0x2FFF9 0)).w.scrgran = 0x30000 ∧
    Goes (.ld64 (fm true)) (mAt 0x2FFF9 0) (cx (mAt 0x2FFF9 0)) ∧
    (requests (cx (mAt 4 0)) true 6 (-8)).map (·.addr) = [-4, -4] :=
  ⟨by decide +kernel, goes_of (by decide +kernel), goes_of (by decide +kernel), goes_of (by decide +kernel), by decide +kernel,
    by decide +kernel, goes_of (by decide +kernel), by decide +kernel⟩

/-- The same with its page shadowed. -/
@[irreducible] def mShad : State :=
  { mAt 64 0 with mem := tables.map fun e => if e.1 == 0x300006001 then (e.1, 0xB8) else e }

/-- A page that no table maps, its walk failing for the first thread, and an exchange on a shadowed page. -/
theorem witness_pageFaults : let s := mAt 0x40000000 0
    (Goes (.ld64 (fm false)) s (cx s) ∧ (requests (cx s) false 6 0).map (·.t) = [0, 31] ∧
      (s.xlateRun (cx s).eff.ptroot 0x40000000 8 .load).2.isOk = false) ∧
    Goes (.xchg (fx false)) mShad (cx mShad) ∧
      ((accsOf ((xlateAll (cx mShad).eff.ptroot .both 4 mShad (requests (cx mShad) false 6 0)).2.map (mShad, ·))).flatMap
        fun a => a.pieces).map (·.phys.shad) = [true, true] :=
  ⟨⟨goes_of (by decide +kernel), by decide +kernel, by decide +kernel⟩, goes_of (by decide +kernel), by decide +kernel⟩

/-- A plain write of scratchpad bytes by another crew of the workgroup, before a plain load of them; and a failing word. -/
@[irreducible] def mRaced : State := tune (mAt 64 0) id fun w =>
  { w with stags := [(64, ⟨[⟨129, 1, false, true, .crew w.region w.launch w.index w.uid 1⟩], []⟩)], scrFailing := [17] }

theorem witness_raceFaults : let s := mRaced; let x := cx s
    Goes (.ld64 { fm true with cls := 1 }) s x ∧ x.w.isShadow = false ∧
    (findRace x.w.stags (tagged true .load ((x.readStatus (.ld64 { fm true with cls := 1 })).accessAt false false)
      [⟨0, 64, 8, []⟩, ⟨31, 64, 8, []⟩])).isSome = true ∧
    Goes (.ld64 (fm true)) s x ∧ (64 + 4) / 4 ∈ x.w.scrFailing ∧ x.w.mtiles = [] :=
  ⟨goes_of (by decide +kernel), by decide +kernel, by decide +kernel, goes_of (by decide +kernel), by decide +kernel,
    by decide +kernel⟩

/-! Witnesses: control words -/

/-- A packet of zeros and, from the second packet on, ARRIVE. -/
@[irreducible] def mArr : State := crewed (machine [0, 0, 0, 0xF80FFFC0]) fun c =>
  { c with p := c.p.set 1 allThreads, sp := c.sp.set 1 true, s := (c.s.set 31 1).set 4 2 }
/-- The same with the loop register at 1. -/
@[irreducible] def mLast : State := crewed mArr fun c => { c with s := c.s.set 4 1 }
/-- A branch on p1 to the next packet, and one on its inverse. -/
def fb (inv : Bool) : BFields := ⟨inv, 1, 1, false⟩

theorem witness_branches : (∀ e ∈ branches, Runs (e.1 (fb false)) mArr (cx mArr) ∧ e.2 (cx mArr).c (fb false) = true) ∧
    Arrives (cx mArr) (branchTo (cx mArr).c 1) ∧
    (∀ e ∈ branches, Runs (e.1 (fb true)) mArr (cx mArr) ∧ e.2 (cx mArr).c (fb true) = false) ∧
    (∃ s', Unmarked (cx mArr) (branchTo (cx mArr).c 0) s') ∧ ∀ e ∈ branches, Goes (e.1 ⟨false, 1, 0, false⟩) mArr (cx mArr) :=
  ⟨fun e he => ⟨runs_all (l := branches) (g := fun e => e.1 (fb false)) (s := mArr) (by decide +kernel) e he, by revert e; decide +kernel⟩, arrives_of (by decide +kernel),
    fun e he => ⟨runs_all (l := branches) (g := fun e => e.1 (fb true)) (s := mArr) (by decide +kernel) e he, by revert e; decide +kernel⟩, ⟨_, unmarked_of (by decide +kernel)⟩,
    goes_all (by decide +kernel)⟩

theorem witness_callsAndLoops : Runs (.call (fb false)) mArr (cx mArr) ∧ Runs (.call (fb true)) mArr (cx mArr) ∧
    Runs (.ret ⟨127, 127, 0, false⟩) mArr (cx mArr) ∧
    Arrives (cx mArr) ((cx mArr).w.codeBase + BitVec.ofNat 64 (12 * ((cx mArr).c.sreg 31).toNat)) ∧
    Runs (.loop ⟨4, 1, false⟩) mArr (cx mArr) ∧ (cx mArr).c.sreg 4 - 1 ≠ 0 ∧
    Runs (.loop ⟨4, 1, false⟩) mLast (cx mLast) ∧ (cx mLast).c.sreg 4 - 1 = 0 :=
  ⟨runs_of (by decide +kernel), runs_of (by decide +kernel), runs_of (by decide +kernel), arrives_of (by decide +kernel), runs_of (by decide +kernel), by decide +kernel,
    runs_of (by decide +kernel), by decide +kernel⟩

/-- Two threads active and an entry of all threads on the mask stack. -/
@[irreducible] def mDiv : State := crewed mArr fun c => { c with mask := 3, mstack := [allThreads] }
/-- A full mask stack. -/
@[irreducible] def mFull : State := crewed mArr fun c => { c with mstack := List.replicate 16 allThreads }

theorem witness_divergence : Runs (.divr (fb false)) mArr (cx mArr) ∧
    those (fun th => (cx mArr).c.mask.getLsbD th && holds (cx mArr).c (fb false) th) ≠ 0 ∧
    Runs (.divr (fb true)) mArr (cx mArr) ∧
    those (fun th => (cx mArr).c.mask.getLsbD th && holds (cx mArr).c (fb true) th) = 0 ∧
    Goes (.divr (fb true)) mFull (cx mFull) ∧ (cx mFull).c.mstack.length = 16 ∧
    Goes (.flip (fb false)) mArr (cx mArr) ∧ (cx mArr).c.mstack = [] ∧ Runs (.flip (fb false)) mDiv (cx mDiv) ∧
    those (fun th => allThreads.getLsbD th && !(cx mDiv).c.mask.getLsbD th && holds (cx mDiv).c (fb false) th) ≠ 0 ∧
    Runs (.flip (fb true)) mDiv (cx mDiv) ∧
    those (fun th => allThreads.getLsbD th && !(cx mDiv).c.mask.getLsbD th && holds (cx mDiv).c (fb true) th) = 0 ∧
    Runs (.merge ⟨127, 127, 0, false⟩) mDiv (cx mDiv) ∧ Goes (.merge ⟨127, 127, 0, false⟩) mArr (cx mArr) :=
  ⟨runs_of (by decide +kernel), by decide +kernel, runs_of (by decide +kernel), by decide +kernel, goes_of (by decide +kernel), by decide +kernel, goes_of (by decide +kernel),
    by decide +kernel, runs_of (by decide +kernel), by decide +kernel, runs_of (by decide +kernel), by decide +kernel, runs_of (by decide +kernel), goes_of (by decide +kernel)⟩

/-- Fields of a word that names nothing. -/
def fn : SFields := ⟨127, 127, 0, false⟩

theorem witness_quietWords : ∀ i ∈ [Instr.nop fn, .fenceRel 5 fn, .fenceAcq 2 fn, .fence 0 fn, .fenceAcq 3 fn, .fence 5 fn],
    Runs i m0 (cx m0) := runs_all (g := id) (by decide +kernel)

/-- Reached by a transfer. -/
@[irreducible] def mXfer : State := crewed m0 fun c => { c with xfer := true }

theorem witness_arrive : Runs (.arrive fn) m0 (cx m0) ∧ (cx m0).c.xfer = false ∧ Runs (.arrive fn) mXfer (cx mXfer) ∧
    (cx mXfer).c.xfer = true := ⟨runs_of (by decide +kernel), by decide +kernel, runs_of (by decide +kernel), by decide +kernel⟩

/-- The debug interface attached to the region, with breakpoint 31 enabled. -/
@[irreducible] def mDbg : State := { m0 with dbg := { m0.dbg with region := some 0x600, breaks := 0x80000000 } }

theorem witness_breakpoint : Runs (.bkpt { fn with imm := 30 }) mDbg (cx mDbg) ∧
    Goes (.bkpt { fn with imm := 31 }) mDbg (cx mDbg) ∧
    (mDbg.attached (cx mDbg).w && mDbg.dbg.breaks.getLsbD 31 && !(cx mDbg).c.bkptOnce) = true :=
  ⟨runs_of (by decide +kernel), goes_of (by decide +kernel), by decide +kernel⟩

/-- Every thread but those of MASK exited, with a reply pending. -/
@[irreducible] def mExit (pend : Bool) : State := crewed m0 fun c =>
  { c with mask := 1, exited := 0xFFFFFFFE, pend := if pend then [⟨4, 1, some [], 9⟩] else [] }
/-- Half of the threads active. -/
@[irreducible] def mHalf : State := crewed m0 fun c => { c with mask := 0xFFFF }

theorem witness_exit : Runs (.exit fn) mIdle (cx mIdle) ∧ (cx mIdle).c.mask = 0 ∧ Runs (.exit fn) mHalf (cx mHalf) ∧
    (cx mHalf).c.exited ||| (cx mHalf).c.mask ≠ 0xFFFFFFFF ∧
    ∀ p, Runs (.exit fn) (mExit p) (cx (mExit p)) ∧ (cx (mExit p)).c.exited ||| (cx (mExit p)).c.mask = 0xFFFFFFFF ∧
      ((cx (mExit p)).c.pend = [] ↔ p = false) := by
  refine ⟨runs_of (by decide +kernel), by decide +kernel, runs_of (by decide +kernel), by decide +kernel, fun p => ⟨runs_of ?_, ?_, ?_⟩⟩ <;> cases p <;>
    decide +kernel

/-- A crew at count 5, commit count 2, with a count in v6. -/
@[irreducible] def mCount (n : Word) : State := crewed m0 (put 6 n ∘ fun c => { c with ic := 5, commit := 2, commitAt := 0xC0000 })

theorem witness_commit : (∀ r ∈ (cx m0).c.wake, r.ic ≠ (cx m0).c.ic - 1) ∧ Runs (.commit fn) mIdle (cx mIdle) ∧
    Runs (.commit { fn with a := 6 }) (mCount 9) (cx (mCount 9)) ∧ (cx (mCount 9)).c.commit < 5 ∧
    Runs (.commit { fn with a := 6 }) (mCount 2) (cx (mCount 2)) ∧ (cx (mCount 2)).leaderPair 6 ≤ (cx (mCount 2)).c.commit :=
  ⟨by decide +kernel, runs_of (by decide +kernel), runs_of (by decide +kernel), by decide +kernel, runs_of (by decide +kernel), by decide +kernel⟩

theorem witness_rewind : (Runs (.rewind { fn with a := 6 }) (mCount 2) (cx (mCount 2)) ∧
      (cx (mCount 2)).c.commit ≤ (cx (mCount 2)).leaderPair 6 ∧ (cx (mCount 2)).leaderPair 6 < (cx (mCount 2)).c.ic) ∧
    (Runs (.rewind { fn with a := 6 }) (mCount 5) (cx (mCount 5)) ∧ (cx (mCount 5)).leaderPair 6 = (cx (mCount 5)).c.ic) ∧
    (Goes (.rewind { fn with a := 6 }) (mCount 6) (cx (mCount 6)) ∧ (cx (mCount 6)).c.ic < (cx (mCount 6)).leaderPair 6) ∧
    Goes (.rewind { fn with a := 6 }) (mCount 1) (cx (mCount 1)) ∧ (cx (mCount 1)).leaderPair 6 < (cx (mCount 1)).c.commit :=
  ⟨⟨runs_of (by decide +kernel), by decide +kernel, by decide +kernel⟩, ⟨runs_of (by decide +kernel), by decide +kernel⟩, ⟨goes_of (by decide +kernel), by decide +kernel⟩,
    goes_of (by decide +kernel), by decide +kernel⟩

theorem witness_prefix : Goes (.pfx ⟨0x25, 0, 1, 10, 0, true⟩) m0 (cx m0) := goes_of (by decide +kernel)

theorem ok_of {ε α : Type} {e : Except ε α} (h : e.isOk = true) : ∃ r, e = .ok r := by
  cases e with
  | ok r => exact ⟨r, rfl⟩
  | error _ => cases h

/-! Witnesses: exceptions -/

/-- `Judged` as a Bool. -/
def judged (i : Instr) (s : State) : Bool :=
  s.ctx.any fun x => x.c.expired.isNone && !(abandonsSampling i && (x.w.isShadow || x.w.sampled))

theorem judged_of {i : Instr} {s : State} (h : judged i s = true) : Judged i s (cx s) := by
  unfold judged at h
  cases hc : s.ctx with
  | none => simp [hc] at h
  | some x =>
    have e : cx s = x := by simp [cx, hc]
    simp only [hc, Option.any_some, Bool.and_eq_true, Option.isNone_iff_eq_none, Bool.not_eq_true'] at h
    rw [e]
    exact ⟨hc, h.1, h.2⟩

/-- A register field that names nothing is the first fault of a word; so is a register past the blocks held. -/
theorem witness_firstFaults : view (.iadd { gv with d := 122 }) ≠ .event ∧ Judged (.iadd { gv with d := 122 }) m0 (cx m0) ∧
    firstFault (.iadd { gv with d := 122 }) (cx m0).c (cx m0).w = some { code := .illegalOperand, field := .d } :=
  ⟨by decide +kernel, judged_of (by decide +kernel), by decide +kernel⟩

/-- At a place in the packet, with a prefix pending or not. -/
@[irreducible] def mPlace (pc : DWord) (p : Option XFields) : State := crewed m0 fun c => { c with pc := pc, pfx := p }

/-- A prefix with nothing in it. -/
def fp : XFields := ⟨0, 0, 0, 7, 0, true⟩

/-- What a word breaks in its packet at a place: the field, if it decodes and is judged. -/
def breaks (w : Word) (pc : DWord) (p : Option XFields) : Option Field :=
  match decodeWord w with
  | .ok i => if judged i (mPlace pc p) then packetBreaks w i (cx (mPlace pc p)).c else none
  | .error _ => none

/-- A word off its place; a prefix, and a branch, behind a prefix; C=1 in slot 2, on a branch, and on a prefix in slot 2; a
prefix with C=0, in slots 0 and 2. -/
theorem witness_packetFaults : breaks 0xF84FFFC0 0xC0002 none = some .major ∧ breaks 0xFD2801A1 0xC0000 (some fp) = some .major ∧
    breaks 0xC8400004 0xC0000 (some fp) = some .major ∧ breaks 0x04081431 0xC0008 none = some .chain ∧
    breaks 0x04081431 0xC0004 (some fp) = some .chain ∧ breaks 0xC8400005 0xC0000 none = some .chain ∧
    breaks 0xFD2801A1 0xC0008 none = some .chain ∧ breaks 0xFD2801A0 0xC0000 none = some .major ∧
    breaks 0xFD2801A0 0xC0008 none = some .major ∧ breaks 0x04081431 0xC0004 none = none := by decide +kernel

/-- A crew with eleven blocks. -/
@[irreducible] def mEighty : State := crewed m0 fun c => { c with v := c.v.take 88 }

/-- Two-operand integer words at the boundary of each step: a Fresh word to a queue and in an update form; fields of 121,
122 and 127 as destination and source, a queue in an update form; the first register past the allocation. -/
theorem witness_operandFaults : ∀ e ∈ binary, (∀ f ∈ [{ gv with d := 104, f := true }, { gu with f := true }, { gv with d := 121 },
      { gu with d := 104 }, { gv with a := 122 }, { gv with a := 127 }, { gv with b := 122 }], Judged (e.1 f) m0 (cx m0)) ∧
    (∀ f ∈ [{ gv with d := 88 }, { gv with a := 95 }, { gv with b := 88 }], Judged (e.1 f) mEighty (cx mEighty)) ∧
    (cx m0).c.pfx = none ∧ (cx m0).c.pc.toNat % 4 = 0 ∧ (cx mEighty).c.v.length = 88 ∧ (cx mEighty).c.pfx = none := by
  have h : (binary.all fun e => ([{ gv with d := 104, f := true }, { gu with f := true }, { gv with d := 121 },
      { gu with d := 104 }, { gv with a := 122 }, { gv with a := 127 }, { gv with b := 122 }].all fun f => judged (e.1 f) m0) &&
      [{ gv with d := 88 }, { gv with a := 95 }, { gv with b := 88 }].all fun f => judged (e.1 f) mEighty) = true := by
    decide +kernel
  intro e he
  have k := List.all_eq_true.mp h e he
  simp only [Bool.and_eq_true, List.all_eq_true] at k
  exact ⟨fun f hf => judged_of (k.1 f hf), fun f hf => judged_of (k.2 f hf), by decide +kernel⟩

/-- Prefixes bad from a pattern, from modifiers, from the guard and from the reserved bits on. -/
theorem witness_prefixFaults : ∀ p ∈ [⟨96, 0, 1, 15, 1, true⟩, ⟨127, 0, 0, 7, 0, true⟩, ⟨0, 102, 1, 15, 1, true⟩, ⟨0, 0, 1, 15, 1, true⟩,
      ⟨0, 0, 0, 15, 1, true⟩, (⟨0, 0, 0, 7, 1, true⟩ : XFields)],
    (cx (mPlace 0xC0000 (some p))).c.pfx = some p ∧ (cx (mPlace 0xC0000 (some p))).c.pc = 0xC0000 ∧
      ∀ e ∈ binary, Judged (e.1 gv) (mPlace 0xC0000 (some p)) (cx (mPlace 0xC0000 (some p))) := by
  have h : ([⟨96, 0, 1, 15, 1, true⟩, ⟨127, 0, 0, 7, 0, true⟩, ⟨0, 102, 1, 15, 1, true⟩, ⟨0, 0, 1, 15, 1, true⟩,
      ⟨0, 0, 0, 15, 1, true⟩, (⟨0, 0, 0, 7, 1, true⟩ : XFields)].all fun p => (cx (mPlace 0xC0000 (some p))).c.pfx == some p &&
      (cx (mPlace 0xC0000 (some p))).c.pc == 0xC0000 && binary.all fun e => judged (e.1 gv) (mPlace 0xC0000 (some p))) = true := by
    decide +kernel
  intro p hp
  have k := List.all_eq_true.mp h p hp
  simp only [Bool.and_eq_true, beq_iff_eq, List.all_eq_true] at k
  exact ⟨k.1.1, k.1.2, fun e he => judged_of (k.2 e he)⟩

/-- A workgroup with one tile and one slot. -/
@[irreducible] def mOneTile : State := tune m0 id fun w => { w with acc := 1, wsl := 1 }

/-- The first tile and the first slot past those declared, and the last. -/
theorem witness_matrixFaults : ∀ i ∈ [Instr.mma 0 ⟨4, 127, 4, false⟩, .mma 0 ⟨4, 127, 1, false⟩, .wload 0 ⟨4, 127, 3, false⟩,
      .accrd ⟨4, 6, 28, false⟩], Judged i mOneTile (cx mOneTile) ∧ encodingFault i (cx mOneTile).c = none ∧
    (∀ n ∈ (view i).mainRegs, n < (cx mOneTile).c.v.length) ∧
    ((∃ n ∈ (matrixUses i).1, (cx mOneTile).w.acc ≤ n) ∨ ∃ n ∈ (matrixUses i).2, (cx mOneTile).w.wsl ≤ n) := fun i hi =>
  ⟨judged_of (by revert i; decide +kernel), by revert i; decide +kernel⟩

/-- A major that is not assigned: with C=0 and with C=1 in the last slot, off its place, and behind a prefix. -/
theorem witness_unassignedEncodings : (decodeWord 0x00000000).isOk = false ∧ (decodeWord 0x00000001).isOk = false ∧
    (∀ p ∈ [((0xC0000 : DWord), (none : Option XFields)), (0xC0008, none), (0xC0001, none), (0xC0000, some ⟨127, 127, 1, 15, 1, true⟩)],
      (mPlace p.1 p.2).ctx = some (cx (mPlace p.1 p.2)) ∧ (cx (mPlace p.1 p.2)).c.expired = none ∧
        (cx (mPlace p.1 p.2)).c.pc = p.1) ∧ inSlot2 (cx (mPlace 0xC0008 none)).c = true := by
  refine ⟨by decide +kernel, by decide +kernel, fun p hp => ⟨ctx_of ?_, ?_, ?_⟩, by decide +kernel⟩ <;> revert p <;> decide +kernel

/-- The privileged words. -/
def privileged : List Instr :=
  [.rft fn, .halt fn, .resume fn, .mfsr { fn with a := 4 }, .mtsr { fn with a := 4 }, .tlbiPage ⟨6, 8, 0, false⟩,
    .tlbiSize ⟨6, 8, 6, false⟩, .tlbiRegion ⟨127, 8, 0, false⟩, .tlbiAll fn]

/-- The test machine in a region that is no system region. -/
@[irreducible] def mUser : State :=
  { m0 with nodes := m0.nodes.map fun n => { n with eff := { n.eff with system := false } } }

theorem witness_privilege : mUser.ctx = some (cx mUser) ∧ mUser.systemWg (cx mUser).w = false ∧ ∀ i ∈ privileged,
    firstFault i (cx mUser).c (cx mUser).w = none ∧ (cx mUser).queuesReady i ∧ (cx mUser).c.failing (readRegs i) = [] ∧
      lostLatch i (cx mUser).c = none ∧ (cx mUser).c.runon = none ∧ (cx mUser).c.pendingRegs = [] ∧ (cx mUser).c.replays = [] :=
  ⟨ctx_of (by decide +kernel), by decide +kernel, by
    have h : privileged.all (fun i => (view i).pushes.isEmpty && (view i).pops.isEmpty && !mailboxStalls (cx mUser).c (view i)) = true := by
      decide +kernel
    intro i hi
    have k := List.all_eq_true.mp h i hi
    simp only [Bool.and_eq_true, List.isEmpty_iff, Bool.not_eq_true'] at k
    refine ⟨by revert i; decide +kernel, .inr (.inr ⟨?_, k.2, .inl ⟨k.1.1, k.1.2⟩⟩), by revert i; decide +kernel⟩
    simp [k.1.1, k.1.2]⟩

/-- The same attached to the debug interface. -/
@[irreducible] def mUserDbg : State := { mUser with dbg := { mUser.dbg with region := some 0x600 } }

/-- A privileged word that reads the empty mailbox m0, with and without a debugger. -/
theorem witness_privilege_mailbox : ∀ s ∈ [mUser, mUserDbg], s.ctx.isSome = true ∧ s.systemWg (cx s).w = false ∧ (cx s).act ≠ 0 ∧
    firstFault (.mtsr ⟨116, 127, 4, false⟩) (cx s).c (cx s).w = none ∧
    mailboxStalls (cx s).c (view (.mtsr ⟨116, 127, 4, false⟩)) = true := by decide +kernel

theorem witness_privilege_attached : mUser.attached (cx mUser).w = false ∧ mUserDbg.attached (cx mUserDbg).w = true := by
  decide +kernel

/-- A crew with a trap vector, in a trap or not. -/
@[irreducible] def mVec (t : Bool) : State := crewed m0 fun c => { c with tvec := 24, intrap := t, tpc := 0x1001 }

/-- Every premise of the three statements about faults: a crew with a vector, outside and within a trap. -/
theorem witness_exceptions (t : Bool) : let s := mVec t; let c := (cx s).c
    s.crew? c.ref = some c ∧ s.wg? c.wg = some (cx s).w ∧ (∀ k ∈ s.wgs, k.uid = c.wg → k.isShadow = false) ∧
    (∀ k ∈ s.crews, k.ref = c.ref → k.runon = none) ∧ c.runon = none ∧ c.halting = .none ∧ c.steps = none ∧
    s.systemWg (cx s).w = true ∧ c.tvec ≠ 0 ∧ c.intrap = t ∧ c.idx < 32 ∧ (s.regionOf (cx s).w).any (fun r =>
      !s.queueFull r) = true := by cases t <;> decide +kernel

theorem witness_trap : Runs (.trap { fn with imm := 31 }) (mVec false) (cx (mVec false)) ∧
    Runs (.trap fn) (mVec true) (cx (mVec true)) ∧ Runs (.trap fn) mUser (cx mUser) :=
  ⟨runs_of (by decide +kernel), runs_of (by decide +kernel), runs_of (by decide +kernel)⟩

theorem witness_returnFromTrap : Runs (.rft fn) (mVec true) (cx (mVec true)) ∧ (cx (mVec true)).c.intrap = true ∧
    Goes (.rft fn) m0 (cx m0) ∧ (cx m0).c.intrap = false ∧ (0x1001 : DWord).toNat % 4 ≠ 0 :=
  ⟨runs_of (by decide +kernel), by decide +kernel, goes_of (by decide +kernel), by decide +kernel, by decide +kernel⟩

/-! Witnesses: system words -/

/-- Two workgroups of one crew each: the second, in scheduler 1, slot 0 of core 0, in a state; the first has it as target. -/
@[irreducible] def mTwo (st : CrewSt) : State :=
  { m0 with
    wgs := m0.wgs ++ [newWg (loadNode 1 []) 3 1 0 none false]
    crews := (m0.crews.map fun c => { c with tgt := 0x10 }) ++ [{ newCrew (loadNode 1 []) 3 1 0 ⟨1, 0, 1⟩ with st := st }] }

/-- The target. -/
def other (s : State) : Crew × Wg := (s.target 0x10).getD ((cx s).c, (cx s).w)

theorem target_of {s : State} (h : ((cx s).target.isOk && (cx s).c.tgt == 0x10 && (cx s).s.target 0x10 == s.target 0x10) = true) :
    (cx s).target = .ok (other s) := by
  simp only [Bool.and_eq_true, beq_iff_eq] at h
  obtain ⟨⟨h1, h2⟩, h3⟩ := h
  unfold Ctx.target at h1 ⊢
  unfold other
  rw [h2, h3] at h1 ⊢
  generalize ht : s.target 0x10 = q at h1 ⊢
  cases q with
  | none => cases h1
  | some p =>
    simp only at h1 ⊢
    split at h1
    · rename_i hs; simp [hs]
    · cases h1

theorem witness_haltAndResume (st : CrewSt) (h : st ∈ [CrewSt.ready, .blocked, .parked, .halted, .exited]) :
    (∀ n ∈ List.range 4, Runs (.halt { fn with imm := BitVec.ofNat 5 n }) (mTwo st) (cx (mTwo st))) ∧
    Runs (.resume fn) (mTwo st) (cx (mTwo st)) ∧ (cx (mTwo st)).target = .ok (other (mTwo st)) ∧
    (other (mTwo st)).1.ref ≠ (cx (mTwo st)).c.ref ∧ (other (mTwo st)).2.uid ≠ (cx (mTwo st)).w.uid ∧
    ∀ k ∈ (mTwo st).crews, OnlyCrew (mTwo st) k := by
  refine ⟨runs_all (l := List.range 4) (g := fun n => .halt { fn with imm := BitVec.ofNat 5 n }) (s := mTwo st) ?_,
    runs_of ?_, target_of ?_, ?_, ?_, ?_⟩
  · revert st; decide +kernel
  · revert st; decide +kernel
  · revert st; decide +kernel
  · revert st; decide +kernel
  · revert st; decide +kernel
  · unfold OnlyCrew; revert st; decide +kernel

/-- The target in a region beside the crew's. -/
@[irreducible] def mBeside : State :=
  { mTwo .ready with
    wgs := (mTwo .ready).wgs.map fun w => if w.uid == 3 then { w with region := 0x800, launch := 9 } else w
    nodes := (mTwo .ready).nodes ++ [{ loadNode 9 [] with region := 0x800, chain := [(0x800, loadEff)] }]
    regions := (mTwo .ready).regions ++ [{ loadRegion with rcb := 0x800 }] }

theorem witness_targetChecks : Goes (.halt fn) (crewed m0 fun c => { c with tgt := 0x3F }) (cx (crewed m0 fun c => { c with tgt := 0x3F })) ∧
    (cx (crewed m0 fun c => { c with tgt := 0x3F })).s.target 0x3F = none ∧
    Goes (.halt fn) mBeside (cx mBeside) ∧ Goes (.resume fn) mBeside (cx mBeside) ∧
    (cx mBeside).s.target (cx mBeside).c.tgt = some (other mBeside) ∧
    (cx mBeside).s.wgUnder (other mBeside).2 (cx mBeside).w.region = false :=
  ⟨goes_of (by decide +kernel), by decide +kernel, goes_of (by decide +kernel), goes_of (by decide +kernel), by decide +kernel,
    by decide +kernel⟩

theorem witness_systemRegisterReads : (∀ n ∈ List.range 12, Runs (.mfsr ⟨4, 127, BitVec.ofNat 5 n, false⟩) (mTwo .ready) (cx (mTwo .ready))) ∧
    (cx (mTwo .ready)).target = .ok (other (mTwo .ready)) ∧ (ownRegs (cx (mTwo .ready)).c).map (·.1) = List.range 5 ∧
    (targetRegs (other (mTwo .ready)).1 (other (mTwo .ready)).2).map (·.1) = [5, 6, 7, 8, 9, 10, 11] ∧
    Runs (.mfsr ⟨4, 127, 11, false⟩) mIdle (cx mIdle) ∧ (cx mIdle).act = 0 :=
  ⟨runs_all (l := List.range 12) (g := fun n => .mfsr ⟨4, 127, BitVec.ofNat 5 n, false⟩) (s := mTwo .ready) (by decide +kernel),
    target_of (by decide +kernel), by decide +kernel, by decide +kernel, runs_of (by decide +kernel), by decide +kernel⟩

/-- A machine of two crews with a value in v6 of the first. -/
@[irreducible] def mSet (st : CrewSt) (w : Word) : State :=
  { mTwo st with crews := (mTwo st).crews.map fun c => if c.wg == 2 then put 6 w c else c }

theorem witness_systemRegisterWrites (st : CrewSt) (h : st = .halted ∨ st = .ready) :
    (∀ n ∈ [0, 1, 4, 9], Runs (.mtsr ⟨6, 127, BitVec.ofNat 5 n, false⟩) (mSet st 24) (cx (mSet st 24))) ∧
    lowest (cx (mSet st 24)).act = some 0 ∧ pairOf (lane ((cx (mSet st 24)).rawSrc 6 0) 0) (lane ((cx (mSet st 24)).rawSrc 7 0) 0) = 24 ∧
    (cx (mSet st 24)).target = .ok (other (mSet st 24)) ∧ (other (mSet st 24)).1.st = st ∧
    (∀ n ∈ [0, 4], Goes (.mtsr ⟨6, 127, BitVec.ofNat 5 n, false⟩) (mSet st 0x4000) (cx (mSet st 0x4000))) ∧
    lane ((cx (mSet st 0x4000)).rawSrc 6 0) 0 = 0x4000 ∧ 0x4000 % 12 ≠ 0 := by
  refine ⟨runs_all (l := [0, 1, 4, 9]) (g := fun n => .mtsr ⟨6, 127, BitVec.ofNat 5 n, false⟩) (s := mSet st 24) ?_, ?_, ?_,
    target_of ?_, ?_, goes_all (l := [0, 4]) (g := fun n => .mtsr ⟨6, 127, BitVec.ofNat 5 n, false⟩) (s := mSet st 0x4000) ?_,
    ?_, by decide +kernel⟩ <;> rcases h with rfl | rfl <;> decide +kernel

/-- Cached translations, and the number of the crew's region or of one beside it in v8. -/
@[irreducible] def mTlb (n : Word) : State :=
  { crewed m0 (put 8 n) with tlb := [⟨0x300000000, 0, 0x200000, 1⟩], regions := [loadRegion, { loadRegion with rcb := 0x800 }] }

/-- The three TLBI words that name a region. -/
def invWords : List Instr := [.tlbiPage ⟨6, 8, 0, false⟩, .tlbiSize ⟨6, 8, 6, false⟩, .tlbiRegion ⟨127, 8, 0, false⟩]

theorem witness_invalidation : lowest (cx (mTlb 3)).act = some 0 ∧ (mTlb 3).region? (((cx (mTlb 3)).leader 8).toNat * 512) = some loadRegion ∧
    (∀ i ∈ invWords, Runs i (mTlb 3) (cx (mTlb 3))) ∧ (mTlb 3).inSubtree loadRegion.rcb (cx (mTlb 3)).w.region = true ∧
    ((mTlb 4).region? (((cx (mTlb 4)).leader 8).toNat * 512)).isSome = true ∧ (mTlb 4).inSubtree 0x800 (cx (mTlb 4)).w.region = false ∧
    (∀ i ∈ invWords, Goes i (mTlb 4) (cx (mTlb 4))) ∧ Runs (.tlbiAll fn) (mTlb 3) (cx (mTlb 3)) :=
  ⟨by decide +kernel, by decide +kernel, runs_all (l := invWords) (g := id) (s := mTlb 3) (by decide +kernel), by decide +kernel,
    by decide +kernel, by decide +kernel, goes_all (l := invWords) (g := id) (s := mTlb 4) (by decide +kernel),
    runs_of (by decide +kernel)⟩

/-! Witnesses: waiting -/

/-- Eleven blocks held; with the budget at the blocks of the second workgroup no more can be had. -/
@[irreducible] def mEleven (two : Bool) : State :=
  let s := if two then mTwo .ready else m0
  { s with
    crews := s.crews.map fun c => if c.wg == 2 then { c with v := c.v.take 88 } else c
    nodes := s.nodes.map fun n => { n with chain := [(0x600, { loadEff with regblk := 12 })] } }

theorem witness_registerClaims : Runs (.give { fn with imm := 12 }) m0 (cx m0) ∧ (cx m0).c.v.length / 8 = 12 ∧ (cx m0).c.pend = [] ∧
    Goes (.give { fn with imm := 12 }) (mEleven false) (cx (mEleven false)) ∧ (cx (mEleven false)).c.v.length / 8 = 11 ∧
    Runs (.take { fn with imm := 1 }) (mEleven false) (cx (mEleven false)) ∧
    (mEleven false).regLimit (cx (mEleven false)).w = 12 ∧
    (mEleven false).takeRoom (cx (mEleven false)).w (cx (mEleven false)).c.ref 3 1 = true ∧
    Runs (.take { fn with imm := 1 }) (mEleven true) (cx (mEleven true)) ∧
    (mEleven true).takeRoom (cx (mEleven true)).w (cx (mEleven true)).c.ref 3 1 = false ∧
    Goes (.take { fn with imm := 1 }) m0 (cx m0) :=
  ⟨runs_of (by decide +kernel), by decide +kernel, by decide +kernel, goes_of (by decide +kernel), by decide +kernel,
    runs_of (by decide +kernel), by decide +kernel, by decide +kernel, runs_of (by decide +kernel), by decide +kernel,
    goes_of (by decide +kernel)⟩

/-- A crew that waits for something, in a machine. -/
@[irreducible] def waiting (s : State) (w : Wait) : State := crewed s fun c => { c with st := .blocked, wait := w }

/-- The crew and workgroup of the test machine's reference. -/
def own (s : State) : Crew × Wg := (s.residentCrew ⟨2, 0⟩).getD ((cx m0).c, (cx m0).w)

theorem own_of {s : State} (h : (s.residentCrew ⟨2, 0⟩).isSome = true) :
    s.residentCrew ⟨2, 0⟩ = some ((own s).1, (own s).2) := by
  unfold own
  cases hc : s.residentCrew ⟨2, 0⟩ with
  | none => simp [hc] at h
  | some p => rfl

theorem witness_takeGrant : let s := waiting (mEleven false) (.take 1); let c := (own s).1
    s.residentCrew ⟨2, 0⟩ = some (c, (own s).2) ∧ c.st = .blocked ∧ c.wait = .take 1 ∧
    s.takeRoom (own s).2 c.ref c.since 1 = true ∧ c.halting = .none ∧ c.steps = none ∧ c.replays = [] ∧ c.ref = ⟨2, 0⟩ :=
  ⟨own_of (by decide +kernel), by decide +kernel, by decide +kernel, by decide +kernel, by decide +kernel, by decide +kernel,
    by decide +kernel, by decide +kernel⟩

theorem witness_yield : Runs (.yield { fn with imm := 31 }) m0 (cx m0) ∧ let s := waiting m0 (.yield 0); let c := (own s).1
    s.residentCrew ⟨2, 0⟩ = some (c, (own s).2) ∧ c.ref = ⟨2, 0⟩ ∧ c.st = .blocked ∧ c.wait = .yield 0 ∧
    0 ≤ (s.core ((own s).2.core.getD 0)).cyc.toNat ∧ c.halting = .none ∧ c.steps = none ∧ c.replays = [] :=
  ⟨runs_of (by decide +kernel), own_of (by decide +kernel), by decide +kernel, by decide +kernel, by decide +kernel,
    by decide +kernel, by decide +kernel, by decide +kernel, by decide +kernel⟩

/-- A barrier object in phase 5 at offset 0; in v4 its offset, in v6 the active set or a phase to wait for, in v7 no byte. -/
@[irreducible] def mBar (k : Word) (norun : Bool) : State :=
  tune (machine [0xF4308180]) (put 6 k ∘ fun c => { c with norun := norun }) fun w =>
    { w with scr := memWrite [] 0 (Obj.bytes ⟨0, 0, 0, 5, 0, 0, 0, 0⟩) }

/-- The fields of the barrier words. -/
def fbar : SFields := ⟨4, 6, 0, false⟩

theorem witness_barrierArrival : let s := mBar 0xFFFFFFFF false; let x := cx s
    Runs (.barr fbar) s x ∧ x.act ≠ 0 ∧ x.w.ncrew ≤ 32 ∧ (∀ k ∈ s.crews, k.runon = none) ∧ s.dbg.region = none ∧
    (∃ r, (x.readStatus (.barr fbar)).barCheck .both 4 (2 ^ 27 ≤ (x.leader 7).toNat) = .ok r) ∧ x.act = x.leader 6 ∧
    (x.w.obj 0).arrived < x.w.ncrew ∧ (x.w.obj 0).exp + 0 < 2 ^ 27 ∧ (x.w.obj 0).land = 0 :=
  ⟨runs_of (by decide +kernel), by decide +kernel, by decide +kernel, by decide +kernel, by decide +kernel,
    ok_of (by decide +kernel), by decide +kernel, by decide +kernel, by decide +kernel, by decide +kernel⟩

/-- What the statement about waits asks of a state, but the phase. -/
def barOk (s : State) : Bool :=
  runs (.bwait fbar) s && runs (.bwaitS fbar) s && (cx s).act != 0 &&
    (((cx s).readStatus (.bwait fbar)).barCheck .load 4 (2 ^ 20 ≤ ((cx s).leader 6).toNat)).isOk

/-- The phases one before and half the range before return; the present one and one more than half before wait. -/
theorem witness_barrierWait : barOk (mBar 4 false) = true ∧ barOk (mBar 5 false) = true ∧ barOk (mBar 5 true) = true ∧
    ((cx (mBar 5 true)).w.obj 0).phase = 5 ∧ (cx (mBar 4 false)).leader 6 = 4 ∧
    [4, 0x80005].all ((cx (mBar 5 false)).w.obj 0).passed = true ∧
    [5, 0x80004].any ((cx (mBar 5 false)).w.obj 0).passed = false := by decide +kernel

theorem witness_barrierWait_runs {s : State} (h : barOk s = true) : Runs (.bwait fbar) s (cx s) ∧ Runs (.bwaitS fbar) s (cx s) ∧
    ∃ r, ((cx s).readStatus (.bwait fbar)).barCheck .load 4 (2 ^ 20 ≤ ((cx s).leader 6).toNat) = .ok r := by
  simp only [barOk, Bool.and_eq_true] at h
  exact ⟨runs_of h.1.1.1, runs_of h.1.1.2, ok_of h.2⟩

/-! Witnesses: a barrier's return, work fetch, deques, queues -/

/-- A crew BLOCKED at the BWAIT of its first packet, for a phase of an object in phase 5. -/
@[irreducible] def mBack (k : Nat) : State := waiting (mBar 4 false) (.barrier 0 k)

/-- The phases one before and half the range before, which have passed. -/
theorem witness_barrierReturn (k : Nat) (h : k = 4 ∨ k = 0x80005) : let s := mBack k; let c := (own s).1; let w := (own s).2
    s.residentCrew ⟨2, 0⟩ = some (c, w) ∧ c.ref = ⟨2, 0⟩ ∧ c.st = .blocked ∧ c.wait = .barrier 0 k ∧ c.halting = .none ∧
    c.steps = none ∧ c.replays = [] ∧ (let d := ((w.obj 0).phase + 2 ^ 20 - k % 2 ^ 20) % 2 ^ 20; 1 ≤ d ∧ d ≤ 2 ^ 19) ∧
    (s.atHand w c).any (fun p => p.i == .bwait ⟨4, 6, 0, false⟩ && !isBoundary p.i) = true ∧ s.dbg.region = none := by
  rcases h with rfl | rfl <;> exact ⟨own_of (by decide +kernel), by decide +kernel⟩

/-- The test machine in a launch of a mode, with so many workgroups. -/
@[irreducible] def mKind (mode dim : Nat) : State :=
  { m0 with nodes := m0.nodes.map fun n => { n with eff := { n.eff with mode := mode }, desc := { n.desc with dimx := dim } } }

/-- Idle in work-fetch mode. -/
@[irreducible] def mKindIdle : State := crewed (mKind 1 4) idle

theorem witness_workFetch : (cx (mKind 1 4)).act ≠ 0 ∧ Goes (.fetchw { fn with a := 4 }) m0 (cx m0) ∧ (cx m0).eff.mode ≠ 1 ∧
    Runs (.fetchw { fn with a := 4 }) (mKind 1 4) (cx (mKind 1 4)) ∧ (cx (mKind 1 4)).eff.mode = 1 ∧
    (mKind 1 4).dbg.region = none ∧
    (∃ l, ((cx (mKind 1 4)).readStatus (.fetchw { fn with a := 4 })).fetchwCheck ((cx (mKind 1 4)).leader 4).toNat = .ok l) ∧
    Runs (.fetchw { fn with a := 4 }) mKindIdle (cx mKindIdle) ∧ (cx mKindIdle).act = 0 :=
  ⟨by decide +kernel, goes_of (by decide +kernel), by decide +kernel, runs_of (by decide +kernel), by decide +kernel,
    by decide +kernel, ok_of (by decide +kernel), runs_of (by decide +kernel), by decide +kernel⟩

/-- A reply is due: an index is left of four, or none of one. -/
theorem witness_fetchReply (d : Nat) (h : d = 4 ∨ d = 1) : let s := waiting (mKind 1 d) (.fetchw 0); let c := (own s).1
    let w := (own s).2
    s.residentCrew ⟨2, 0⟩ = some (c, w) ∧ c.ref = ⟨2, 0⟩ ∧ c.st = .blocked ∧ c.wait = .fetchw 0 ∧
    (let n := (s.node? w.launch).getD (loadNode 0 []);
      s.node? w.launch = some n ∧ n.closed = false ∧ (n.next < n.desc.dimx * n.desc.dimy * n.desc.dimz ↔ d = 4)) ∧
    c.halting = .none ∧ c.steps = none ∧ c.replays = [] ∧ (c.runon = none ∧ s.dbg.region = none) ∧
    ∃ l, (⟨s, { c with st := .ready, wait := .none }, w, c.after, false⟩ : Ctx).fetchwCheck 0 = .ok l := by
  rcases h with rfl | rfl
  · exact ⟨own_of (by decide +kernel), by decide +kernel, by decide +kernel, by decide +kernel,
      ⟨by decide +kernel, by decide +kernel, by decide +kernel⟩, by decide +kernel, by decide +kernel, by decide +kernel,
      by decide +kernel, ok_of (by decide +kernel)⟩
  · exact ⟨own_of (by decide +kernel), by decide +kernel, by decide +kernel, by decide +kernel,
      ⟨by decide +kernel, by decide +kernel, by decide +kernel⟩, by decide +kernel, by decide +kernel, by decide +kernel,
      by decide +kernel, ok_of (by decide +kernel)⟩

/-- Deque mode, with one entry on cores 0 and 5 and a pair in v4 of the crew. -/
@[irreducible] def mDeq (w : Word) : State :=
  let s := crewed (mKind 2 4) (put 5 w ∘ put 4 w)
  (s.setDeque 0 ⟨1, [(7, [])]⟩).setDeque 5 ⟨1, [(9, []), (8, [])]⟩

/-- A full deque. -/
@[irreducible] def mDeqFull : State := (mKind 2 4).setDeque 0 ⟨1, List.replicate 1024 (7, [])⟩

theorem witness_deques : let x := cx (mDeq 3); x.act ≠ 0 ∧ x.eff.mode = 2 ∧ x.coreNo < (mDeq 3).cores.length ∧
    Runs (.dqpush { fn with a := 4 }) (mDeq 3) x ∧ x.leaderPair 4 ≠ BitVec.allOnes 64 ∧
    ((mDeq 3).deque x.coreNo x.w.launch).ents.length < 1024 ∧
    Goes (.dqpush { fn with a := 4 }) (mDeq 0xFFFFFFFF) (cx (mDeq 0xFFFFFFFF)) ∧
    (cx (mDeq 0xFFFFFFFF)).leaderPair 4 = BitVec.allOnes 64 ∧ Goes (.dqpush { fn with a := 4 }) mDeqFull (cx mDeqFull) ∧
    1024 ≤ (mDeqFull.deque (cx mDeqFull).coreNo (cx mDeqFull).w.launch).ents.length ∧
    Runs (.dqpop { fn with a := 4 }) (mDeq 3) x ∧ Runs (.dqsteal { fn with a := 4 }) (mDeq 3) x ∧
    ((mDeq 3).deque 5 x.w.launch).ents ≠ [] ∧ Runs (.dqsteal { fn with a := 4 }) mDeqFull (cx mDeqFull) ∧
    ∀ k < mDeqFull.cores.length, k ≠ (cx mDeqFull).coreNo → (mDeqFull.deque k (cx mDeqFull).w.launch).ents = [] :=
  ⟨by decide +kernel, by decide +kernel, by decide +kernel, runs_of (by decide +kernel), by decide +kernel, by decide +kernel,
    goes_of (by decide +kernel), by decide +kernel, goes_of (by decide +kernel), by decide +kernel, runs_of (by decide +kernel),
    runs_of (by decide +kernel), by decide +kernel, runs_of (by decide +kernel), by decide +kernel⟩

theorem unused_of {s : State} {u n : Nat} 
    (h : (s.copies.isEmpty && s.crews.all fun c => c.wait == .none && c.granted.isNone) = true) :
    ¬ QueueInUse s u n := by
  simp only [Bool.and_eq_true, List.isEmpty_iff, List.all_eq_true, beq_iff_eq, Option.isNone_iff_eq_none] at h
  rintro (⟨k, hk, _⟩ | ⟨c, hc, _, a, b, e | e, _⟩)
  · rw [h.1] at hk; cases hk
  · rw [(h.2 c hc).1] at e; cases e
  · rw [(h.2 c hc).2] at e; cases e

/-- A mapping word in v4; queue 3 holds one element. -/
@[irreducible] def mMap (w : Word) : State :=
  let s := crewed (mTwo .ready) (put 4 w)
  { s with wgs := s.wgs.map fun g => { g with queues := g.queues.set 3 ⟨true, 4, 0, 0, 1, [[]]⟩ } }

/-- The crew's own workgroup has a second crew that waits on queue 5. -/
@[irreducible] def mMapBusy : State :=
  { mMap 0 with crews := (mMap 0).crews ++
      [{ newCrew (loadNode 1 []) 2 0 1 ⟨2, 0, 2⟩ with st := .blocked, wait := .queue [5] [] }] }

/-- A running-on crew. -/
@[irreducible] def mOn : State := crewed m0 fun c => { c with runon := some ⟨0, 4, 0, [], [], []⟩ }

theorem witness_queueMapping : let s := mMap 0x80040100; let x := cx s
    x.act ≠ 0 ∧ 5 < x.w.queues.length ∧ Runs (.qmap ⟨4, 127, 5, false⟩) s x ∧ lane ((cx s).c.vreg 4).vals 0 = x.leader 4 ∧
    ¬ MappingBreaks (x.leader 4) (4096 * x.w.scrgran) (x.w.queues.eraseIdx 5) ∧ ¬ QueueInUse s x.w.uid 5 ∧
    (x.w.queue 5).count = 0 ∧ Goes (.qmap ⟨4, 127, 3, false⟩) s x ∧
    ¬ MappingBreaks (x.leader 4) (4096 * x.w.scrgran) (x.w.queues.eraseIdx 3) ∧ (x.w.queue 3).count ≠ 0 ∧
    Goes (.qmap ⟨4, 127, 5, false⟩) (mMap 0x80000000) (cx (mMap 0x80000000)) ∧
    MappingBreaks ((cx (mMap 0x80000000)).leader 4) (4096 * x.w.scrgran) (x.w.queues.eraseIdx 5) ∧
    Runs (.qreset { fn with imm := 3 }) s x ∧ ¬ QueueInUse s x.w.uid 3 ∧
    Goes (.qreset { fn with imm := 5 }) mMapBusy (cx mMapBusy) ∧ QueueInUse mMapBusy (cx mMapBusy).w.uid 5 :=
  ⟨by decide +kernel, by decide +kernel, runs_of (by decide +kernel), by decide +kernel, by unfold MappingBreaks; decide +kernel,
    unused_of (by decide +kernel), by decide +kernel, goes_of (by decide +kernel), by unfold MappingBreaks; decide +kernel,
    by decide +kernel, goes_of (by decide +kernel), by unfold MappingBreaks; decide +kernel, runs_of (by decide +kernel),
    unused_of (by decide +kernel), goes_of (by decide +kernel),
    .inr ⟨{ newCrew (loadNode 1 []) 2 0 1 ⟨2, 0, 2⟩ with st := .blocked, wait := .queue [5] [] }, by decide +kernel,
      by decide +kernel, [5], [], .inl (by decide +kernel), by decide +kernel⟩⟩

theorem witness_queueStallsRunningOn : ∀ i ∈ [Instr.qmap ⟨4, 127, 5, false⟩, .qreset { fn with imm := 5 }],
    mOn.ctx = some (cx mOn) ∧ (cx mOn).c.expired = none ∧ firstFault i (cx mOn).c (cx mOn).w = none ∧ (cx mOn).c.runon ≠ none :=
  fun i hi => ⟨ctx_of (by decide +kernel), by decide +kernel, by revert i; decide +kernel, by decide +kernel⟩

/-- A crew that waits to pop queue 3. -/
@[irreducible] def mPop : State := waiting (tune m0 id fun g => { g with queues := g.queues.set 3 ⟨true, 4, 0, 0, 1, [[]]⟩ }) (.queue [3] [])

theorem witness_queueGrant : let s := mPop; let c := (own s).1; s.residentCrew ⟨2, 0⟩ = some (c, (own s).2) ∧ c.ref = ⟨2, 0⟩ ∧
    c.st = .blocked ∧ c.wait = .queue [3] [] ∧ grantable s (own s).2 ⟨2, 0⟩ c.since [3] [] = true :=
  ⟨own_of (by decide +kernel), by decide +kernel, by decide +kernel, by decide +kernel, by decide +kernel⟩

/-- Queue 3 holds an element, queue 5 none; all others are mapped and empty, but for those named. -/
@[irreducible] def mQueues (off : List Nat) : State := tune m0 (fun c => { c with m := c.m.set 1 ⟨9, true⟩ }) fun w => { w with
  queues := (List.range 8).map fun n => ⟨!off.contains n, 4, 8 * n, 3, if n = 3 then 1 else 0, if n = 3 then [[]] else []⟩ }

/-- `Checked` as a Bool. -/
def checkedB (i : Instr) (s : State) : Bool :=
  judged i s && s.ctx.any fun x => (firstFault i x.c x.w).isNone && (!isPrivileged i || s.systemWg x.w) && x.c.runon.isNone &&
    (view i).vecRegs.all (fun n => !x.c.pendingRegs.contains n) && x.c.replays.isEmpty && x.c.badRegs.isEmpty &&
    x.c.halting == .none && x.c.steps.isNone && (lostLatch i x.c).isNone && x.act != 0

theorem checked_of {i : Instr} {s : State} (h : checkedB i s = true) : Checked i s (cx s) := by
  unfold checkedB at h
  rw [Bool.and_eq_true] at h
  obtain ⟨hj, h⟩ := h
  cases hc : s.ctx with
  | none => simp [hc] at h
  | some x =>
    have e : cx s = x := by simp [cx, hc]
    have j := judged_of hj
    rw [e] at j ⊢
    simp only [hc, Option.any_some, Bool.and_eq_true, Option.isNone_iff_eq_none, Bool.or_eq_true, Bool.not_eq_true',
      List.all_eq_true, List.isEmpty_iff, beq_iff_eq, bne_iff_ne] at h
    obtain ⟨⟨⟨⟨⟨⟨⟨⟨⟨h1, h2⟩, h3⟩, h4⟩, h5⟩, h6⟩, h7⟩, h8⟩, h9⟩, h10⟩ := h
    exact ⟨j, h1, fun p => h2.resolve_left (by simp [p]), h3, fun n hn => by simpa using h4 n hn, ⟨h5, h6, h7, h8⟩, h9, h10⟩

theorem checked_all {ι : Type} {l : List ι} {g : ι → Instr} {s : State} (h : (l.all fun e => checkedB (g e) s) = true) :
    ∀ e ∈ l, Checked (g e) s (cx s) := fun e he => checked_of (List.all_eq_true.mp h e he)

/-- A machine with the debug interface attached. -/
@[irreducible] def mQueuesDbg : State := let s := mQueues []; { s with dbg := { s.dbg with region := some 0x600 } }

/-- A pop of q3; m1, which is full, read; the unmapped q7 as source and as destination; the empty m0 read and the full m1
written, with and without a debugger. -/
theorem witness_queueOperands : (∀ e ∈ binary, Runs (e.1 { gv with a := 107 }) (mQueues []) (cx (mQueues []))) ∧
    (∀ e ∈ binary, Runs (e.1 { gv with a := 117 }) (mQueues []) (cx (mQueues []))) ∧ (cx (mQueues [])).w.queues.length = 8 ∧
    (∀ e ∈ binary, Checked (e.1 { gv with a := 111 }) (mQueues [7]) (cx (mQueues [7]))) ∧
    (∀ e ∈ binary, Checked (e.1 { gv with d := 111 }) (mQueues [7]) (cx (mQueues [7]))) ∧
    ((cx (mQueues [7])).w.queue 7).valid = false ∧
    (∀ e ∈ binary, Checked (e.1 { gv with b := 116 }) (mQueues []) (cx (mQueues []))) ∧
    (∀ e ∈ binary, Checked (e.1 { gv with d := 117 }) mQueuesDbg (cx mQueuesDbg)) ∧
    (∀ n < 8, ((cx (mQueues [])).w.queue n).valid = true) ∧ ((cx (mQueues [])).c.mbox 0).full = false ∧
    ((cx mQueuesDbg).c.mbox 1).full = true ∧ (mQueues []).attached (cx (mQueues [])).w = false ∧
    mQueuesDbg.attached (cx mQueuesDbg).w = true :=
  ⟨runs_all (by decide +kernel), runs_all (by decide +kernel), by decide +kernel, checked_all (by decide +kernel),
    checked_all (by decide +kernel), by decide +kernel, checked_all (by decide +kernel), checked_all (by decide +kernel),
    by decide +kernel⟩

/-! Witnesses: copies and publishing -/

/-- A layout record of one dimension of n bytes at a base, in global memory or scratchpad (R231). -/
def recordOf (scr : Bool) (n base : Nat) : List Byte :=
  leBytes (1 * 2 ^ 472 + 13 * 2 ^ 464 + (if scr then 2 ^ 476 else 0) + n * 2 ^ 384 + n * 2 ^ 64 + base) 64

/-- Records at 0x1000, of global memory, and at 0x1040, of scratchpad; the block at scratchpad 0 names them; in the queue
form it names queue 3 with BYTE elements. -/
@[irreducible] def mCpy (queue : Bool) : State :=
  let s := tune m0 (put 8 0) fun w => { w with
    scr := memWrite [] 0 (leBytes (0x1000 + (if queue then 3 + 13 * 16 else 0x1040) * 2 ^ 64) 96)
    queues := w.queues.set 3 ⟨true, 4, 8, 0, 0, []⟩ }
  { s with mem := memWrite (memWrite tables 0x1000 (recordOf false 4 0x2000)) 0x1040 (recordOf true 4 0x800) }

/-- The check of the records of a copy word whose leader is thread 0. -/
def checked (i : Instr) (kind : CopyKind) (dir : Option Nat) (f : SFields) (x : Ctx) :
    Except (State × Flt) (Ctx × CopyCmd × List Acs) :=
  let ca := (lane (x.rawSrc f.a 0) 0).toNat
  (x.readStatus i).copyCheck kind dir 0 0 ca (f.b.toNat + (if kind == .gath then 1 else 0)) (memNat x.w.scr ca 96)
    (if kind == .gath then (members x.act).map fun u => lane (x.c.vreg f.b.toNat).vals u else [])

/-- The check of the block. -/
def blockRead (i : Instr) (f : SFields) (x : Ctx) : Except Flt (State × List Acs) :=
  (x.readStatus i).check true .load 1 false true 96 [⟨0, ((lane (x.rawSrc f.a 0) 0).toNat : Int)⟩]

/-- The accesses to the records of a check that passes. -/
def recsOf (r : Except (State × Flt) (Ctx × CopyCmd × List Acs)) : List Acs :=
  match r with
  | .ok p => p.2.2
  | .error _ => []

/-- What `CopyStarts` asks. -/
def startsB (i : Instr) (kind : CopyKind) (dir : Option Nat) (f : SFields) (x : Ctx) : Bool :=
  lowest (x.act &&& x.c.pred ([0, 1, 2, 7].getD (f.imm.toNat % 4) 7)) == some 0 && (lane (x.rawSrc f.a 0) 0).toNat % 32 == 0 &&
    !blockBad kind 0 (memNat x.w.scr (lane (x.rawSrc f.a 0) 0).toNat 96) && (checked i kind dir f x).isOk &&
    (blockRead i f x).isOk && !watchHit x.s x.w true .load (accsOf (blockRead i f x)) &&
    !watchHit x.s x.w false .load (recsOf (checked i kind dir f x))

theorem starts_of {i : Instr} {kind : CopyKind} {dir : Option Nat} {f : SFields} {x : Ctx}
    (h : startsB i kind dir f x = true) : ∃ k, CopyStarts i kind dir 0 0 f x k := by
  simp only [startsB, Bool.and_eq_true, beq_iff_eq, Bool.not_eq_true'] at h
  obtain ⟨⟨⟨⟨⟨⟨h1, h2⟩, h3⟩, h4⟩, h5⟩, h6⟩, h7⟩ := h
  obtain ⟨p, hp⟩ := ok_of h4
  obtain ⟨r, hr⟩ := ok_of h5
  refine ⟨p.2.1, 0, h1, h2, ⟨r, hr, ?_⟩, h3, p.1, p.2.2, hp, ?_⟩
  · rw [hr] at h6
    exact h6
  · rw [hp] at h7
    exact h7

/-- The copy words: block in v4, pF p6, no leader predicate. -/
def fc : SFields := ⟨4, 8, 27, false⟩

/-- The command that a copy starts as, if it does. -/
def started (queue : Bool) : List CopyCmd :=
  match if queue then checked (.cpyq 0 fc) .cpyq none fc (cx (mCpy true)) else checked (.cpy 0x10 fc) .cpy (some 1) fc (cx (mCpy false)) with
  | .ok p => [p.2.1]
  | .error _ => []

/-- No slot is free. -/
@[irreducible] def mCpyFull : State :=
  { mCpy false with copies := (List.range 32).flatMap fun n => (started false).map fun c => { c with slot := n, id := 100 + n } }

theorem witness_copyIssue : (Runs (.cpy 0x10 fc) (mCpy false) (cx (mCpy false)) ∧
      ∃ k, CopyStarts (.cpy 0x10 fc) .cpy (some 1) 0 0 fc (cx (mCpy false)) k) ∧
    (Runs (.cpyq 0 fc) (mCpy true) (cx (mCpy true)) ∧ ∃ k, CopyStarts (.cpyq 0 fc) .cpyq none 0 0 fc (cx (mCpy true)) k) ∧
    (Runs (.gath 0 fc) (mCpy false) (cx (mCpy false))) ∧
    (cx (mCpy false)).w.isShadow = false ∧ (cx (mCpy false)).w.sampled = false ∧ (cx (mCpy false)).act ≠ 0 ∧
    (mCpy false).freeSlot 0 .cpy = some 0 ∧ (mCpy true).freeSlot 0 .cpyq = some 32 ∧
    Runs (.cpy 0x10 fc) mCpyFull (cx mCpyFull) ∧ mCpyFull.freeSlot 0 .cpy = none ∧
    ∃ k, CopyStarts (.cpy 0x10 fc) .cpy (some 1) 0 0 fc (cx mCpyFull) k :=
  ⟨⟨runs_of (by decide +kernel), starts_of (by decide +kernel)⟩, ⟨runs_of (by decide +kernel), starts_of (by decide +kernel)⟩,
    runs_of (by decide +kernel), by decide +kernel, by decide +kernel, by decide +kernel, by decide +kernel, by decide +kernel,
    runs_of (by decide +kernel), by decide +kernel, starts_of (by decide +kernel)⟩

/-- The copy words with leader predicate p0, which is 0. -/
def noLeader : List Instr := [.cpy 0x10 { fc with imm := 24 }, .cpyq 0 { fc with imm := 24 }, .gath 0 { fc with imm := 24 }]

theorem witness_copyWithoutLeader : ∀ i ∈ noLeader, Runs i (mCpy false) (cx (mCpy false)) ∧
    (cx (mCpy false)).act &&& (cx (mCpy false)).c.pred 0 = 0 := fun i hi =>
  ⟨runs_all (l := noLeader) (g := id) (s := mCpy false) (by decide +kernel) i hi, by decide +kernel⟩

/-- One thread active: a gather of one block, whose index is in v8, into a tensor of so many bytes. -/
@[irreducible] def mGath : State := crewed (mCpy false) fun c => { c with mask := 1 }

theorem witness_gather : ∃ k, CopyStarts (.gath 0 fc) .gath (some 1) 0 0 fc (cx mGath) k :=
  starts_of (by decide +kernel)

/-- A machine whose copy has begun: so many bytes landed; its crew awaits the status in v8. -/
@[irreducible] def mGoing (queue : Bool) (n : Nat) : State :=
  crewed { mCpy queue with
    copies := (started queue).map fun c => { c with slot := if queue then 32 else 0, landed := n, did := [(copyParty 3 0, 1)] }
    nextId := 4, cur := none } fun c => { c with pend := [⟨8, allThreads, none, 3⟩] }

/-- The command of a machine. -/
def cmd (s : State) : CopyCmd :=
  (s.copy? 3).getD ⟨0, .cpy, 0, 0, 0, 0, 0, 0, 0, 0, 0, 0, 0, blockOf 0, layoutOf 0, layoutOf 0, [], 0, false, 0, [], [], [], none, none, 0⟩

theorem cmd_of {s : State} (h : (s.copy? 3).isSome = true) : s.copy? 3 = some (cmd s) := by
  unfold cmd
  cases hc : s.copy? 3 with
  | none => simp [hc] at h
  | some p => rfl

/-- Records at 0x1000 and 0x1040, both of scratchpad; the block at scratchpad 0 names them, or queue 3 with BYTE elements; the
command has begun in its slot. -/
@[irreducible] def mLocal (queue : Bool) (n : Nat) : State :=
  let s := tune m0 (put 8 0) fun w => { w with
    scr := memWrite [] 0 (leBytes (0x1000 + (if queue then 3 + 13 * 16 else 0x1040) * 2 ^ 64) 96)
    queues := w.queues.set 3 ⟨true, 4, 8, 0, 0, []⟩ }
  let s := { s with mem := memWrite (memWrite tables 0x1000 (recordOf true 4 0x600)) 0x1040 (recordOf true 4 0x800) }
  { s with
    copies := match if queue then checked (.cpyq 0 fc) .cpyq none fc (cx s) else checked (.cpy 0 fc) .cpy (some 0) fc (cx s) with
      | .ok p => [{ p.2.1 with slot := if queue then 32 else 0, landed := n }]
      | .error _ => []
    nextId := 4, cur := none }

/-- What the statement on a copy with nothing in its way asks, but the kind. -/
def plainB (s : State) : Bool :=
  let k := cmd s
  (s.copy? 3).isSome && k.id == 3 && (s.wg? k.wg).any (fun w => w.uid == k.wg && w.core.isSome && k.done.isNone && k.trans == 0 &&
    k.src.scratch && k.src.bits == 8 && k.dst.bits == 8 && k.src.fmt == k.dst.fmt && !k.block.count && !k.desc && k.kept.isEmpty &&
    w.stags.isEmpty && w.mtiles.isEmpty && w.scrFailing.isEmpty && s.failing.isEmpty && decide (k.queueNo < w.queues.length)) &&
    s.crews.all (·.runon.isNone)

/-- The first and the last byte of a copy; an element whose last bytes are padding. -/
theorem witness_plainCopies : (∀ n ∈ [0, 3], plainB (mLocal false n) = true ∧ (cmd (mLocal false n)).kind = .cpy ∧
      (cmd (mLocal false n)).src.inside (CopyEngine.source (cmd (mLocal false n)) n) = true ∧
      (cmd (mLocal false n)).dst.scratch = true ∧ n < (cmd (mLocal false n)).total) ∧
    (let s := mLocal true 0; let k := cmd s; plainB s = true ∧ k.kind = .cpyq ∧ 0 < k.total ∧ s.firstCpyq k = true ∧ s.cpyqRoom k = true ∧
      k.dst.count = 4 ∧ ∀ n < 128, n < k.dst.count → k.src.inside (CopyEngine.source k n) = true) := by decide +kernel

theorem witness_copyWrite : let s := mGoing false 1; let k := cmd s
    s.copy? 3 = some k ∧ k.id = 3 ∧ k.kind ≠ .cpyq ∧ k.landed ≠ k.total ∧ s.copyLive k = true ∧
      (s.copyAdvance k).2.1.landed ≠ k.landed ∧ k.dst.scratch = true ∧ k.dst.bits = 8 ∧ k.block.count = false ∧ k.desc = false ∧
      (∀ c ∈ s.crews, c.runon = none) ∧ (s.wg? k.wg).isSome = true ∧ ((s.copyUnit k k.landed).2).isOk = true :=
  ⟨cmd_of (by decide +kernel), by decide +kernel⟩

theorem witness_elementPush : let s := mGoing true 0; let k := cmd s
    s.copy? 3 = some k ∧ k.id = 3 ∧ k.kind = .cpyq ∧ k.landed ≠ k.total ∧ s.copyLive k = true ∧ s.firstCpyq k = true ∧
      s.cpyqRoom k = true ∧ (s.cpyqPush k).2.2 = none ∧ (s.copyElement k (128 / k.unit) k.landed).2.isOk = true ∧
      (s.wg? k.wg).any (fun w => w.uid == k.wg && decide (k.block.dstrec % 8 < w.queues.length)) = true ∧
      k.block.count = false := ⟨cmd_of (by decide +kernel), by decide +kernel⟩

theorem witness_copyComplete : let s := mGoing false 4; let k := cmd s
    s.copy? 3 = some k ∧ k.id = 3 ∧ k.kind = .cpy ∧ k.landed = k.total ∧ k.done = none ∧
      (s.wg? k.wg).any (·.core.isSome) = true ∧ (s.crew? ⟨k.wg, k.crew⟩).any (fun c => c.pend == [⟨k.reg, allThreads, none, 3⟩] &&
        decide (k.reg < c.v.length)) = true ∧ k.reg < 96 := ⟨cmd_of (by decide +kernel), by decide +kernel⟩

/-- The pages are gone. -/
@[irreducible] def mUnmapped : State := { mGoing false 0 with mem := [] }

theorem witness_copyEndEarly : mUnmapped.copy? 3 = some (cmd mUnmapped) ∧ (cmd mUnmapped).kind = .cpy ∧
    (mUnmapped.copyStop (cmd mUnmapped)).any (fun e => (e.1.wg? (cmd mUnmapped).wg).any (fun w => w.core.isSome && !w.isShadow &&
      (e.1.regionOf w).any fun r => !e.1.queueFull r) && (e.1.crew? ⟨2, 0⟩).any (fun c => c.pend == [⟨8, allThreads, none, 3⟩] &&
        decide (8 < c.v.length)) && e.1.crews.all (·.runon.isNone)) = true :=
  ⟨cmd_of (by decide +kernel), by decide +kernel, by decide +kernel⟩

/-- A shadowed page at 0x200000: its entry, valid, readable, writable, in shadow set 1, with two frames (R224, R311); an
address in v4 and v5. -/
@[irreducible] def mPubl (va : Word) : State :=
  { crewed m0 (put 5 0 ∘ put 4 va) with
    mem := memWrite tables 0x300006010 (leBytes (1 + 3 * 2 ^ 11 + 2 ^ 15 + 3 * 2 ^ 24 + 0x200 * 2 ^ 28 + 2 ^ 80 + 0x400 * 2 ^ 92) 16) }

/-- Whether the leaf at the address of a publishing word is shadowed; none where the address has no leaf. -/
def publLeaf (s : State) : Option Bool :=
  match (s.xlate (cx s).eff.ptroot ((cx s).leaderPair 4).toNat .publ).2 with
  | .ok p => some p.shad
  | .error _ => none

/-- An address of 2^57. -/
@[irreducible] def mFar : State := crewed m0 (put 5 0x2000000 ∘ put 4 0)

theorem witness_publish : Runs (.publ { fn with a := 4 }) (mPubl 0x200000) (cx (mPubl 0x200000)) ∧ (cx (mPubl 0x200000)).act ≠ 0 ∧
    publLeaf (mPubl 0x200000) = some true ∧ Runs (.publ { fn with a := 4 }) mIdle (cx mIdle) ∧ (cx mIdle).act = 0 ∧
    Goes (.publ { fn with a := 4 }) (mPubl 0x1000) (cx (mPubl 0x1000)) ∧ publLeaf (mPubl 0x1000) = some false ∧
    Goes (.publ { fn with a := 4 }) (mPubl 0x40000000) (cx (mPubl 0x40000000)) ∧ publLeaf (mPubl 0x40000000) = none ∧
    Goes (.publ { fn with a := 4 }) mFar (cx mFar) ∧ ((cx mFar).leaderPair 4).toNat = 2 ^ 57 :=
  ⟨runs_of (by decide +kernel), by decide +kernel, by decide +kernel, runs_of (by decide +kernel), by decide +kernel,
    goes_of (by decide +kernel), by decide +kernel, goes_of (by decide +kernel), by decide +kernel, goes_of (by decide +kernel),
    by decide +kernel⟩

/-! Witnesses: the matrix unit -/

/-- Two threads active; slot 0 loaded with zeros; v4 holds addresses, v6 and v7 a control word. -/
@[irreducible] def mMat (at_ ctl : Word) (ops : List MatOp) : State :=
  tune m0 (put 4 at_ ∘ put 6 ctl ∘ fun c => { c with mask := 0x80000001 }) fun w =>
    { w with slots := w.slots.set 0 ⟨true, 0, false, 0, [], none, []⟩, mops := ops }

/-- Fields of the matrix words: v4, v6, tile 1, slot 0. -/
def fw : SFields := ⟨4, 6, 4, false⟩
/-- The same with no second field. -/
def fw1 : SFields := ⟨4, 127, 4, false⟩
/-- Neither. -/
def fw0 : SFields := ⟨127, 127, 4, false⟩

theorem witness_weightLoads : let s := mMat 0 0 []; let x := cx s
    x.act ≠ 0 ∧ Runs (.wload 0 ⟨4, 127, 2, false⟩) s x ∧ (x.leader 4).toNat % 16 = 0 ∧
    (x.leader 4).toNat + imageSize 0 false 0 ≤ scratch x.w ∧
    Quietly (.wload 0 ⟨4, 127, 2, false⟩) s x [(0, 0, imageSize 0 false 0)] [] [258] ∧
    imageFault 0 false 0 0 (memNat x.w.scr 0 (imageSize 0 false 0)) = none ∧
    (∀ i ∈ [Instr.wload 3 ⟨4, 127, 2, false⟩, .wloadS24 3 ⟨4, 127, 2, false⟩],
      Goes i (mMat 8 0 []) (cx (mMat 8 0 [])) ∧ ((cx (mMat 8 0 [])).leader 4).toNat % 16 ≠ 0) ∧
    Runs (.wtab ⟨4, 127, 2, false⟩) s x ∧ Quietly (.wtab ⟨4, 127, 2, false⟩) s x [(0, 0, 1024)] [] [258] := by
  refine ⟨by decide +kernel, runs_of (by decide +kernel), by decide +kernel, by decide +kernel, by unfold Quietly; decide +kernel,
    by decide +kernel, fun i hi => ⟨goes_all (l := [Instr.wload 3 ⟨4, 127, 2, false⟩, .wloadS24 3 ⟨4, 127, 2, false⟩]) (g := id)
      (s := mMat 8 0 []) (by decide +kernel) i hi, by decide +kernel⟩, runs_of (by decide +kernel), by unfold Quietly; decide +kernel⟩

/-- Zeros are no metadata of a 2:4 image and no bitmaps of four bits. -/
theorem witness_refusedWeights : let s := mMat 0 0 []; let x := cx s
    Goes (.wloadS24 0 ⟨4, 127, 2, false⟩) s x ∧
    Quietly (.wloadS24 0 ⟨4, 127, 2, false⟩) s x [(0, 0, imageSize 0 true 0)] [] [258] ∧ 0 < (imageSize 0 true 0 - 8192) / 4 ∧
    memNat x.w.scr 8192 4 = 0 ∧ Goes (.wload 12 ⟨4, 127, 2, false⟩) s x ∧
    Quietly (.wload 12 ⟨4, 127, 2, false⟩) s x [(0, 0, imageSize 12 false 4)] [] [258] ∧ 0 < 64 * (kExtent 12 false 4 / 32) ∧
    (List.range 32).countP (fun b => (memNat x.w.scr 0 4).testBit b) ≠ 4 :=
  ⟨goes_of (by decide +kernel), by unfold Quietly; decide +kernel, by decide +kernel, by decide +kernel, goes_of (by decide +kernel),
    by unfold Quietly; decide +kernel, by decide +kernel, by decide +kernel⟩

/-- A scale container of 0x400. -/
@[irreducible] def mScale : State := tune (mMat 0 0 []) id fun w => { w with scr := [(8193, 4)] }

theorem witness_refusedScale : Goes (.wload 8 ⟨4, 127, 2, false⟩) mScale (cx mScale) ∧
    Quietly (.wload 8 ⟨4, 127, 2, false⟩) mScale (cx mScale) [(0, 0, imageSize 8 false 0)] [] [258] ∧
    0 < (imageSize 8 false 0 - 8192) / 2 ∧ 1024 ≤ memNat (cx mScale).w.scr 8192 2 :=
  ⟨goes_of (by decide +kernel), by unfold Quietly; decide +kernel, by decide +kernel, by decide +kernel⟩

theorem witness_multiply : let s := mMat 0 0 []; let x := cx s
    (∀ i ∈ [Instr.mma 0 fw1, .mmaZ 0 fw1], Runs i s x ∧ Quietly i s x ((actives x).map fun th => (th, 0,
      kExtent 0 false 0 * matBits 0 / 8)) [256] ((actives x).map fun th => 32 + th)) ∧ (x.w.slot 0).loaded = true ∧
    actives x = [0, 31] ∧ (∀ th ∈ actives x, lane (x.rawSrc 4 0) th = 0) ∧
    (∀ i ∈ [Instr.mma 0 ⟨4, 127, 5, false⟩, .mmaZ 0 ⟨4, 127, 5, false⟩], Goes i s x) ∧ (x.w.slot 1).loaded = false ∧
    (∀ i ∈ [Instr.mma 0 fw1, .mmaZ 0 fw1], Goes i (mMat 2 0 []) (cx (mMat 2 0 []))) ∧
    lane ((cx (mMat 2 0 [])).rawSrc 4 0) 0 = 2 ∧ 0 ∈ actives (cx (mMat 2 0 [])) :=
  ⟨fun i hi => ⟨runs_all (l := [Instr.mma 0 fw1, .mmaZ 0 fw1]) (g := id) (s := mMat 0 0 []) (by decide +kernel) i hi,
      by unfold Quietly; revert i; decide +kernel⟩, by decide +kernel, by decide +kernel, by decide +kernel,
    goes_all (l := [Instr.mma 0 ⟨4, 127, 5, false⟩, .mmaZ 0 ⟨4, 127, 5, false⟩]) (g := id) (s := mMat 0 0 []) (by decide +kernel),
    by decide +kernel, goes_all (l := [Instr.mma 0 fw1, .mmaZ 0 fw1]) (g := id) (s := mMat 2 0 []) (by decide +kernel),
    by decide +kernel, by decide +kernel⟩

theorem witness_tileWords : let s := mMat 33 33 []; let x := cx s
    Runs (.accwr fw) s x ∧ (∀ th ∈ actives x, (lane (x.rawSrc 6 0) th).toNat < 1024) ∧
    Quietly (.accwr fw) s x [] [] ((actives x).map fun th => 32 + rowOf x 6 th) ∧
    (∀ i ∈ [Instr.accwr fw, .accrd fw], Goes i (mMat 33 1024 []) (cx (mMat 33 1024 []))) ∧
    ¬ (∀ th ∈ actives (cx (mMat 33 1024 [])), (lane ((cx (mMat 33 1024 [])).rawSrc 6 0) th).toNat < 1024) ∧
    Runs (.accz fw0) s x ∧ Quietly (.accz fw0) s x [] [] ((actives x).map fun th => 32 + th) ∧ Runs (.perturb fw) s x ∧
    (x.leader 4).toNat < 2048 ∧ Quietly (.perturb fw) s x [] [] ((List.range 32).map fun r => 32 + r) ∧
    Goes (.perturb fw) (mMat 2048 0 []) (cx (mMat 2048 0 [])) ∧ 2048 ≤ ((cx (mMat 2048 0 [])).leader 4).toNat ∧
    Runs (.wmark fw1) s x :=
  ⟨runs_of (by decide +kernel), by decide +kernel, by unfold Quietly; decide +kernel,
    goes_all (l := [Instr.accwr fw, .accrd fw]) (g := id) (s := mMat 33 1024 []) (by decide +kernel), by decide +kernel,
    runs_of (by decide +kernel), by unfold Quietly; decide +kernel, runs_of (by decide +kernel), by decide +kernel,
    by unfold Quietly; decide +kernel, goes_of (by decide +kernel), by decide +kernel, runs_of (by decide +kernel)⟩

theorem witness_tileReads : let s := mMat 0 33 []; let x := cx s; let s' := mMat 0 33 [.accz 1 [0]]; let x' := cx s'
    Runs (.accrd fw) s x ∧ (∀ th ∈ actives x, (lane (x.rawSrc 6 0) th).toNat < 1024) ∧
    Quietly (.accrd fw) s x [] ((actives x).map fun th => 32 + rowOf x 6 th) [] ∧
    (∀ th ∈ actives x, rowOf x 6 th < x.w.watermark 1) ∧ Runs (.accrd fw) s' x' ∧
    Quietly (.accrd fw) s' x' [] ((actives x').map fun th => 32 + rowOf x' 6 th) [] ∧
    ∃ th ∈ actives x', x'.w.watermark 1 ≤ rowOf x' 6 th :=
  ⟨runs_of (by decide +kernel), by decide +kernel, by unfold Quietly; decide +kernel, by decide +kernel, runs_of (by decide +kernel),
    by unfold Quietly; decide +kernel, 0, by decide +kernel, by decide +kernel⟩

/-- An element of the row that the first thread reads fails its check. -/
@[irreducible] def mBadTile : State :=
  tune (mMat 0 33 []) id fun w => { w with tiles := w.tiles.set 1 { w.tile 1 with failing := [64 + 2] } }

theorem witness_failingTile : let x := cx mBadTile; Runs (.accrd fw) mBadTile x ∧ x.act ≠ 0 ∧
    (∀ th ∈ actives x, (lane (x.rawSrc 6 0) th).toNat < 1024) ∧
    Quietly (.accrd fw) mBadTile x [] ((actives x).map fun th => 32 + rowOf x 6 th) [] ∧
    (∀ th ∈ actives x, rowOf x 6 th < x.w.watermark 1) ∧
    ∃ th ∈ actives x, ∃ odd < 2, 64 * rowOf x 6 th + 2 * pairAt x 6 th + odd ∈ (x.w.tile 1).failing :=
  ⟨runs_of (by decide +kernel), by decide +kernel, by decide +kernel, by unfold Quietly; decide +kernel, by decide +kernel,
    by decide +kernel⟩

/-- A crew that waits at an ACCRD of v8 and v9 from tile 0, control words in v6. -/
@[irreducible] def mAccrd : State := crewed (machine [0xEB810180]) fun c => { c with st := .score, wait := .accrd }

theorem witness_tileReadEnds : let s := mAccrd; let c := (own s).1; let w := (own s).2
    let x : Ctx := ⟨s, { c with st := .ready, wait := .none }, w, c.after, false⟩
    s.residentCrew ⟨2, 0⟩ = some (c, w) ∧ c.ref = ⟨2, 0⟩ ∧ c.st = .score ∧ c.wait = .accrd ∧
    (s.atHand w c).any (fun p => p.i == .accrd ⟨8, 6, 0, false⟩) = true ∧ c.active ≠ 0 ∧ c.halting = .none ∧
    c.steps = none ∧ c.replays = [] ∧ c.runon = none ∧ (∀ th ∈ actives x, (lane (x.rawSrc 6 0) th).toNat < 1024) ∧
    (w.tile 0).failing = [] ∧ (∀ th ∈ actives x, rowOf x 6 th < w.watermark 0) ∧ 9 < c.v.length :=
  ⟨own_of (by decide +kernel), by decide +kernel⟩

/-- A descriptor at scratchpad 0: klen 32, all else 0; or with a klen of 33. -/
@[irreducible] def mTile (klen : Byte) : State := tune (mMat 0 0 []) id fun w => { w with scr := [(12, klen)] }

theorem witness_tileRuns : let s := mTile 32; let x := cx s; let d := memNat x.w.scr 0 32
    (∀ i ∈ [Instr.mtile 0 fw1, .mtileZ 0 fw1], Runs i s x ∧
      Quietly i s x ((0, 0, 32) :: ((actives x).map fun _ => (0, 0, 32 * matBits 0 / 8)) ++ [(0, 0, 32 * 8 * matBits 0)]) [] [256] ∧
      (x.readStatus i).matFault true ((actives x).map fun th => 32 + th) = none) ∧ x.act ≠ 0 ∧ x.w.mtiles = [] ∧
    d = 32 * 2 ^ 96 ∧ 32 * 8 * matBits 0 ≤ scratch x.w ∧
    (∀ i ∈ [Instr.mtile 0 fw1, .mtileZ 0 fw1], Goes i (mTile 33) (cx (mTile 33))) ∧
    memNat (cx (mTile 33)).w.scr 0 32 / 2 ^ 96 % 2 ^ 32 % 32 ≠ 0 :=
  ⟨fun i hi => ⟨runs_all (l := [Instr.mtile 0 fw1, .mtileZ 0 fw1]) (g := id) (s := mTile 32) (by decide +kernel) i hi,
      by unfold Quietly; revert i; decide +kernel, by revert i; decide +kernel⟩, by decide +kernel, by decide +kernel,
    by decide +kernel, by decide +kernel, goes_all (l := [Instr.mtile 0 fw1, .mtileZ 0 fw1]) (g := id) (s := mTile 33)
      (by decide +kernel), by decide +kernel⟩

/-- Every word of the matrix unit and of the transform pipe. -/
def unitWords : List Instr :=
  [.wload 0 ⟨4, 127, 2, false⟩, .wloadS24 0 ⟨4, 127, 2, false⟩, .mma 0 fw1, .mmaZ 0 fw1, .mtile 0 fw1, .mtileZ 0 fw1, .wtab ⟨4, 127, 2, false⟩, .accrd fw, .accwr fw,
    .accz fw0, .wmark fw1, .perturb fw, .topk 0 ⟨4, 8, 0, false⟩, .topkM 0 ⟨4, 8, 0, false⟩, .decodeCb ⟨4, 8, 0, false⟩,
    .decodeS24 ⟨4, 8, 0, false⟩, .decodeWn 3 ⟨4, 8, 0, false⟩, .decodeSwn 3 ⟨4, 8, 0, false⟩]

theorem witness_idleUnits : (cx mIdle).act = 0 ∧ ∀ i ∈ unitWords, Runs i mIdle (cx mIdle) :=
  ⟨by decide +kernel, runs_all (l := unitWords) (g := id) (s := mIdle) (by decide +kernel)⟩

/-- Pending operations of each kind in a workgroup. -/
theorem witness_matrixRows : ∀ o ∈ [MatOp.mma 1 0 false ⟨true, 0, false, 0, [], none, []⟩ none [(3, [])], .accwr 1 [(3, [(0, 5)])],
    .accz 1 [3, 4], .wtab 2], let s := mMat 0 0 [o]
    (s.wg? 2).any (fun w => w.uid == 2 && w.mops == [o] && decide (1 < w.tiles.length) && (w.tile 1).elems.length == 2048) = true := by
  decide +kernel

/-- A run of one step or of two on tile 1 by the crew, which waits for it; a run of another crew stands behind it. -/
@[irreducible] def mStep (klen : Nat) : State :=
  tune m0 (fun c => { c with st := .blocked, wait := .mtile }) fun w =>
    { w with mtiles := [⟨0, 0, 1, 0, 0, false, 1, 0, 0, 0, klen, 0, 0, 0, none, [], 0, 0⟩,
      ⟨1, 0, 2, 1, 0, false, 1, 0, 0, 0, 64, 0, 0, 1, none, [], 0, 0⟩] }

theorem witness_tileSteps (k : Nat) (h : k = 32 ∨ k = 64) : let s := mStep k; let c := (own s).1; let w := (own s).2
    s.residentCrew ⟨2, 0⟩ = some (c, w) ∧ s.wg? 2 = some w ∧ w.uid = 2 ∧ w.saving = false ∧
    (w.mtiles.head?.any fun m => m.idx == 0 && m.tile == 1 && m.slot == 0 && m.klen == k && m.step == 0) = true ∧
    w.mtiles.map (·.idx) = [0, 1] ∧ c.wg = 2 ∧ c.idx = 0 ∧ c.st = .blocked ∧ c.wait = .mtile ∧ w.opRows 1 = [] ∧
    1 < w.tiles.length ∧ (w.tile 1).elems.length = 2048 ∧ 0 < w.slots.length ∧ c.halting = .none ∧ c.steps = none ∧ c.replays = [] := by
  rcases h with rfl | rfl <;> exact ⟨own_of (by decide +kernel), by decide +kernel⟩

/-! Witnesses: the transform pipe -/

/-- An address in v8, a control word or a second address in v9; metadata of ascending pairs at 0x100. -/
@[irreducible] def mPipe (a ctl : Word) : State :=
  tune m0 (put 8 a ∘ put 9 ctl) fun w => { w with scr := (List.range 16).map fun k => (0x100 + k, 0x44) }

/-- Destination v4, source pair v8. -/
def ft : SFields := ⟨4, 8, 0, false⟩

theorem witness_selection : let s := mPipe 0 0x00020003; let x := cx s; let s' := mPipe 0 0x00020202; let x' := cx s'
    x.act ≠ 0 ∧ (∀ sel ∈ [0, 1, 2, 3], Runs (.topk sel ft) s x ∧
      Quietly (.topk sel ft) s x [(0, 0, 4 * ((scores sel).1 / 8))] [] []) ∧ (x.leader 9).toNat = 3 + 2 * 2 ^ 16 ∧ x.leader 8 = 0 ∧
    (∀ sel ∈ [0, 1, 2, 3], Runs (.topkM sel ft) s' x' ∧ Quietly (.topkM sel ft) s' x' [(0, 0, 32)] [] []) ∧
    (x'.leader 9).toNat = 2 + 2 * 2 ^ 8 + 2 * 2 ^ 16 ∧
    (∀ i ∈ [Instr.topk 0 ft, .topkM 0 ft], Goes i (mPipe 0 0) (cx (mPipe 0 0))) ∧ (cx (mPipe 0 0)).leader 9 = 0 :=
  ⟨by decide +kernel, fun i hi => ⟨runs_all (l := [(0 : BitVec 2), 1, 2, 3]) (g := fun n => .topk n ft) (s := mPipe 0 0x00020003)
      (by decide +kernel) i hi, by unfold Quietly; revert i; decide +kernel⟩, by decide +kernel, by decide +kernel,
    fun i hi => ⟨runs_all (l := [(0 : BitVec 2), 1, 2, 3]) (g := fun n => .topkM n ft) (s := mPipe 0 0x00020202)
      (by decide +kernel) i hi, by unfold Quietly; revert i; decide +kernel⟩, by decide +kernel,
    goes_all (l := [Instr.topk 0 ft, .topkM 0 ft]) (g := id) (s := mPipe 0 0) (by decide +kernel), by decide +kernel⟩

theorem witness_decoding : let s := mPipe 0 0; let x := cx s; let s' := mPipe 0 0x100; let x' := cx s'
    (∀ n ∈ [(0 : BitVec 3), 7], Runs (.decodeWn n ft) s x ∧ Quietly (.decodeWn n ft) s x [(0, 0, 4 * (n.toNat + 1))] [] [] ∧
      Runs (.decodeSwn n ft) s x ∧ Goes (.decodeWn n ft) s' x') ∧ x.leader 9 = 0 ∧ x.leader 8 = 0 ∧ x'.leader 9 = 0x100 ∧
    Runs (.decodeCb ft) s x ∧ Quietly (.decodeCb ft) s x [(0, 0, 24), (0, 0, 16)] [] [] ∧ Runs (.decodeS24 ft) s' x' ∧
    Quietly (.decodeS24 ft) s' x' [(0, 0, 64), (0, 0x100, 8)] [] [] ∧
    (∀ q < 16, let w := memNat x'.w.scr (0x100 + 4 * (q / 8)) 4 / 2 ^ (4 * (q % 8)) % 16; w % 4 < w / 4) ∧
    Goes (.decodeS24 ft) s x ∧ memNat x.w.scr 0 4 % 16 = 0 :=
  ⟨fun i hi => ⟨runs_all (l := [(0 : BitVec 3), 7]) (g := fun n => .decodeWn n ft) (s := mPipe 0 0) (by decide +kernel) i hi,
      by unfold Quietly; revert i; decide +kernel,
      runs_all (l := [(0 : BitVec 3), 7]) (g := fun n => .decodeSwn n ft) (s := mPipe 0 0) (by decide +kernel) i hi,
      goes_all (l := [(0 : BitVec 3), 7]) (g := fun n => .decodeWn n ft) (s := mPipe 0 0x100) (by decide +kernel) i hi⟩,
    by decide +kernel, by decide +kernel, by decide +kernel, runs_of (by decide +kernel), by unfold Quietly; decide +kernel,
    runs_of (by decide +kernel), by unfold Quietly; decide +kernel, by decide +kernel, goes_of (by decide +kernel), by decide +kernel⟩

/-- A crew with a reply for v4 and v5, which waits for a register. -/
@[irreducible] def mReply : State := crewed m0 fun c => { c with
  st := .score, wait := .pendingReg, pend := [⟨4, 3, some [1, 2], 9⟩, ⟨5, 3, some [3, 4], 9⟩] }

theorem witness_transformReplies : let s := mReply; let c := (own s).1; let l := c.pend.filter fun q => q.vals.isSome && q.copy == 9
    s.crew? ⟨2, 0⟩ = some c ∧ c.pend.find? (·.vals.isSome) = some ⟨4, 3, some [1, 2], 9⟩ ∧ l.Nodup ∧ (l.map (·.code)).Nodup ∧
    (∀ q ∈ l, q.code < 96 ∧ q.code < c.v.length) ∧ l.length = 2 := by decide +kernel

/-! Witnesses: windows and groups -/

/-- A group of one member, the crew's workgroup, with rounds open. -/
def groupOf (rounds : List Round) : Group := ⟨20, 0x1000, 0x600, 1, 0x1000, 0, [⟨0, 0x800, 0, false, 0, 0x10000⟩], rounds⟩

/-- Addresses of window 1, 16 bytes apart, in v6 and v7; two threads active. -/
@[irreducible] def mWin (hi : Word) (rounds : List Round) : State :=
  { crewed m0 (put 7 hi ∘ ramp 6 16 ∘ fun c => { c with mask := 0x80000001 }) with groups := [groupOf rounds] }

/-- Stores of v4 to the window that v6 and v7 name. -/
def fwin : MFields := ⟨4, 6, 0, 0, 2, false⟩

/-- The window stores. -/
def winWords : List Instr := [.st32 fwin, .st64 fwin, .st128 fwin]

theorem witness_windowStores : let s := mWin 0x100 []; let x := cx s; let s' := mWin 0x100 [⟨0, [(0, 5)], []⟩]; let x' := cx s'
    (∀ i ∈ winWords, Runs i s x ∧ Runs i s' x' ∧ Goes i (mWin 0x10000 []) (cx (mWin 0x10000 []))) ∧
    (requests x false 6 0).map (·.addr) = [0x10000000000, 0x100000001F0] ∧ (requests x' false 6 0).map (·.addr) = [0x10000000000, 0x100000001F0] ∧
    s.groups.map (·.id) = [20] ∧ s.dbg.region = none ∧ s'.dbg.region = none ∧ (groupOf []).region = x.w.region ∧ s.nodeAddr x.w = 0x800 ∧ s.port.devnum = 0 ∧ x.w.index = 0 ∧
    (requests (cx (mWin 0x10000 [])) false 6 0).all (fun r => decide (2 ^ 48 ≤ r.addr)) = true :=
  ⟨fun i hi => ⟨runs_all (l := winWords) (g := id) (s := mWin 0x100 []) (by decide +kernel) i hi,
      runs_all (l := winWords) (g := id) (s := mWin 0x100 [⟨0, [(0, 5)], []⟩]) (by decide +kernel) i hi,
      goes_all (l := winWords) (g := id) (s := mWin 0x10000 []) (by decide +kernel) i hi⟩,
    by decide +kernel⟩

/-- One thread's address in a window of handle 1: v6 holds its offset. -/
@[irreducible] def mEdge (hi off : Word) (m : Member) : State :=
  { crewed m0 (put 7 hi ∘ put 6 off ∘ fun c => { c with mask := 1 }) with groups := [{ groupOf [] with members := [m] }] }

/-- The crew's own member. -/
def mine : Member := ⟨0, 0x800, 0, false, 0, 0x10000⟩

/-- Addresses that are none of a window: the least of 2^48, a handle without a group, a group of another's, the first byte past
the window, and bytes the last of which are past it. -/
theorem witness_windowRange : ∀ s ∈ [mEdge 0x10000 0 mine, mEdge 0x200 0 mine, mEdge 0x100 0 { mine with node := 0x900 }, mEdge 0x100 0x1000 mine,
      mEdge 0x100 0xFFE mine], (∀ i ∈ winWords, Goes i s (cx s)) ∧ (requests (cx s) false 6 0).map (·.t) = [0] := by
  have h : ([mEdge 0x10000 0 mine, mEdge 0x200 0 mine, mEdge 0x100 0 { mine with node := 0x900 }, mEdge 0x100 0x1000 mine,
      mEdge 0x100 0xFFE mine].all fun s => winWords.all (fun i => goes i s) && (requests (cx s) false 6 0).map (·.t) == [0]) = true := by
    decide +kernel
  intro s hs
  have k := List.all_eq_true.mp h s hs
  simp only [Bool.and_eq_true, beq_iff_eq, List.all_eq_true] at k
  exact ⟨fun i hi => goes_of (k.1 i hi), k.2⟩

/-- The group of an ancestor of the crew's region, in which its workgroup is a member (R378). -/
@[irreducible] def mAncestor : State :=
  { mWin 0x100 [] with
    nodes := m0.nodes.map fun n => { n with chain := [(0x600, loadEff), (0x400, loadEff)] }
    groups := [{ groupOf [] with region := 0x400 }] }

theorem witness_windowAncestor : (∀ i ∈ winWords, Runs i mAncestor (cx mAncestor)) ∧ (cx mAncestor).w.region = 0x600 :=
  ⟨runs_all (l := winWords) (g := id) (s := mAncestor) (by decide +kernel), by decide +kernel⟩

/-- The addresses of those: the least from 2^48 on, the last byte of the address space of a handle, the edge of the window. -/
theorem witness_windowEdges : (requests (cx (mEdge 0x10000 0 mine)) false 6 0).map (·.addr) = [2 ^ 48] ∧
    (requests (cx (mEdge 0x200 0 mine)) false 6 0).map (·.addr) = [2 ^ 41] ∧ (groupOf []).handle = 1 ∧
    (requests (cx (mEdge 0x100 0x1000 mine)) false 6 0).map (·.addr) = [2 ^ 40 + 0x1000] ∧ (groupOf []).wsize = 0x1000 := by
  decide +kernel

/-- A translation of an address, if it has one. -/
def xlOk (s : State) (root a : Nat) : Bool := ((s.xlate root a .store).2).isOk

theorem xl_of {s : State} {root a : Nat} (h : xlOk s root a = true) : ∃ p s', s.xlate root a .store = (s', .ok p) := by
  unfold xlOk at h
  obtain ⟨p, hp⟩ := ok_of h
  exact ⟨p, _, Prod.ext rfl hp⟩

theorem witness_roundDelivery : let s := mWin 0x100 [⟨0, [(0, 5)], []⟩]; let g := groupOf [⟨0, [(0, 5)], []⟩]; let r : Round := ⟨0, [(0, 5)], []⟩
    s.groups.find? (·.id == 20) = some g ∧ g.rounds.find? (·.off == 0) = some r ∧ s.roundFull g r = true ∧ s.routeUp g = true ∧
    (∀ m, g.members[0]? = some m → s.local m = true ∧ m.count = false ∧ s.memberRoot m = some 0x300000000 ∧ m.buf = 0x10000) ∧
    (∀ j q, g.members[j]? = some q → j ≠ 0 → s.local q = false) ∧
    ∃ p s', ({ s with fresh := s.fresh + g.members.length }.setGroup { g with rounds := [] }).xlate 0x300000000 0x10000 .store = (s', .ok p) := by
  refine ⟨by decide +kernel, by decide +kernel, by decide +kernel, by decide +kernel, ?_, ?_, xl_of (by decide +kernel)⟩
  · rintro m h
    obtain rfl : (⟨0, 0x800, 0, false, 0, 0x10000⟩ : Member) = m := by simpa [groupOf] using h
    decide +kernel
  · rintro j q h hj
    cases j with
    | zero => exact absurd rfl hj
    | succ n => simp [groupOf] at h

/-- A descriptor at 0x1000: region 0x600, handle 1, one member at 0x2000, window of 4 KiB; the member is on device 7. -/
@[irreducible] def mGrp (groups : List Group) : State :=
  { State.reset with
    mem := memWrite (memWrite [] 0x1000 (leBytes (0x600 + 1 * 2 ^ 64 + 0x1000 * 2 ^ 128 + 0x2000 * 2 ^ 192) 64)) 0x2000
      (leBytes (7 * 2 ^ 192) 32)
    groups := groups }

theorem witness_groups : (let s := mGrp []; s.port.ready = true ∧ s.portUp = true ∧ s.failing = [] ∧ (s.groupFrom 0x1000).isSome = true ∧
      memNat s.mem 0x1000 64 = 0x600 + 1 * 2 ^ 64 + 0x1000 * 2 ^ 128 + 0x2000 * 2 ^ 192 ∧ memNat s.mem 0x2000 32 = 7 * 2 ^ 192 ∧
      populated 0x1000 64 = true ∧ populated 0x2000 32 = true ∧ s.port.devnum = 0 ∧ (s.groups.find? (·.desc == 0x3000)) = none) ∧
    (let s := mGrp [groupOf []]; s.groups.find? (·.desc == 0x1000) = some (groupOf []) ∧ (groupOf []).handle = 1) ∧
    (mGrp [groupOf [⟨0, [], []⟩]]).groups.find? (·.desc == 0x1000) = some (groupOf [⟨0, [], []⟩]) := by decide +kernel

/-! Witnesses: nodes and workgroups -/

/-- A READY node of a kind at 0x1000 with no successor. -/
@[irreducible] def mNode (kind arg : Nat) (mem : List Host.Cell) : State :=
  { State.reset with
    mem := mem, regions := [loadRegion]
    nodes := [{ loadNode 1 (runCells loadAddr []) with addr := 0x1000, kind := kind, running := false, next := 0, arg := arg }], nextId := 3 }

/-- Tables with the shadowed page of the publishing test. -/
def shadowTables : List Host.Cell :=
  memWrite tables 0x300006010 (leBytes (1 + 3 * 2 ^ 11 + 2 ^ 15 + 3 * 2 ^ 24 + 0x200 * 2 ^ 28 + 2 ^ 80 + 0x400 * 2 ^ 92) 16)

/-- The node of such a machine. -/
def node0 (s : State) : NodeRun := s.nodes.getD 0 (loadNode 0 [])

/-- Records of a bulk copy at 0x1080 and 0x10C0, its block at 0x1100. -/
def bulkMem : List Host.Cell :=
  memWrite (memWrite (memWrite tables 0x1080 (recordOf false 4 0x2000)) 0x10C0 (recordOf false 4 0x3000)) 0x1100
    (leBytes (0x1080 + 0x10C0 * 2 ^ 64) 96)

theorem witness_nodeSteps : (∀ k ∈ [0, 1, 2, 3], (mNode k 0 []).nodes.find? (fun n => n.addr == 0x1000 && !n.running && !n.closed) =
      some (node0 (mNode k 0 [])) ∧ (node0 (mNode k 0 [])).kind = k ∧ (∀ w ∈ (mNode k 0 []).wgs, w.launch ≠ 1)) ∧
    HoldsBack (mNode 0 0 []) (node0 (mNode 0 0 [])) ∧
    ((mNode 3 0x200000 shadowTables).publSet 0x300000000 0x200000).2.isOk = true ∧ (node0 (mNode 3 0x200000 shadowTables)).nsucc = 0 ∧
    ((mNode 2 0x1100 bulkMem).bulkCheck (node0 (mNode 2 0x1100 bulkMem))).2.isOk = true ∧
    (let s := mNode 1 0 tables; let n := node0 s; n.unplaced = true ∧ s.heldByOrder n = false ∧ n.desc.allin = false ∧
      n.eff.redun = 0 ∧ (s.nodes.map (·.id)).Nodup ∧ 0 < s.cores.length ∧ s.takes n 0 n.desc.ask = true ∧
      (s.pickSpots n.eff 0 n.desc.crews).length = n.desc.crews) ∧
    (∀ k ∈ [0, 3, 2], ((mNode k 0 []).nodes.map (·.id)).Nodup) := by
  refine ⟨by decide +kernel, ?_, by decide +kernel, by decide +kernel, by decide +kernel, by decide +kernel, by decide +kernel⟩
  unfold HoldsBack; decide +kernel

/-- A join with one successor, at 0x2000, that waits for one more. -/
@[irreducible] def mJoin : State :=
  let s := mNode 0 0 (memWrite (memWrite [] 0x1200 (leBytes 0x2000 8)) 0x2004 [2])
  { s with nodes := s.nodes.map fun n => { n with succ := 0x1200, nsucc := 1 } }

theorem witness_successors : HoldsBack mJoin (node0 mJoin) ∧ (node0 mJoin).nsucc = 1 ∧ (node0 mJoin).kind = 0 := by
  unfold HoldsBack; decide +kernel

/-- The command that a bulk copy starts as, all landed, with its node RUNNING. -/
@[irreducible] def mBulkEnd : State :=
  let s := mNode 2 0x1100 bulkMem
  { s with
    nodes := s.nodes.map fun n => { n with running := true }
    copies := match (s.bulkCheck (node0 s)).2 with | .ok k => [{ k with landed := k.total }] | .error _ => [] }

theorem witness_bulkCopyEnd : mBulkEnd.bulkCmd 0x1000 = mBulkEnd.copies[0]? ∧ mBulkEnd.copies.all (fun k => k.landed == k.total) = true ∧
    mBulkEnd.copies.length = 1 ∧ mBulkEnd.nodes.find? (fun n => n.addr == 0x1000 && n.kind == 2 && n.running) = some (node0 mBulkEnd) ∧
    HoldsBack mBulkEnd (node0 mBulkEnd) ∧ (∀ w ∈ mBulkEnd.wgs, w.launch ≠ 1) ∧ (node0 mBulkEnd).nsucc = 0 ∧
    ¬ ((node0 mBulkEnd).succ < 0x1000 + 128 ∧ 0x1000 < (node0 mBulkEnd).succ) := by
  refine ⟨by decide +kernel, by decide +kernel, by decide +kernel, by decide +kernel, ?_, by decide +kernel, by decide +kernel, by decide +kernel⟩
  unfold HoldsBack; decide +kernel

/-- The block of a root region, a system region of priority 0 (R248). -/
def rootBlock : Nat :=
  0x7FFF * 2 ^ 64 + 2 ^ 104 + 2 ^ 105 + 0x300000000 * 2 ^ 128 + 0x500000000 * 2 ^ 192 + 0x10000 * 2 ^ 256 + 0x600000000 * 2 ^ 320 +
    0x700000000 * 2 ^ 384 + 64 * 2 ^ 448 + 256 * 2 ^ 464 + 98304 * 2 ^ 480 + 49152 * 2 ^ 512 + 15 * 2 ^ 528

/-- A join node at 0x1000 of a region at 0x2000, and a doorbell for it at priority 0. -/
@[irreducible] def mBell : State :=
  { State.reset with
    mem := memWrite (memWrite [] 0x1008 (leBytes 0x2000 8)) 0x2000 (leBytes rootBlock 512)
    port := { State.reset.port with dbells := State.reset.port.dbells.set 0 [(0x1000, [])] } }

/-- The region and its ancestors. -/
def chainOf (s : State) (a : Nat) : List Region :=
  match s.loadChain 16 a with
  | .ok l => l
  | .error _ => []

theorem witness_doorbells : State.reset.port.ready = true ∧ State.reset.portUp = true ∧ State.reset.port.dbells.length = 16 ∧ (0x1000 : DWord).toNat % 128 = 0 ∧
    (State.reset.port.dbells.getD 3 []).length < 256 ∧ mBell.port.bell = some (0, 0x1000, []) ∧ populated 0x1000 128 = true ∧
    mBell.failing = [] ∧ (mBell.nodeWord 0x1000).state = 0 ∧ (mBell.nodeWord 0x1000).pending = 0 ∧ (mBell.nodeWord 0x1000).bad = false ∧
    (mBell.nodeWord 0x1000).kind = 0 ∧ (mBell.loadChain 16 (mBell.nodeWord 0x1000).region).isOk = true ∧
    (chainOf mBell 0x2000).map (fun r => (r.rcb, r.eff.prio)) = [(0x2000, 0)] ∧
    (mBell.enterChain (chainOf mBell 0x2000)).domainKilled 0x2000 = false := by decide +kernel

/-- A full doorbell queue. -/
theorem witness_doorbellFull : let s : State := { State.reset with
      port := { State.reset.port with dbells := State.reset.port.dbells.set 15 (List.replicate 256 (0x1000, [])) } }
    s.port.ready = true ∧ s.portUp = true ∧ 256 ≤ (s.port.dbells.getD 15 []).length ∧ s.port.dbells.length = 16 ∧
      (0x1040 : DWord).toNat % 128 ≠ 0 := by decide +kernel

/-! Witnesses: workgroups -/

theorem witness_placement : let s := mNode 1 0 tables; let n := node0 s
    s.launchAt 0x1000 = some n ∧ n.unplaced = true ∧ s.heldByOrder n = false ∧ s.takes n 0 n.desc.ask = true ∧
    s.spotsFit 0 n.desc.crews [⟨3, 15, 1023⟩] = true ∧ s.sharesFit n.eff [⟨3, 15, 1023⟩] = true ∧
    s.shadowFits n 0 [⟨3, 15, 1023⟩] none = true ∧ n.desc.allin = false ∧ (s.nodes.map (·.id)).Nodup ∧
    (∀ w ∈ s.wgs, w.uid < s.nextId) ∧ ∀ c ∈ s.crews, c.wg < s.nextId := by decide +kernel

/-- Two crews of one workgroup, of a launch of four: the first waits to exit, or both have exited. -/
@[irreducible] def mEnd (done : Bool) : State :=
  { mKind 0 4 with
    crews := [{ newCrew (loadNode 1 []) 2 0 0 ⟨0, 0, 0⟩ with st := if done then .exited else .score, wait := if done then .none else .exit },
      { newCrew (loadNode 1 []) 2 0 1 ⟨1, 0, 1⟩ with st := if done then .exited else .ready }] }

theorem witness_workgroupEnd : (let s := mEnd false; let c := (own s).1; s.residentCrew ⟨2, 0⟩ = some (c, (own s).2) ∧ c.ref = ⟨2, 0⟩ ∧
      (own s).2.uid = 2 ∧ c.st = .score ∧ c.wait = .exit ∧ c.pend = [] ∧ ∃ k ∈ s.crews, k.wg = 2 ∧ k.idx ≠ 0 ∧ k.st ≠ .exited) ∧
    (let s := mEnd true; let w := (own s).2; s.residentCrew ⟨2, 0⟩ = some ((own s).1, w) ∧ (∀ k ∈ s.crews, k.wg = 2 → k.st = .exited) ∧
      s.copies = [] ∧ w.isShadow = false ∧ w.sampled = false ∧ (s.node? w.launch).any (fun n => !n.closed &&
        decide (n.done + 1 + w.withdrawn.length < n.total)) = true ∧ (s.nodes.map (·.id)).Nodup) :=
  ⟨⟨own_of (by decide +kernel), by decide +kernel⟩, own_of (by decide +kernel), by decide +kernel⟩

/-- One core, taken by a workgroup, and a launch of a higher priority that waits for it. -/
@[irreducible] def mPre : State :=
  { m0 with
    cores := [Core.zero], cur := none
    nodes := m0.nodes ++ [{ loadNode 5 [] with addr := 0x1000, eff := { loadEff with prio := 1 }, running := false, next := 0 }] }

theorem witness_save : let s := mPre; (s.wg? 2).any (fun w => w.uid == 2 && s.preempts w && !w.isShadow && s.saveReady w &&
      s.saveFits w 0x600000000 && w.queues.length == 8 && (s.node? w.launch).all (fun n => !n.desc.allin)) = true ∧
    (∀ c ∈ s.crews, c.runon = none) ∧ (∀ c ∈ s.crews, c.wg = 2 → c.pend = []) ∧ (s.crews.map Crew.ref).Nodup ∧
    (s.wgs.map (·.uid)).Nodup := by decide +kernel

/-- The same with the crew within a packet. -/
@[irreducible] def mPreBusy : State := crewed mPre fun c => { c with pc := 0xC0004 }

theorem witness_saveMark : let s := mPreBusy; (s.wg? 2).any (fun w => w.uid == 2 && s.preempts w && !w.isShadow && !s.saveReady w &&
    (s.node? w.launch).all (fun n => !n.desc.allin)) = true := by decide +kernel

/-- A saved workgroup. -/
@[irreducible] def mSaved : State := tune { m0 with cur := none } id fun w => { w with core := none, saveAddr := 0x600000000 }

/-- The saved workgroup itself. -/
def savedWg : Wg := (mSaved.wg? 2).getD (cx m0).w

/-- The same with its image in memory as it was written. -/
@[irreducible] def mImaged : State :=
  { mSaved with mem := memWrite tables 0x600000000 (savedWg.image (mSaved.crewsOf 2) [] savedWg.saveSeq) }

/-- Its image stands. -/
theorem witness_imageStands : let image := savedWg.image (mImaged.crewsOf 2) [] savedWg.saveSeq
    memRead mImaged.mem savedWg.saveAddr image.length = image := by
  have e : savedWg.saveAddr = 0x600000000 := by decide +kernel
  have k : mImaged.crewsOf 2 = mSaved.crewsOf 2 := by unfold mImaged; rfl
  intro image
  have h := memRead_memWrite tables 0x600000000 image
  have m : mImaged.mem = memWrite tables 0x600000000 image := by
    show mImaged.mem = memWrite tables 0x600000000 (savedWg.image (mImaged.crewsOf 2) [] savedWg.saveSeq)
    rw [k]; unfold mImaged; rfl
  rw [e, m]; exact h

theorem witness_restore : let s := mSaved; (s.wg? 2).any (fun w => w.uid == 2 && s.restoreRoom w 255 && s.spotsFit 255 w.ncrew [⟨3, 15, 0⟩] &&
      w.held.isEmpty && w.queues.length == 8 && s.crews.all (fun c => decide (c.idx < w.ncrew))) = true ∧ s.failing = [] ∧ s.copies = [] ∧
    (s.crews.map Crew.ref).Nodup := by decide +kernel

/-! Witnesses: reversal and recovery -/

/-- A crew past one word, in a walk back to a count. -/
@[irreducible] def mWalk (word : Word) (target : DWord) (wake : List WakeRec) : State :=
  crewed { machine [word] with cur := none } fun c =>
    { c with pc := 0xC0004, ic := 1, wake := wake, walk := some ⟨target, .rewind, 0, 0, [], [], []⟩ }

/-- What the statement on reverse steps asks of such a machine, with the instruction before. -/
def walkB (s : State) (i : Instr) : Bool :=
  (s.residentCrew ⟨2, 0⟩).any fun p => p.1.ref == ⟨2, 0⟩ && p.2.uid == 2 && p.1.st == .ready && p.1.halting == .none &&
    p.1.walk == some ⟨0, .rewind, 0, 0, [], [], []⟩ &&
    match s.prevInstr p.2 p.1.cursor with
    | (s', .ok q) => q.i == i && (p.1.backReads ⟨0, .rewind, 0, 0, [], [], []⟩ q.i).isEmpty && s'.failing.isEmpty && q.pfx.isNone
    | _ => false

/-- The old value of v4. -/
def oldV4 : WakeRec := { mask := allThreads, ic := 0, body := .reg 4 [⟨List.replicate 32 9, .U⟩] }

theorem witness_reverseSteps : walkB (mWalk 0x06081840 0 [oldV4]) (.imul ⟨4, 6, 8, false, false, false⟩) = true ∧
    undoOf (.imul ⟨4, 6, 8, false, false, false⟩) = .record ∧
    steppedGen (.imul ⟨4, 6, 8, false, false, false⟩) (own (mWalk 0x06081840 0 [oldV4])).1 = false ∧
    walkB (mWalk 0x78200028 0 []) (.iaddi ⟨4, 5, false⟩) = true ∧
    walkB (mWalk 0x04081BF8 0 []) (.iadd ⟨4, 6, 127, false, false, false⟩) = true ∧
    undoOf (.iadd ⟨4, 6, 127, false, false, false⟩) = .inverse ∧
    (own (mWalk 0x78200028 1 [])).1.ic ≤ 1 ∧ (own (mWalk 0x78200028 1 [])).1.walk = some ⟨1, .rewind, 0, 0, [], [], []⟩ := by decide +kernel

/-- A crew at a word that reads l0, which is invalid. -/
@[irreducible] def mLatch : State := { machine [0x0409C030] with cur := none }

theorem witness_latchLoss : let s : State := { mLatch with cur := some ⟨2, 0⟩ }; let x := cx s; let i : Instr := .iadd ⟨4, 112, 6, false, false, false⟩
    s.ctx = some x ∧ (match mLatch.fetchNext x.w x.c with
      | (t, d, .ok w) => w == 0x0409C030 && (firstFault i d x.w).isNone && lostLatch i d == some 0 && !isPrivileged i && t.failing.isEmpty
      | _ => false) = true ∧
    instrOf 0x0409C030 = i ∧ firstFault i x.c x.w = none ∧ isPrivileged i = false ∧ x.c.runon = none ∧ x.c.pendingRegs = [] ∧
    x.c.replays = [] ∧ x.c.failing (readRegs i) = [] ∧ lostLatch i x.c = some 0 ∧ x.c.pend = [] :=
  ⟨ctx_of (by decide +kernel), by decide +kernel⟩

theorem witness_registerError : Stands m0 ⟨2, 0⟩ (own m0).1 (own m0).2 ∧ (1 : Mask) ≠ 0 ∧ vecKind 95 = .v ∧ (95 : BitVec 7).toNat < (own m0).1.v.length ∧
    vecKind 103 = .o ∧ (own m0).1.st ≠ .exited :=
  ⟨⟨own_of (by decide +kernel), by decide +kernel, by decide +kernel⟩, by decide +kernel⟩

/-- A crew at a word that reads v6, threads of which fail, after one word that wrote v6 with a record, or with no record of
it left. -/
@[irreducible] def mFails (word : Word) (commit : DWord) (wake : List WakeRec) : State := crewed (machine [word]) fun c =>
  { c with pc := 0xC0004, ic := 1, commit := commit, wake := wake, badRegs := [(6, 3)] }

/-- The old value of v6. -/
def oldV6 : WakeRec := { mask := allThreads, ic := 0, body := .reg 6 [⟨List.replicate 32 9, .U⟩] }

theorem witness_failingWords (word : Word) (commit : DWord) (wake : List WakeRec)
    (h : (word, commit, wake) = (0x060C2840, 0, [oldV6]) ∨ (word, commit, wake) = (0xF84FFFC0, 1, [])) :
    let s := mFails word commit wake; let x := cx s; let i : Instr := .iadd gv
    Judged i s x ∧ firstFault i x.c x.w = none ∧ isPrivileged i = false ∧ x.c.runon = none ∧ x.c.pend = [] ∧ x.c.replays = [] ∧
    x.c.failing (readRegs i) = [6] ∧ x.c.badRegs.find? (·.1 == 6) = some (6, 3) ∧ s.failing = [] ∧ x.c.commit ≤ x.c.ic := by
  rcases h with h | h <;> cases h <;> exact ⟨judged_of (by decide +kernel), by decide +kernel⟩

/-- The instruction before it. -/
def lastWord : Instr := .imul ⟨6, 10, 8, false, false, false⟩

/-- The plan restores v6 from the record of the word before; where the commit count is reached first there is none. -/
theorem witness_plans : (let s := mFails 0x060C2840 0 [oldV6]; ∃ s', Plans (cx s).w (cx s).c.commit s (cx s).c.cursor [6] s' (some 0)) ∧
    let s := mFails 0xF84FFFC0 1 []; ∃ s', Plans (cx s).w (cx s).c.commit s (cx s).c.cursor [6] s' none := by
  constructor
  · intro s
    have hq : (s.prevInstr (cx s).w (cx s).c.cursor).2.toOption = some ⟨0xC0000, false, none, lastWord⟩ := by decide +kernel
    have hp : s.prevInstr (cx s).w (cx s).c.cursor = ((s.prevInstr (cx s).w (cx s).c.cursor).1, .ok ⟨0xC0000, false, none, lastWord⟩) := by
      refine Prod.ext rfl ?_
      cases h : (s.prevInstr (cx s).w (cx s).c.cursor).2 with
      | error e => rw [h] at hq; cases hq
      | ok q => rw [h] at hq; cases hq; rfl
    have hk : (cx s).c.cursor.wake = [oldV6] ∧ (cx s).c.cursor.ic = 1 ∧ ((cx s).c.cursor.back ⟨0xC0000, false, none, lastWord⟩).ic = 0 ∧
        (cx s).c.commit = 0 := by decide +kernel
    have hu : undoOf lastWord = .record := by decide +kernel
    have e := Plans.found (w := (cx s).w) (commit := (cx s).c.commit) ((s.prevInstr (cx s).w (cx s).c.cursor).1)
      ((cx s).c.cursor.back ⟨0xC0000, false, none, lastWord⟩)
    rw [hk.2.2.1] at e
    refine ⟨_, .back s _ _ _ [6] [] _ _ (by simp) (by rw [hk.2.1, hk.2.2.2]; decide) hp ?_ ?_ e⟩
    · rintro ⟨f, hf⟩; exact absurd hf (by simp [lastWord])
    · intro r
      refine iff_of_false (by simp) ?_
      rintro ⟨h, hn⟩
      have hr : r = 6 := by
        rcases h with h | ⟨h, _⟩
        · simpa using h
        · exact absurd h.1 (by rw [hu]; decide)
      subst hr
      apply hn
      unfold StepRestores
      rw [if_neg (by rw [hu]; decide), hk.1, hk.2.1]
      exact ⟨oldV6, by simp, by decide, 6, _, rfl, by decide, by decide⟩
  · intro s
    exact ⟨_, .atCommit _ _ _ (by simp) (by decide +kernel)⟩

/-! Witnesses: reliability -/

theorem witness_watchdog : ∀ st ∈ [CrewSt.blocked, .parked, .ready, .exited], let s := tune mUser (fun c => { c with st := st }) fun w => { w with hang := 2 ^ 34 }
    (s.wg? 2).any (fun w => w.uid == 2 && w.core.isSome && !w.isShadow && decide (2 ^ (19 + 15) ≤ w.hang) &&
      (s.effOf w).any fun e => e.wdog == 15 && !e.system) = true ∧ (∀ c ∈ s.crews, c.wg = 2 → c.st ≠ .halted) ∧
    (∀ c ∈ s.crews, c.runon = none) ∧ (∀ v ∈ s.wgs, v.shadowOf = none) ∧ (s.crews.map Crew.ref).Nodup ∧ (s.wgs.map (·.uid)).Nodup := by
  decide +kernel

/-- A record waits for a slot; channel 0 observes the region; samples are taken. -/
@[irreducible] def mRel : State :=
  { waiting { m0 with cur := none } (.barrier 0 0) with
    regions := [{ loadRegion with waiting := [(List.replicate 64 1, ⟨2, 0⟩)] }]
    port := { m0.port with profrate := 8, chans := [⟨1 + 12 * 2 ^ 16 + 3 * 2 ^ 32, 0x10000, 0⟩] } }

/-- A launch on cores 0 and 1, whose crews have waited longer on core 0. -/
@[irreducible] def mDvfs : State :=
  { m0 with
    wgs := m0.wgs ++ [newWg (loadNode 1 []) 3 1 1 none false]
    cores := (m0.cores.set 0 { m0.core 0 with waits := [(1, 9)] }).set 1 { m0.core 1 with waits := [(1, 2)] } }

theorem witness_dvfs : 1 < mDvfs.cores.length ∧ 2400 + 600 ≤ (mDvfs.core 0).mhz ∧ (mDvfs.core 1).mhz + 600 ≤ 4200 ∧
    (let l := loadNode 1 (runCells loadAddr (code [])); l ∈ mDvfs.nodes ∧ mDvfs.coresOf l.id = [0, 1] ∧
      (mapGet (mDvfs.core 0).waits l.id).getD 0 = 9 ∧ (mapGet (mDvfs.core 1).waits l.id).getD 0 = 2) := by decide +kernel

/-- A workgroup on core 0 that has yet to stop. -/
theorem witness_leaving : (mPreBusy.onCore 0).map (·.uid) = [2] ∧
    (mPreBusy.onCore 0).all (fun w => !w.isShadow && !mPreBusy.saveReady w && (mPreBusy.savePlace w).isSome) = true ∧
    (mPreBusy.core 0).leaving = false := by decide +kernel

theorem witness_reliabilityUnit : populated 0 1 = true ∧ 5 < m0.cores.length ∧ (m0.core 5).removed = false ∧ m0.onCore 5 = [] ∧
    (m0.onCore 0).map (·.uid) = [2] ∧ (m0.onCore 0).all (fun w => !w.isShadow && m0.saveReady w && (m0.savePlace w).isSome && m0.saveFits w 0x600000000) = true ∧
    mapGet [(2, 0x600000000)] 2 = some 0x600000000 ∧
    (mRel.region? 0x600).any (fun r => r.rcb == 0x600 && r.waiting == [(List.replicate 64 1, ⟨2, 0⟩)] && !mRel.slotFull r) = true ∧
    (mRel.crew? ⟨2, 0⟩).any (fun c => c.ref == ⟨2, 0⟩ && c.runon.isNone) = true ∧
    ((mRel.core 0).scheds[0]?).isSome = true ∧ (mRel.nextSampled 0 0 15).any (fun c => c.st == .blocked && c.idx == 0 && c.wg == 2) = true ∧
    (mRel.port.chans.filter fun k => k.ctl.getLsbD 0 && k.ctl.toNat / 2 ^ 32 == 0x600 / 512).length = 1 := by decide +kernel

/-- Link 3 fails a retrain at step 2; a fabric port too; link 9 has replayed 17 flits; port 10 runs at step 1. -/
@[irreducible] def mLinks : State :=
  { m0 with links := (((m0.links.set 3 ⟨2, 0, true, some 2⟩).set 8 ⟨2, 0, true, some 2⟩).set 9 ⟨0, 17, true, none⟩).set 10 ⟨1, 3, true, none⟩ }

theorem witness_kills : (m0.wg? 2).any (fun w => !w.isShadow) = true ∧ (∀ v ∈ m0.wgs, v.shadowOf ≠ some 2) ∧ m0.port.ready = true ∧ m0.portUp = true ∧ (m0.crew? ⟨2, 0⟩).any (fun c => c.ref == ⟨2, 0⟩) = true ∧
    (m0.wg? 2).any (fun w => w.uid == 2 && w.core.isSome && decide (256 * w.scrgran = 256 * 48)) = true ∧
    (0x30010 : DWord).toNat / 2 ^ 16 = 3 ∧ (0x40010 : DWord).toNat / 2 ^ 16 = 4 ∧ ((mTwo .ready).target 0x10).isSome = true ∧
    (∀ q ∈ (mTwo .ready).wgs, q.shadowOf = none) ∧ (mLinks.link 3).training = some 2 ∧ 3 < mLinks.links.length ∧
    (∀ q ∈ mLinks.wgs, q.shadowOf = none) := by decide +kernel

theorem witness_links : linkNumber 8 ∧ linkNumber 24 ∧ (mLinks.link 9).up = true ∧ (mLinks.link 9).training = none ∧ 16 < (mLinks.link 9).replays ∧
    (mLinks.link 10).replays ≤ 16 ∧ (mLinks.link 10).rate ≠ 0 ∧ (mLinks.link 8).training = some 2 ∧ 24 < mLinks.links.length ∧
    populated 0 4 = true ∧ populated 0xD000000000 4 = false := by unfold linkNumber; decide +kernel

/-- HBM4 without power is not populated, DDR-5 is. -/
theorem witness_there : there m0 0x1000 128 ∧ ¬ there { m0 with powered := false } 0x1000 128 := by decide +kernel

theorem witness_power : memWf m0.mem = true ∧ m0.port.pwrlim.toNat < 2401 ∧ 2279 * 100 < 95 * m0.port.pwrlim.toNat ∧
    90 + 5 ≤ m0.port.templim.toNat ∧ m0.port.force = false := by decide +kernel

/-! Witnesses: the port and the debug interface -/

theorem witness_portTransactions : let s := State.reset; s.port.ready = true ∧ s.portUp = true ∧ populated 0x100 256 = true ∧ 0x100 % 256 + 256 ≤ 256 ∧
    0x100 + 256 ≤ 0xF00000000000 ∧ populated 0xD000000000 4 = false := by decide +kernel

theorem witness_controlOperations : let s := mTwo .ready; let v : DWord := 0x10; let c := (other s).1
    s.port.ready = true ∧ s.portUp = true ∧ v.toNat / 2 ^ 20 = 0 ∧ v.toNat / 2 ^ 14 % 4 = 0 ∧ s.target (v.setWidth 32) = some (other s) ∧ OnlyCrew s c ∧
    (s.crews.map Crew.ref).Nodup ∧ c.wg = (other s).2.uid ∧ s.target 0x3F = none := by unfold OnlyCrew; decide +kernel

theorem witness_attestation : State.reset.port.ready = true ∧ State.reset.portUp = true ∧ State.reset.port.attstat ≠ 1 ∧ populated 0x1000 256 = true ∧ (0x1000 : DWord).toNat % 64 = 0 ∧
    (0x1020 : DWord).toNat % 64 ≠ 0 := by decide +kernel

/-- A machine whose crew stands in a state, the debug interface attached. -/
@[irreducible] def mHeld (st : CrewSt) : State := crewed mDbg fun c => { c with st := st, ic := 5, commit := 2, steps := some 3 }

theorem witness_debugCrews : (∀ st ∈ [CrewSt.ready, .blocked, .halted], (mHeld st).attached (own (mHeld st)).2 = true ∧
      (own (mHeld st)).1.st = st ∧ (own (mHeld st)).1.runon = none ∧ (own (mHeld st)).1.ref = ⟨2, 0⟩ ∧ (own (mHeld st)).2.uid = 2 ∧
      (own (mHeld st)).1.walk = none ∧ (own (mHeld st)).1.recWait = false ∧ (own (mHeld st)).1.steps = some 3 ∧
      ((mHeld st).residentCrew ⟨2, 0⟩).isSome = true ∧ ((mHeld st).crews.map Crew.ref).Nodup) ∧
    m0.attached (own m0).2 = false ∧ m0.residentCrew ⟨2, 5⟩ = none ∧ (own (mHeld .halted)).1.commit ≤ 3 ∧ 3 < (own (mHeld .halted)).1.ic ∧
    mDbg.port.ready = true ∧ mDbg.portUp = true ∧ mDbg.dbg.region.isSome = true ∧ (⟨0, 0, 0x1000, 4096, true, true⟩ : Watchpoint).base % 4096 = 0 := by decide +kernel

/-! Witnesses: the step -/

/-- A machine about to run NOP, by the agenda or by the schedulers. -/
@[irreducible] def mTurn (agenda : List Turn) : State := { machine [0xF84FFFC0] with agenda := agenda, cur := none }

/-- The word at the PC of a machine's crew. -/
def wordAt (s : State) : Option Word :=
  match (s.fetchNext (own s).2 (own s).1).2.2 with
  | .ok w => some w
  | .error _ => none

/-- The state in which a crew called by the agenda fetches. -/
def atTurn (s : State) : State := ({ s with agenda := [] } : State).called ⟨2, 0⟩

theorem witness_turnByAgenda : TurnOf (mTurn [.crew ⟨2, 0⟩]) (atTurn (mTurn [.crew ⟨2, 0⟩])) ⟨2, 0⟩ ∧
    (let s := atTurn (mTurn [.crew ⟨2, 0⟩]); Stands s ⟨2, 0⟩ (own s).1 (own s).2 ∧ (own s).1.st = .ready ∧
      (own s).1.walk = none ∧ (own s).1.expired = none ∧ wordAt s = some 0xF84FFFC0) ∧ decodeWord 0xF84FFFC0 = .ok (.nop fn) ∧
    goesOn (mTurn [.crew ⟨2, 0⟩]) = true :=
  ⟨⟨by decide +kernel, .inl ⟨[], by decide +kernel, rfl⟩⟩, ⟨⟨own_of (by decide +kernel), by decide +kernel, by decide +kernel⟩,
    by decide +kernel, by decide +kernel, by decide +kernel, by decide +kernel⟩, by decide +kernel, by decide +kernel⟩

theorem witness_turnBySelection : let s := mTurn []
    s.powered = true ∧ s.agenda = [] ∧ s.autoStep.isNone = true ∧ s.nextCore = some 0 ∧
    (((({ s with turn := 0 } : State).beginCycle 0).selectOn 0).map fun p => (p.1, p.2.1.ref, p.2.2)) = some (0, ⟨2, 0⟩, 0) ∧ goesOn s = true := by
  decide +kernel

/-- The same of a word that is no encoding. -/
@[irreducible] def mBadWord : State := { machine [0] with agenda := [.crew ⟨2, 0⟩], cur := none }

theorem witness_turnOfNoEncoding : wordAt (atTurn mBadWord) = some 0 ∧ (decodeWord 0).isOk = false ∧ goesOn mBadWord = true := by
  decide +kernel

/-- A word whose walk has not found the producer of its latch reads a lost one. -/
theorem witness_lostRead : let s := crewed m0 fun c => { c with replays := [⟨c.ic, true, true, [], []⟩] }
    lostRead (.mov { gu with a := 112 }) (cx s) = true ∧ lostRead (.mov gu) (cx m0) = false := by
  decide +kernel

/-- The pages of the code are gone; a walk; an expired watchdog; no power, with nothing to do and with a report to write. -/
theorem witness_stepWithoutAWord : (let s : State := { mTurn [] with mem := [] }; (own s).1.st = .ready ∧ (own s).1.walk = none ∧
      (own s).1.expired = none ∧ wordAt s = none) ∧
    ((own (mWalk 0x78200028 0 [])).1.walk.isSome = true ∧ (own (mWalk 0x78200028 0 [])).1.st = .ready) ∧
    (own (crewed (mTurn []) fun c => { c with expired := some 16 })).1.expired = some 16 ∧
    goesOn { State.reset with agenda := [.event .warmReset] } = true ∧
    goesOn { State.reset with powered := false, agenda := [.event (.powerOnReset .ready)] } = true ∧
    goesOn { State.reset with powered := false, agenda := [.event .warmReset] } = true ∧
    goesOn { State.reset with powered := false, agenda := [.event (.timingReplay 0)] } = false ∧
    goesOn { State.reset with powered := false, agenda := [] } = true ∧
    goesOn { State.reset with powered := false, port := { State.reset.port with att := [(0x200000000, 0)], attstat := 1 } } = true ∧
    (match exec .doorbellServe { State.reset with powered := false, port := { State.reset.port with dbells := [[(0x1000, [])]] } } with
      | .next t => t.port.dbells == [[]]
      | _ => false) = true := by
  decide +kernel

/-- A crew of the test machine's scheduler with so long a wait. -/
def waited (slot n : Nat) : Crew := { newCrew (loadNode 1 []) 2 0 slot ⟨0, slot, 0⟩ with waitcnt := n }

/-- The selections of R264: the longest wait at 16, the one before up to eight packets, then the longest wait. -/
theorem witness_selection264 : (((⟨some ⟨2, 0⟩, 3, 15⟩ : Sched).select [waited 0 0, waited 1 16]).map fun p => (p.1.slot, p.2)) = some (1, 0) ∧
    (((⟨some ⟨2, 0⟩, 3, 15⟩ : Sched).select [waited 0 0, waited 1 15]).map fun p => (p.1.slot, p.2)) = some (0, 3) ∧
    (((⟨some ⟨2, 0⟩, 8, 15⟩ : Sched).select [waited 0 0, waited 1 2, waited 2 2]).map fun p => (p.1.slot, p.2)) = some (1, 0) := by
  decide +kernel

/-- A crew with its chain partly issued is kept, however long another waits; so is one with a prefix. -/
theorem witness_midChain : (((⟨some ⟨2, 0⟩, 9, 15⟩ : Sched).select [{ waited 0 0 with chain := true }, waited 1 99]).map fun p => (p.1.slot, p.2)) =
      some (0, 9) ∧
    (((⟨some ⟨2, 0⟩, 9, 15⟩ : Sched).select [{ waited 0 0 with pfx := some fp }, waited 1 99]).map fun p => (p.1.slot, p.2)) = some (0, 9) ∧
    MidChain { waited 0 0 with chain := true } ∧ MidChain { waited 0 0 with pfx := some fp } ∧
    MidPacket { waited 0 0 with pc := 4 } := by
  unfold MidChain MidPacket; decide +kernel

theorem witness_cycleEnds : ((mTwo .ready).crews.map Crew.ref).Nodup ∧ 0 < (mTwo .ready).cores.length := by decide +kernel

/-- A word that waits and has not issued, and one that waits having issued. -/
theorem witness_cycleEnds_waits : ∀ e ∈ [(CrewSt.blocked, Wait.window, false), (.blocked, .mailbox, false),
    (.score, .pendingReg, false), (.score, .accrd, true), (.blocked, .yield 3, true)],
    let s := crewed (mTwo .ready) fun k => if k.wg == 2 then { k with st := e.1, wait := e.2.1 } else k
    ((s.crew? ⟨2, 0⟩).any fun d => d.st == e.1 && d.wait == e.2.1 && d.walk.isNone && d.ref == ⟨2, 0⟩ &&
      wordIssued s { d with st := .ready, wait := .none } false == e.2.2) = true := by decide +kernel

/-- A state in the form that every step keeps, and a step from it. -/
theorem witness_invariant : (mTurn []).Inv ∧ goesOn (mTurn []) = true := by unfold State.Inv; decide +kernel

/-! Decoding: words put together field by field from R52 and R67 to R69 -/

theorem test_decode_integer :
    decodeWord (0x01#6 ++ 2#2 ++ 4#7 ++ 5#7 ++ 6#7 ++ 0#1 ++ 1#1 ++ 0#1) = .ok (.imul ⟨4, 5, 6, false, true, false⟩) ∧
    decodeWord (0x05#6 ++ 2#2 ++ 95#7 ++ 112#7 ++ 127#7 ++ 0#1 ++ 0#1 ++ 1#1) = .ok (.sar ⟨95, 112, 127, false, false, true⟩) ∧
    decodeWord (0x08#6 ++ 2#2 ++ 4#7 ++ 6#7 ++ 8#7 ++ 1#1 ++ 0#1 ++ 0#1) = .ok (.add64 ⟨4, 6, 8, true, false, false⟩) := by decide

theorem test_decode_compare :
    decodeWord (0x0A#6 ++ 1#2 ++ 3#7 ++ 5#7 ++ 6#7 ++ 0#1 ++ 0#1 ++ 0#1) = .ok (.icmpUle ⟨3, 5, 6, false, false, false⟩) ∧
    decodeWord (0x0B#6 ++ 3#2 ++ 1#7 ++ 2#7 ++ 127#7 ++ 0#1 ++ 0#1 ++ 0#1) = .ok (.pnot ⟨1, 2, 127, false, false, false⟩) := by decide

theorem test_decode_floating :
    decodeWord (0x0F#6 ++ 5#3 ++ 7#7 ++ 8#7 ++ 9#7 ++ 1#1 ++ 0#1) = .ok (.fmul ⟨5, 7, 8, 9, true, false⟩) ∧
    decodeWord (0x15#6 ++ 0#3 ++ 7#7 ++ 8#7 ++ 9#7 ++ 0#1 ++ 1#1) = .ok (.bfma2 ⟨0, 7, 8, 9, false, true⟩) ∧
    decodeWord (0x17#6 ++ 3#2 ++ 7#7 ++ 8#7 ++ 127#7 ++ 0#1 ++ 0#1 ++ 0#1) = .ok (.tanh ⟨7, 8, 127, false, false, false⟩) ∧
    decodeWord (0x19#6 ++ 1#2 ++ 7#7 ++ 8#7 ++ 9#7 ++ 0#1 ++ 0#1 ++ 0#1) = .ok (.unpk ⟨7, 8, 9, false, false, false⟩) := by decide

theorem test_decode_lane :
    decodeWord (0x1A#6 ++ 3#2 ++ 7#7 ++ 8#7 ++ 9#7 ++ 0#1 ++ 0#1 ++ 0#1) = .ok (.dot4f ⟨7, 8, 9, false, false, false⟩) ∧
    decodeWord (0x1B#6 ++ 2#2 ++ 7#7 ++ 8#7 ++ 120#7 ++ 0#1 ++ 0#1 ++ 0#1) = .ok (.matchAny ⟨7, 8, 120, false, false, false⟩) ∧
    decodeWord (0x1D#6 ++ 2#2 ++ 7#7 ++ 8#7 ++ 120#7 ++ 0#1 ++ 0#1 ++ 0#1) = .ok (.scanlMin ⟨7, 8, 120, false, false, false⟩) := by decide

theorem test_decode_immediate :
    decodeWord (0x1E#6 ++ 12#7 ++ 0xABCD#16 ++ 3#2 ++ 0#1) = .ok (.movih ⟨12, 0xABCD, false⟩) ∧
    decodeWord (0x20#6 ++ 31#7 ++ 0x8001#16 ++ 3#2 ++ 0#1) = .ok (.saddi ⟨31, 0x8001, false⟩) := by decide

theorem test_decode_memory :
    decodeWord (0x25#6 ++ 8#7 ++ 4#7 ++ 0x7F#7 ++ 1#2 ++ 1#2 ++ 0#1) = .ok (.ld128 ⟨8, 4, 0x7F, 1, 1, false⟩) ∧
    decodeWord (0x26#6 ++ 8#7 ++ 4#7 ++ 3#7 ++ 0#2 ++ 0#2 ++ 0#1) = .ok (.st8 ⟨8, 4, 3, 0, 0, false⟩) ∧
    decodeWord (0x2E#6 ++ 2#2 ++ 8#7 ++ 4#7 ++ 6#7 ++ 1#2 ++ 0#1) = .ok (.atomCas ⟨8, 4, 6, 1, false⟩) ∧
    decodeWord (0x31#6 ++ 1#2 ++ 8#7 ++ 4#7 ++ 6#7 ++ 0#2 ++ 1#1) = .ok (.atomUmaxScr ⟨8, 4, 6, 0, true⟩) := by decide

theorem test_decode_branch :
    decodeWord (0x34#6 ++ 1#1 ++ 5#3 ++ 0x1FFFFF#21 ++ 0#1) = .ok (.brp ⟨true, 5, 0x1FFFFF, false⟩) ∧
    decodeWord (0x37#6 ++ 0#1 ++ 7#3 ++ 1#21 ++ 0#1) = .ok (.flip ⟨false, 7, 1, false⟩) ∧
    decodeWord (0x3E#6 ++ 0x07#6 ++ 4#7 ++ 127#7 ++ 0#5 ++ 0#1) = .ok (.commit ⟨4, 127, 0, false⟩) := by decide

theorem test_decode_system :
    decodeWord (0x38#6 ++ 0x09#6 ++ 4#7 ++ 6#7 ++ 3#5 ++ 0#1) = .ok (.tlbiSize ⟨4, 6, 3, false⟩) ∧
    decodeWord (0x39#6 ++ 0x15#6 ++ 127#7 ++ 127#7 ++ 0#5 ++ 0#1) = .ok (.fence 5 ⟨127, 127, 0, false⟩) ∧
    decodeWord (0x39#6 ++ 0x2B#6 ++ 4#7 ++ 6#7 ++ 24#5 ++ 0#1) = .ok (.gath 3 ⟨4, 6, 24, false⟩) ∧
    decodeWord (0x3C#6 ++ 0x18#6 ++ 4#7 ++ 6#7 ++ 24#5 ++ 0#1) = .ok (.cpy 0x18 ⟨4, 6, 24, false⟩) ∧
    decodeWord (0x3D#6 ++ 0x0C#6 ++ 127#7 ++ 127#7 ++ 9#5 ++ 0#1) = .ok (.yield ⟨127, 127, 9, false⟩) := by decide

theorem test_decode_units :
    decodeWord (0x3A#6 ++ 0x1A#6 ++ 4#7 ++ 127#7 ++ 5#5 ++ 0#1) = .ok (.mtileZ 2 ⟨4, 127, 5, false⟩) ∧
    decodeWord (0x3A#6 ++ 0x3C#6 ++ 4#7 ++ 6#7 ++ 5#5 ++ 0#1) = .ok (.perturb ⟨4, 6, 5, false⟩) ∧
    decodeWord (0x3B#6 ++ 0x1F#6 ++ 4#7 ++ 8#7 ++ 1#5 ++ 0#1) = .ok (.decodeSwn 7 ⟨4, 8, 1, false⟩) := by decide

/-- Major 0, and sub-ops and minors that no table assigns, are no instruction (R67 to R70). -/
theorem test_decode_unassigned : (decodeWord (0x00#6 ++ 0#26)).isOk = false ∧ (decodeWord (0x08#6 ++ 3#2 ++ 0#24)).isOk = false ∧
    (decodeWord (0x39#6 ++ 0x06#6 ++ 0#20)).isOk = false ∧ (decodeWord (0x3C#6 ++ 0x08#6 ++ 0#20)).isOk = false ∧
    (decodeWord (0x3D#6 ++ 0x12#6 ++ 0#20)).isOk = false := by decide

/-! Well-formed instructions, and for each check a term that it refuses -/

theorem smoke_wellFormed : wellFormed (.iadd ⟨4, 5, 6, false, false, false⟩) = true ∧ wellFormed (.cpy 0x18 ⟨4, 6, 24, false⟩) = true ∧
    wellFormed (.pfx ⟨0x25, 0, 1, 10, 0, true⟩) = true ∧ wellFormed (.coldReset .ready) = true := by decide

/-- Selector bits: a scope above 5, a third transform, an expansion between scratchpad places (R68, R69). -/
theorem smoke_selector : wellFormed (.fenceAcq 6 ⟨127, 127, 0, false⟩) = false ∧ wellFormed (.fenceRel 7 ⟨127, 127, 0, false⟩) = false ∧
    wellFormed (.fence 6 ⟨127, 127, 0, false⟩) = false ∧ wellFormed (.cpy 0x1C ⟨4, 6, 24, false⟩) = false ∧
    wellFormed (.cpy 0x08 ⟨4, 6, 24, false⟩) = false := by decide

/-- Operands: a unary word with a b, an odd pair, a register that is none, a reserved rounding mode, a width (R53 to R65). -/
theorem smoke_operands : wellFormed (.mov ⟨4, 5, 6, false, false, false⟩) = false ∧ wellFormed (.add64 ⟨5, 6, 8, false, false, false⟩) = false ∧
    wellFormed (.iadd ⟨122, 5, 6, false, false, false⟩) = false ∧ wellFormed (.fadd ⟨7, 4, 5, 6, false, false⟩) = false ∧
    wellFormed (.atomAdd ⟨8, 4, 6, 3, false⟩) = false := by decide

/-- A prefix with a bad pattern, guard 15, reserved bits, or C = 0 (R61, R62); a chain on a transfer (R48). -/
theorem smoke_prefix : wellFormed (.pfx ⟨0x7F, 0, 1, 10, 0, true⟩) = false ∧ wellFormed (.pfx ⟨0x25, 0x7F, 1, 10, 0, true⟩) = false ∧
    wellFormed (.pfx ⟨0x25, 0, 1, 15, 0, true⟩) = false ∧ wellFormed (.pfx ⟨0x25, 0, 1, 10, 1, true⟩) = false ∧
    wellFormed (.pfx ⟨0x25, 0, 1, 10, 0, false⟩) = false ∧ wellFormed (.bra ⟨false, 1, 2, true⟩) = false := by decide

/-- Steps that are no word, each argument out of its range. -/
theorem smoke_events : wellFormed (.workgroupPlace 0 256 [] none) = false ∧ wellFormed (.workgroupRestore 0 0 [⟨4, 0, 0⟩]) = false ∧
    wellFormed (.workgroupRestore 0 0 [⟨0, 16, 0⟩]) = false ∧ wellFormed (.pcSample 0 4) = false ∧ wellFormed (.timingReplay 256) = false ∧
    wellFormed (.coreRemoval 256 []) = false ∧ wellFormed (.dvfsAdjust 0 1 1801) = false ∧ wellFormed (.controlNodeRead 0xFF 2) = false ∧
    wellFormed (.controlNodeWrite 0 []) = false ∧ wellFormed (.debugStep ⟨2, 0⟩ 0) = false ∧
    wellFormed (.debugWatchpointSet 0 ⟨0, 0, 2, 4, true, true⟩) = false ∧ wellFormed (.registerErrorRecovery ⟨2, 0⟩ 104 1) = false ∧
    wellFormed (.registerErrorRecovery ⟨2, 0⟩ 4 0) = false := by decide

/-! Results worked out by hand from the rules -/

/-- Something of the crew after a word. -/
def after {α : Type} (i : Instr) (s : State) (f : Crew → α) : Option α :=
  match exec i s with
  | .next t => (t.crew? ⟨2, 0⟩).map f
  | _ => none

/-- A value of thread th of a register after a word. -/
def got (i : Instr) (s : State) (n th : Nat) : Option Word := after i s fun c => lane (c.vreg n).vals th

/-- Values in v4, v6 and v8; only the last thread active. -/
def vals (d a b : Word) : State := crewed m0 (put 4 d ∘ put 6 a ∘ put 8 b ∘ fun c => { c with mask := 0x80000000 })

/-- Sums wrap, in active threads only (R114). -/
theorem test_iadd : got (.iadd gv) (vals 7 0xFFFFFFFF 3) 4 31 = some 2 ∧ got (.iadd gv) (vals 7 0xFFFFFFFF 3) 4 0 = some 7 := by
  decide +kernel

/-- The high half of a signed and of an unsigned product (R114). -/
theorem test_imulh : got (.imulh gv) (vals 0 0xFFFFFFFF 2) 4 31 = some 0xFFFFFFFF ∧ got (.imulhu gv) (vals 0 0xFFFFFFFF 2) 4 31 = some 1 := by
  decide +kernel

/-- Shifts of the full width and more (R116). -/
theorem test_shifts : got (.shl gv) (vals 0 1 32) 4 31 = some 0 ∧ got (.sar gv) (vals 0 0x80000000 99) 4 31 = some 0xFFFFFFFF := by
  decide +kernel

/-- 1 + 2^-24 is a tie and rounds to even, as 1 + 2^-23 + 2^-24 does (R97, R100). -/
theorem test_fadd_tie : got (.fadd ⟨0, 4, 6, 8, false, false⟩) (vals 0 0x3F800000 0x33800000) 4 31 = some 0x3F800000 ∧
    got (.fadd ⟨0, 4, 6, 8, false, false⟩) (vals 0 0x3F800001 0x33800000) 4 31 = some 0x3F800002 := by decide +kernel

/-- Infinity less infinity is the canonical NaN (R89, R125). -/
theorem test_fsub_invalid : got (.fsub ⟨0, 4, 6, 8, false, false⟩) (vals 0 0x7F800000 0x7F800000) 4 31 = some 0x7FC00000 := by
  decide +kernel

/-- The square root of 2 to nearest (R87, R130). -/
theorem test_sqrt : got (.sqrt ⟨4, 6, 127, false, false, false⟩) (vals 0 0x40000000 0) 4 31 = some 0x3FB504F3 := by decide +kernel

/-- A load is little-endian and a byte load zero-extends (R6, R205). -/
theorem test_load : got (.ld32 ⟨4, 6, 1, 0, 1, false⟩) (tune (vals 0 0x10 0) id fun w => { w with scr := [(0x14, 0x78), (0x17, 0x92)] }) 4 31 =
    some 0x92000078 := by decide +kernel

/-- A store of zero writes zeros in every word, not the thread's number in the second (R64, R205). -/
theorem test_store_zero : (match exec (.st64 ⟨120, 6, 0, 0, 1, false⟩) (tune (vals 0 0x10 0) id fun w => { w with scr := [(0x10, 9), (0x14, 9)] }) with
      | .next t => (t.wg? 2).map fun w => memNat w.scr 0x10 8
      | _ => none) = some 0 := by decide +kernel

/-- An atomic answers with the old value (R211). -/
theorem test_atomic : got (.atomAddScr fa) (tune (vals 0 0x10 5) id fun w => { w with scr := [(0x10, 9)] }) 4 31 = some 9 ∧
    (match exec (.atomAddScr fa) (tune (vals 0 0x10 5) id fun w => { w with scr := [(0x10, 9)] }) with
      | .next t => (t.wg? 2).map fun w => memNat w.scr 0x10 4
      | _ => none) = some 14 := by decide +kernel

/-- TRAP in a system region goes to the handler, past itself (R303). -/
theorem test_trap : after (.trap { fn with imm := 5 }) (mVec false) (fun c => (c.pc, c.tpc, c.intrap)) = some (24, 0xC0004, true) := by
  decide +kernel

/-- A warm reset puts a channel's control and a limit back and keeps the last reading; a shutdown keeps the log's count (R9,
R373, R382). -/
theorem test_resets :
    let s : State := { State.reset with port := { State.reset.port with
      chans := [⟨1, 0x1000, 8⟩], templim := 70, temp := 40, errCnt := 3 } }
    (match exec .warmReset s, exec .thermalShutdown s with
      | .next t, .next u => some (t.port.chans, t.port.templim, t.port.temp, t.port.errCnt, u.port.errCnt, u.port.chans == s.port.chans)
      | _, _ => none) = some ([⟨0, 0x1000, 8⟩], 95, 40, 0, 3, true) := by decide +kernel

/-- A slot that an MTILE step has used is EMPTY, whatever it held, before the run has ended (R147, R165). -/
theorem test_mtile_slot : (match exec (.mtileStep 2) (tune (mStep 64) id fun w => { w with slots := w.slots.map fun k => { k with loaded := true } }) with
    | .next t => (t.wg? 2).map fun w => ((w.slot 0).loaded, w.mtiles.map (·.step), (w.slot 1).loaded)
    | _ => none) = some (false, [1, 1], true) := by decide +kernel

/-- A crew whose last EXIT awaits a register is SCORE before it is selected (R263, R333). -/
theorem test_exit_waits : (((crewed (machine [0xF83FFFC0]) fun c => { c with pend := [⟨4, allThreads, none, 9⟩] }).settleReady).crew? ⟨2, 0⟩).map
    (fun c => (c.st, c.wait)) = some (.score, .exit) := by decide +kernel

/-- One step fetches a word from memory, runs it and counts it (R46, R322). -/
theorem test_step : (match step (State.reset.withFetchWord 32 0x78200028) with
    | .next t => (t.crews.map fun c => (lane (c.vreg 4).vals 31, c.ic))
    | _ => []) = [(5, 1)] := by decide +kernel

end Sys2Proof.Tests
end

section
/-! SUPPORT. RFT (R304): the machine after a boundary that leaves all but its crew, then what RFT does in a trap, outside one,
and what the fetch at a misaligned TPC answers. -/

namespace Sys2Proof.Machine

/-! Boundaries that leave the machine beside their crew -/

/-- The crew put back for the one whose word runs is found under its reference. -/
theorem crew?_setCrew_ctx {s : State} {x : Ctx} {c : Crew} (hx : s.ctx = some x) (hc : c.ref = x.c.ref) :
    ((s.setWg x.w).setCrew c).crew? x.c.ref = some c := by
  rw [← hc]
  exact crew?_setCrew (by rw [hc]; exact Option.isSome_of_eq_some (ctx_crew hx).1)

/-- The machine of a word with its crew replaced is the same outside that crew, where the crew holds no record (R336). -/
theorem sameMachine_setCrew {s : State} {x : Ctx} {c : Crew} (hx : s.ctx = some x) (hc : c.ref = x.c.ref)
    (hw : c.wake = []) : SameMachine x s ((s.setWg x.w).setCrew c) := by
  obtain ⟨-, hwg, -, -, -, -⟩ := ctx_crew hx
  have hgrown : grown x ((s.setWg x.w).setCrew c) = 0 := by simp [grown, crew?_setCrew_ctx hx hc, Crew.wakeUsed, hw]
  refine ⟨fun _ => rfl, fun r hr => ?_, fun u => wg?_setWg_self hwg u, ?_⟩
  · exact crew?_setCrew_ne _ c (by rwa [hc])
  · rw [hgrown, repairRing_zero]
    rfl

/-- A boundary that goes on and leaves the machine beside its crew: the crew as its meaning leaves it is counted at the next
address, commits there and empties its wake (R322, R325, R336, R338). -/
theorem boundary_result {i : Instr} {s : State} {x : Ctx} {d : Crew} {n : DWord} {body : Ctx → Res} (hr : Goes i s x)
    (hb : isBoundary i = true) (he : body (x.readStatus i) = .done { x with c := d, next := n })
    (hd : Calm { x with c := d }) (href : d.ref = x.c.ref) (hic : d.ic = x.c.ic) (hpc : d.pc = x.c.pc) :
    ∃ t c, runWord i body s = .next t ∧ CountedTo x t c n ∧ KeptAs i x d c ∧ SameFiles d c ∧ SameMachine x s t := by
  obtain ⟨-, -, hs, -, -, -⟩ := ctx_crew hr.ctx
  rw [hr.run, he, finish_counted s x.c { x with c := d, next := n } _ hd.halting hd.steps hd.replays
    (fun h => by simp [hb] at h)]
  simp only [hb, if_true, repairRing_zero, Ctx.sync, hs]
  refine ⟨_, _, rfl, ⟨crew?_setCrew_ctx hr.ctx href, ?_, rfl, rfl, rfl, rfl⟩, ⟨rfl, ?_⟩,
    ⟨rfl, rfl, rfl, rfl, ⟨rfl, rfl, rfl⟩, ⟨rfl, rfl⟩⟩, ?_⟩
  · exact congrArg (· + 1) hic
  · simp only [hb, if_true, hic, hpc, and_self]
  · exact sameMachine_setCrew hr.ctx href rfl

/-- Where no register file differs, nothing is written. -/
theorem SameFiles.unwritten {c d : Crew} (h : SameFiles c d) : Unwritten c d :=
  ⟨fun n _ => vreg_congr h.v h.o n, h.scalars, h.modes, h.l, h.m⟩

/-! Faults of a word's own meaning -/

/-- A word that goes on to a meaning that faults takes the exception, with no effect of its own (R303, R349). -/
theorem Goes.faults {i : Instr} {s : State} {x : Ctx} {f : Flt} {body : Ctx → Res} (h : Goes i s x)
    (he : body (x.readStatus i) = .fault f) : runWord i body s = .next (s.raiseFault x.c f) := by
  rw [h.run, he]
  rfl

/-! RFT -/

/-- The dispatch of RFT. -/
theorem exec_rft (f : SFields) (s : State) : exec (.rft f) s = runWord (.rft f) rftBody s := rfl

/-- In a trap RFT clears INTRAP and goes on at TPC (R304). -/
theorem rftBody_intrap {x : Ctx} (h : x.c.intrap = true) :
    rftBody x = .done { x with c := x.c.returnFromTrap, next := x.c.tpc } := by
  simp [rftBody, h]

/-- Outside a trap RFT raises TRAP_STATE (R304). -/
theorem rftBody_not_intrap {x : Ctx} (h : x.c.intrap = false) : rftBody x = .fault { code := .trapState } := by
  simp [rftBody, h]

/-- RFT in a trap (R304). -/
theorem exec_rft_intrap {f : SFields} {s : State} {x : Ctx} (hr : Runs (.rft f) s x) (ht : x.c.intrap = true) :
    ∃ t c, exec (.rft f) s = .next t ∧ CountedTo x t c x.c.tpc ∧ KeptAs (.rft f) x { x.c with intrap := false } c ∧
      Unwritten x.c c ∧ SameMachine x s t := by
  obtain ⟨k, hk⟩ : ∃ k, x.readStatus (.rft f) = x.timed k := readStatus_eq x _
  have hbody : rftBody (x.readStatus (.rft f)) =
      .done { x with c := { x.c with clock := k, intrap := false }, next := x.c.tpc } := by
    rw [hk]
    exact rftBody_intrap (x := x.timed k) ht
  obtain ⟨t, c, hexec, hcount, hkept, hfiles, hsame⟩ := boundary_result hr.goes rfl hbody
    ⟨hr.calm.halting, hr.calm.steps, hr.calm.replays⟩ rfl rfl rfl
  exact ⟨t, c, (exec_rft f s).trans hexec, hcount, hkept, hfiles.unwritten, hsame⟩

/-- RFT outside a trap (R304). -/
theorem exec_rft_not_intrap {f : SFields} {s : State} {x : Ctx} (hg : Goes (.rft f) s x) (ht : x.c.intrap = false) :
    FaultsWith (.rft f) s x { code := .trapState } := by
  obtain ⟨k, hk⟩ : ∃ k, x.readStatus (.rft f) = x.timed k := readStatus_eq x _
  have hbody : rftBody (x.readStatus (.rft f)) = .fault { code := .trapState } := by
    rw [hk]
    exact rftBody_not_intrap (x := x.timed k) ht
  exact (exec_rft f s).trans (hg.faults hbody)

/-- No word is fetched at an address that is no multiple of 4 (R50). -/
theorem fetchWord_misaligned (s : State) (w : Wg) {a : DWord} (h : a.toNat % 4 ≠ 0) :
    s.fetchWord w a = (s, .error { code := .illegalPacket, field := .major }) := by
  simp [State.fetchWord, h]

/-- Settles O7: RFT is a boundary whose own effect is on PC and INTRAP; the fault outside a trap is that of its meaning, and
the fault of a misaligned TPC is that of the fetch. -/
theorem returnFromTrap : Obligations.ReturnFromTrap := by
  unfold Obligations.ReturnFromTrap
  refine ⟨fun f s x => ⟨fun hr ht => ?_, exec_rft_not_intrap⟩, fun s w a => fetchWord_misaligned s w⟩
  obtain ⟨t, c, hexec, hcount, hkept, hunwritten, hsame⟩ := exec_rft_intrap hr ht
  have ⟨hrest, hcommit, _, hwake⟩ := hkept
  have hintrap : c.intrap = false := congrArg Crew.intrap hrest
  exact ⟨t, c, hexec, hcount, hintrap, hcommit, hwake, hkept, hunwritten, hsame⟩

end Sys2Proof.Machine
end

section
/-! SUPPORT. COMMIT and REWIND (R323, R342, R343): the machine after a word that pushes no record or that leaves its crew
uncounted, then what COMMIT makes of the commit count and the wake, and what REWIND begins, passes over or raises. -/

namespace Sys2Proof.Machine

/-! Words that push no record -/

/-- Crews that differ in nothing but what `Crew.rest` leaves out have the same reference. -/
theorem ref_of_rest {c d : Crew} (h : d.rest = c.rest) : d.ref = c.ref := by
  have hwg : d.wg = c.wg := by have := congrArg Crew.wg h; exact this
  have hidx : d.idx = c.idx := by have := congrArg Crew.idx h; exact this
  simp [Crew.ref, hwg, hidx]

/-- The crew a word runs in is READY and in no walk. -/
theorem ctx_ready {s : State} {x : Ctx} (h : s.ctx = some x) : x.c.st = .ready ∧ x.c.walk = none := by
  unfold State.ctx at h
  split at h
  · cases h
  · split at h
    · split at h
      · next hready =>
        cases h
        simp only [Bool.and_eq_true, beq_iff_eq, Option.isNone_iff_eq_none] at hready
        exact hready.1
      · cases h
    · cases h

/-- The machine of a word with its crew replaced is the same outside that crew, where no record was pushed (R352). -/
theorem sameMachine_setCrew_unpushed {s : State} {x : Ctx} {c : Crew} (hx : s.ctx = some x) (hc : c.ref = x.c.ref)
    (hw : c.wakeUsed ≤ x.c.wakeUsed) : SameMachine x s ((s.setWg x.w).setCrew c) := by
  obtain ⟨-, hwg, -, -, -, -⟩ := ctx_crew hx
  have hgrown : grown x ((s.setWg x.w).setCrew c) = 0 := by
    simpa [grown, crew?_setCrew_ctx hx hc] using Nat.sub_eq_zero_of_le hw
  refine ⟨fun _ => rfl, fun r hr => ?_, fun u => wg?_setWg_self hwg u, ?_⟩
  · exact crew?_setCrew_ne _ c (by rwa [hc])
  · rw [hgrown, repairRing_zero]
    rfl

/-- What is the same in the whole machine is the same in memory, the other crews and the workgroups. -/
theorem SameMachine.outside {x : Ctx} {s t : State} (h : SameMachine x s t) : SameOutside x s t :=
  ⟨h.1, h.2.1, h.2.2.1⟩

/-- A word that is no boundary, is done and pushes no record: the crew as its meaning leaves it is counted at the next
word, and the machine beside it stands (R322, R336). -/
theorem unpushed_result {i : Instr} {s : State} {x : Ctx} {d : Crew} {body : Ctx → Res} (hr : Runs i s x)
    (hb : isBoundary i = false) (he : body (x.readStatus i) = .done { x with c := d }) (hrest : d.rest = x.c.rest)
    (hic : d.ic = x.c.ic) (hwake : d.wakeUsed ≤ x.c.wakeUsed) :
    ∃ t c, runWord i body s = .next t ∧ Counted x t c ∧ c.rest = x.c.rest ∧ SameFiles d c ∧ c.commit = d.commit ∧
      c.commitAt = d.commitAt ∧ c.wake = d.wake ∧ SameMachine x s t := by
  obtain ⟨-, -, hs, hnext, -, -⟩ := ctx_crew hr.goes.ctx
  have href : d.ref = x.c.ref := ref_of_rest hrest
  have hhalting : d.halting = .none := by have := congrArg Crew.halting hrest; exact this.trans hr.calm.halting
  have hsteps : d.steps = none := by have := congrArg Crew.steps hrest; exact this.trans hr.calm.steps
  have hreplays : d.replays = [] := by have := congrArg Crew.replays hrest; exact this.trans hr.calm.replays
  have hring : d.ring = x.c.ring := by have := congrArg Crew.shareSize hrest; exact congrArg (· - 64) this
  have hroom : d.wakeUsed ≤ d.ring := by have := hr.roomy; unfold Roomy at this; omega
  rw [hr.goes.run, he, hb, finish_done (y := { x with c := d }) hhalting hsteps hreplays hroom]
  simp only [Nat.sub_eq_zero_of_le hwake, repairRing_zero, Ctx.sync, hs]
  refine ⟨_, _, rfl, ⟨crew?_setCrew_ctx hr.goes.ctx href, ?_, hnext, rfl, rfl, rfl⟩, ?_,
    ⟨rfl, rfl, rfl, rfl, ⟨rfl, rfl, rfl⟩, ⟨rfl, rfl⟩⟩, rfl, rfl, rfl, ?_⟩
  · exact congrArg (· + 1) hic
  · rw [← hrest]; rfl
  · exact sameMachine_setCrew_unpushed hr.goes.ctx href hwake

/-- A word that changes its crew without retiring and pushes no record: the crew is as its meaning leaves it at
some clock, and the machine beside it stands. -/
theorem kept_result {i : Instr} {s : State} {x : Ctx} {d : Clock → Crew} {body : Ctx → Res} (hr : Goes i s x)
    (he : ∀ k, body (x.timed k) = .keep { x with c := d k }) (href : ∀ k, (d k).ref = x.c.ref)
    (hrunon : ∀ k, (d k).runon = x.c.runon) (hwake : ∀ k, (d k).wakeUsed ≤ x.c.wakeUsed) :
    ∃ t k, runWord i body s = .next t ∧ t.crew? x.c.ref = some (d k) ∧ SameMachine x s t := by
  obtain ⟨-, -, hs, -, -, -⟩ := ctx_crew hr.ctx
  obtain ⟨k, hk⟩ : ∃ k, x.readStatus i = x.timed k := readStatus_eq x _
  have hleave : ∀ u : State, u.leave (d k) = u.setCrew (d k) := fun u => by simp [State.leave, hrunon, hr.settled]
  rw [hr.run, hk, he]
  refine ⟨_, k, rfl, ?_⟩
  simp only [State.finish, hleave, Ctx.sync, hs]
  exact ⟨crew?_setCrew_ctx hr.ctx (href k), sameMachine_setCrew_unpushed hr.ctx (href k) (hwake k)⟩

/-! Legal operands -/

/-- A word that passes steps 1 to 4 of R72 passes steps 2 and 3. -/
theorem encodingBad_of_firstFault {i : Instr} {c : Crew} {w : Wg} (h : firstFault i c w = none) :
    encodingBad i c.pfx = none := by
  have henc : encodingFault i c = none := by
    unfold firstFault at h
    split at h
    · cases h
    · assumption
  unfold encodingFault at henc
  split at henc
  · cases henc
  · simpa using henc

/-- Step 3 of R72 comes after step 2. -/
theorem illegalOperand_of_legality {i : Instr} {p : Option XFields} (h : legality i p = none) :
    illegalOperand (view i) = none := by
  unfold legality at h
  split at h
  · cases h
  · simpa using h

/-- A word that passes step 3 of R72 holds in each register field a code point that the field accepts (R64, R65). -/
theorem ok_of_illegalOperand {v : View} (h : illegalOperand v = none) {o : Opnd} (ho : o ∈ v.operands)
    (hf : o.field = .d ∨ o.field = .a ∨ o.field = .b) : o.ok v.uni = true := by
  by_contra hbad
  have hmem : o.field ∈ (v.predFields.filter (fun p => !predOk p)).map (·.1) ++
      (v.operands.filter fun o => !o.ok v.uni).map (·.field) :=
    List.mem_append_right _ (List.mem_map_of_mem (List.mem_filter.mpr ⟨ho, by simpa using hbad⟩))
  unfold illegalOperand at h
  dsimp only at h
  split at h
  · cases h
  · cases h
  · cases h
  · next hd ha hb =>
    rcases hf with hf | hf | hf <;> rw [hf] at hmem
    · exact hd _ (if_pos (List.contains_iff_mem.mpr hmem))
    · exact ha _ (if_pos (List.contains_iff_mem.mpr hmem))
    · exact hb _ (if_pos (List.contains_iff_mem.mpr hmem))

/-- A word with no queue and no mailbox in a register field names none (R111). -/
theorem namesQM_eq_false {v : View} (h : ∀ o ∈ v.operands, kindOf v.uni o.code ≠ .q ∧ kindOf v.uni o.code ≠ .m) :
    v.namesQM = false := by
  have hq : ∀ o ∈ v.operands, v.uni = false → vecKind o.code ≠ .q := fun o ho hu => by simpa [kindOf, hu] using (h o ho).1
  have hm : ∀ o ∈ v.operands, kindOf v.uni o.code ≠ .m := fun o ho => (h o ho).2
  have hpops : v.pops = [] := by
    unfold View.pops
    split
    · rfl
    · next hu => simpa using fun o ho hk => absurd hk (hq o ho (by simpa using hu))
  have hpushes : v.pushes = [] := by
    unfold View.pushes
    split
    · rfl
    · next hu => simpa using fun o ho hk => absurd hk (hq o ho (by simpa using hu))
  have hreads : v.mboxReads = [] := by simpa [View.mboxReads] using fun o ho hk => absurd hk (hm o ho)
  have hwrites : v.mboxWrites = [] := by simpa [View.mboxWrites] using fun o ho hk => absurd hk (hm o ho)
  simp [View.namesQM, hpops, hpushes, hreads, hwrites]

/-! COMMIT -/

/-- The dispatch of COMMIT. -/
theorem exec_commit (f : SFields) (s : State) : exec (.commit f) s = runWord (.commit f) (commitBody f) s := rfl

/-- Min(Pair(a), IC) of the leader, or IC where a is none (R342). -/
def Ctx.commitTarget (x : Ctx) (f : SFields) : DWord :=
  if f.a = 127 then x.c.ic else if x.leaderPair f.a < x.c.ic then x.leaderPair f.a else x.c.ic

/-- The crew with the commit count raised, where COMMIT raises it (R342). -/
def Ctx.committed (x : Ctx) (f : SFields) : Crew :=
  if x.act = 0 ∨ vecKind f.a = .zero ∨ x.commitTarget f ≤ x.c.commit then x.c
  else x.c.commitTo (x.commitTarget f) x.c.pc

/-- COMMIT is done, with its effect on the crew alone. -/
theorem commitBody_eq (f : SFields) (x : Ctx) : commitBody f x = .done { x with c := x.committed f } := by
  have htarget : (if f.a == 127 then x.c.ic else if x.leaderPair f.a < x.c.ic then x.leaderPair f.a else x.c.ic) =
      x.commitTarget f := by simp [Ctx.commitTarget]
  unfold commitBody
  simp only [Bool.or_eq_true, beq_iff_eq] at htarget ⊢
  rw [htarget]
  by_cases hstands : x.act = 0 ∨ vecKind f.a = .zero ∨ x.commitTarget f ≤ x.c.commit
  · rw [Ctx.committed, if_pos hstands]
    rcases or_assoc.mpr hstands with hidle | hlow
    · rw [if_pos hidle]
    · rw [if_neg (BitVec.not_lt.mpr hlow), ite_self]
  · obtain ⟨hact, hzero, hlow⟩ := by simpa only [not_or] using hstands
    rw [Ctx.committed, if_neg hstands, if_neg (not_or.mpr ⟨hact, hzero⟩), if_pos (BitVec.not_le.mp hlow)]

/-- COMMIT reads nothing of the crew's clock, and leaves it. -/
theorem committed_timed (f : SFields) (x : Ctx) (k : Clock) :
    (x.timed k).committed f = { x.committed f with clock := k } := by
  by_cases h : x.act = 0 ∨ vecKind f.a = .zero ∨ x.commitTarget f ≤ x.c.commit
  · exact (if_pos h).trans (by rw [Ctx.committed, if_pos h]; rfl)
  · exact (if_neg h).trans (by rw [Ctx.committed, if_neg h]; rfl)

/-- Where COMMIT raises the count, it frees the records below it (R342). -/
theorem committed_of_lt {f : SFields} {x : Ctx} (hact : x.act ≠ 0) (hzero : vecKind f.a ≠ .zero)
    (hlt : x.c.commit < x.commitTarget f) : x.committed f = x.c.commitTo (x.commitTarget f) x.c.pc :=
  if_neg (not_or.mpr ⟨hact, not_or.mpr ⟨hzero, BitVec.not_le.mpr hlt⟩⟩)

/-- What COMMIT may change of its crew: the commit count, the address that set it, the wake and the ring's tail. -/
theorem committed_eq (f : SFields) (x : Ctx) :
    ∃ n a wk tl, x.committed f = { x.c with commit := n, commitAt := a, wake := wk, tail := tl } ∧ wk.Sublist x.c.wake := by
  unfold Ctx.committed
  split
  · exact ⟨x.c.commit, x.c.commitAt, x.c.wake, x.c.tail, rfl, .refl _⟩
  · exact ⟨_, _, _, _, rfl, List.filter_sublist⟩

/-- Fewer records use no more of the ring. -/
theorem wakeUsed_le_of_sublist {c d : Crew} (h : d.wake.Sublist c.wake) : d.wakeUsed ≤ c.wakeUsed :=
  (h.map WakeRec.size).sum_le_sum (fun _ _ => Nat.zero_le _)

/-- COMMIT that passes the checks is no boundary: its operand is no queue and no mailbox (R64, R336). -/
theorem isBoundary_commit {f : SFields} {c : Crew} {w : Wg} (h : firstFault (.commit f) c w = none) :
    isBoundary (.commit f) = false := by
  refine namesQM_eq_false fun o ho => ?_
  have hok := ok_of_illegalOperand (illegalOperand_of_legality (encodingBad_of_firstFault h)) ho
  obtain rfl : o = ⟨.a, f.a, commitSrc⟩ := List.mem_singleton.mp ho
  have hkind := (Bool.and_eq_true_iff.mp (hok (.inr (.inl rfl)))).1
  constructor <;> intro hk <;> simp [hk, commitSrc] at hkind

/-- COMMIT counts, with its effect on the commit count and the wake, and leaves all else (R342). -/
theorem exec_commit_committed {f : SFields} {s : State} {x : Ctx} (hr : Runs (.commit f) s x) :
    ∃ t c, exec (.commit f) s = .next t ∧ Counted x t c ∧ c.rest = x.c.rest ∧ Unwritten x.c c ∧ SameMachine x s t ∧
      c.commit = (x.committed f).commit ∧ c.commitAt = (x.committed f).commitAt ∧ c.wake = (x.committed f).wake := by
  obtain ⟨k, hk⟩ : ∃ k, x.readStatus (.commit f) = x.timed k := readStatus_eq x _
  obtain ⟨n, a, wk, tl, hcommitted, hsub⟩ := committed_eq f x
  have hbody : commitBody f (x.readStatus (.commit f)) = .done { x with c := { x.committed f with clock := k } } := by
    rw [hk, commitBody_eq, committed_timed]
    rfl
  rw [hcommitted] at hbody ⊢
  obtain ⟨t, c, hexec, hcount, hrest, hfiles, hcommit, hat, hwake, hsame⟩ :=
    unpushed_result hr (isBoundary_commit hr.goes.legal) hbody rfl rfl (wakeUsed_le_of_sublist hsub)
  exact ⟨t, c, (exec_commit f s).trans hexec, hcount, hrest, hfiles.unwritten, hsame, hcommit, hat, hwake⟩

/-- Nothing is popped where no record bears the count (R339, R344). -/
theorem popAll_none {x : Ctx} {ic : DWord} (h : ∀ r ∈ x.c.wake, r.ic ≠ ic) (n : Nat) : x.popAll ic n = .ok x := by
  cases n with
  | zero => rfl
  | succ n =>
    unfold Ctx.popAll Crew.pop
    cases hw : x.c.wake with
    | nil => rfl
    | cons r rest => simp [h r (by simp [hw])]

/-- A walk passes COMMIT without effect (R342). -/
theorem undo_commit {f : SFields} {x : Ctx} (h : ∀ r ∈ x.c.wake, r.ic ≠ x.c.ic - 1) : x.undo (.commit f) = .ok x := by
  simp only [Ctx.undo, popAll_none h, undoOf, steppedGen, view, Bool.false_eq_true, if_false]

/-- COMMIT (R342): its inverse, and its effect by the cases of its target. -/
theorem commit_claim : Claims.Commit := by
  refine ⟨fun f x h => ⟨rfl, undo_commit h⟩, fun f s x hr => ?_⟩
  obtain ⟨t, c, hexec, hcount, hrest, hfiles, hsame, hcommit, hat, hwake⟩ := exec_commit_committed hr
  refine ⟨t, c, hexec, hcount, hrest, hfiles, hsame, fun hstands => ?_, fun hact hzero hlt => ?_⟩
  · have hcrew : x.committed f = x.c := if_pos hstands
    rw [hcommit, hwake, hcrew]
    exact ⟨rfl, rfl⟩
  · rw [hcommit, hat, hwake, committed_of_lt hact hzero hlt]
    exact ⟨rfl, rfl, rfl⟩

/-! REWIND -/

/-- The dispatch of REWIND. -/
theorem exec_rewind (f : SFields) (s : State) : exec (.rewind f) s = runWord (.rewind f) (rewindBody f) s := rfl

/-- The target of REWIND: Pair(a) of the leader, or 0 from zero (R343). -/
def Ctx.rewindTarget (x : Ctx) (f : SFields) : DWord := if vecKind f.a = .zero then 0 else x.leaderPair f.a

/-- The meaning of REWIND on its target. -/
theorem rewindBody_eq (f : SFields) (x : Ctx) : rewindBody f x =
    if x.act = 0 then x.uncounted
    else if x.c.ic < x.rewindTarget f then .fault { code := .controlInvalid, field := .a }
    else if x.rewindTarget f < x.c.commit then .fault { code := .rewindPastCommit, detail := x.c.commitDetail }
    else if x.rewindTarget f = x.c.ic then x.uncounted
    else if x.c.pend.any (·.vals.isSome) then .wait .score .pendingReg
    else .keep { x with c := { x.c with xfer := false }.startWalk ⟨x.rewindTarget f, .rewind, 0, x.c.ic, [], [], []⟩ } := by
  simp [rewindBody, Ctx.rewindTarget]

/-- Past IC, REWIND raises CONTROL_INVALID (R343). -/
theorem rewindBody_past_ic {f : SFields} {x : Ctx} (hact : x.act ≠ 0) (hn : x.c.ic < x.rewindTarget f) :
    rewindBody f x = .fault { code := .controlInvalid, field := .a } := by
  rw [rewindBody_eq, if_neg hact, if_pos hn]

/-- Below the commit count, REWIND raises REWIND_PAST_COMMIT (R343). -/
theorem rewindBody_past_commit {f : SFields} {x : Ctx} (hact : x.act ≠ 0) (hle : x.rewindTarget f ≤ x.c.ic)
    (hn : x.rewindTarget f < x.c.commit) :
    rewindBody f x = .fault { code := .rewindPastCommit, detail := x.c.commitDetail } := by
  rw [rewindBody_eq, if_neg hact, if_neg (BitVec.not_lt.mpr hle), if_pos hn]

/-- To the present count, or with no active thread, REWIND is passed over (R343). -/
theorem rewindBody_uncounted {f : SFields} {x : Ctx}
    (h : x.act = 0 ∨ (x.c.commit ≤ x.rewindTarget f ∧ x.rewindTarget f = x.c.ic)) : rewindBody f x = x.uncounted := by
  rw [rewindBody_eq]
  by_cases hact : x.act = 0
  · rw [if_pos hact]
  · obtain ⟨hcommit, heq⟩ := h.resolve_left hact
    rw [if_neg hact, if_neg (by rw [heq]; exact BitVec.lt_irrefl _), if_neg (BitVec.not_lt.mpr hcommit), if_pos heq]

/-- To an earlier count not below the commit count, with no reply pending, REWIND starts the walk (R323, R343). -/
theorem rewindBody_walks {f : SFields} {x : Ctx} (hact : x.act ≠ 0) (hcommit : x.c.commit ≤ x.rewindTarget f)
    (hlt : x.rewindTarget f < x.c.ic) (hpend : x.c.pend = []) : rewindBody f x =
      .keep { x with c := { x.c with xfer := false }.startWalk ⟨x.rewindTarget f, .rewind, 0, x.c.ic, [], [], []⟩ } := by
  rw [rewindBody_eq, if_neg hact, if_neg (BitVec.not_lt.mpr (BitVec.le_of_lt hlt)), if_neg (BitVec.not_lt.mpr hcommit),
    if_neg (BitVec.ne_of_lt hlt), hpend]
  rfl

/-- Every latch of a crew that starts a walk is invalid (R27, R344). -/
theorem startWalk_latches (c : Crew) (k : Walk) : ∀ l ∈ (c.startWalk k).l, l.valid = false := by
  intro l hl
  obtain ⟨l', -, rfl⟩ := List.mem_map.mp hl
  rfl

/-- A REWIND that starts a walk (R323, R343, R344). -/
theorem exec_rewind_walks {f : SFields} {s : State} {x : Ctx} (hr : Runs (.rewind f) s x) (hact : x.act ≠ 0)
    (hcommit : x.c.commit ≤ x.rewindTarget f) (hlt : x.rewindTarget f < x.c.ic) (hpend : x.c.pend = []) :
    ∃ t c k, exec (.rewind f) s = .next t ∧ t.crew? x.c.ref = some c ∧ c.walk = some k ∧ k.target = x.rewindTarget f ∧
      k.why = .rewind ∧ c.pc = x.c.pc ∧ c.ic = x.c.ic ∧ (∀ l ∈ c.l, l.valid = false) ∧ SameRegs x.c c [] ∧
      SameScalars x.c c ∧ c.wake = x.c.wake ∧ SameOutside x s t := by
  obtain ⟨t, k, hexec, hcrew, hsame⟩ := kept_result hr.goes
    (fun k => rewindBody_walks (x := x.timed k) hact hcommit hlt hpend) (fun _ => rfl) (fun _ => rfl) (fun _ => le_rfl)
  exact ⟨t, _, _, (exec_rewind f s).trans hexec, hcrew, rfl, rfl, rfl, rfl, rfl, startWalk_latches _ _, fun _ _ => rfl,
    ⟨rfl, rfl, rfl⟩, rfl, hsame.outside⟩

/-- With no HALT under way, what is passed over uncounted moves the place and nothing that a program reads (R322, R343). -/
theorem uncounted_calm {x : Ctx} (h : x.c.halting = .none) : x.uncounted =
    .keep { x with c := { x.c with pc := x.next, pfx := none, granted := none, waitcnt := 0, xfer := false } } := by
  simp [Ctx.uncounted, Crew.atPacket, h]

/-- A REWIND without effect (R322, R343). -/
theorem exec_rewind_uncounted {f : SFields} {s : State} {x : Ctx} (hr : Runs (.rewind f) s x)
    (h : x.act = 0 ∨ (x.c.commit ≤ x.rewindTarget f ∧ x.rewindTarget f = x.c.ic)) :
    ∃ t c, exec (.rewind f) s = .next t ∧ t.crew? x.c.ref = some c ∧ c.walk = none ∧ c.pc = x.c.after ∧ c.ic = x.c.ic ∧
      Unwritten x.c c ∧ c.wake = x.c.wake ∧ SameOutside x s t := by
  obtain ⟨-, -, -, hnext, -, -⟩ := ctx_crew hr.goes.ctx
  obtain ⟨-, hwalk⟩ := ctx_ready hr.goes.ctx
  obtain ⟨t, k, hexec, hcrew, hsame⟩ := kept_result hr.goes
    (fun k => (rewindBody_uncounted (x := x.timed k) h).trans (uncounted_calm hr.calm.halting))
    (fun _ => rfl) (fun _ => rfl) (fun _ => le_rfl)
  exact ⟨t, _, (exec_rewind f s).trans hexec, hcrew, hwalk, hnext, rfl,
    ⟨fun _ _ => rfl, ⟨rfl, rfl, rfl⟩, ⟨rfl, rfl⟩, rfl, rfl⟩, rfl, hsame.outside⟩

/-- A fault of REWIND's meaning, whatever the crew's clock, is taken (R303, R343). -/
theorem exec_rewind_faults {f : SFields} {s : State} {x : Ctx} {flt : Flt} (hg : Goes (.rewind f) s x)
    (he : ∀ k, rewindBody f (x.timed k) = .fault flt) : FaultsWith (.rewind f) s x flt := by
  obtain ⟨k, hk⟩ : ∃ k, x.readStatus (.rewind f) = x.timed k := readStatus_eq x _
  exact (exec_rewind f s).trans (hg.faults (by rw [hk, he]))

/-- REWIND (R323, R343, R344): the walk, the word passed over, and the two faults. -/
theorem rewind_claim : Claims.Rewind := fun _ _ _ =>
  ⟨exec_rewind_walks, exec_rewind_uncounted,
    fun hg hact hn => exec_rewind_faults hg fun _ => rewindBody_past_ic hact hn,
    fun hg hact hle hn => exec_rewind_faults hg fun _ => rewindBody_past_commit hact hle hn⟩

/-- Settles O45: COMMIT is counted with its effect on the commit count and the wake alone; REWIND is decided by the
comparisons of its target with IC and the commit count. -/
theorem commitAndRewind : Obligations.CommitAndRewind := ⟨commit_claim, rewind_claim⟩

end Sys2Proof.Machine
end
